-- ==== Sys2Proof/Word.lean ====
section
/-! DEFINITION. The words of the W7: halfwords of code, 128-bit register values, 64-bit lanes, 52-bit physical and 48-bit
virtual addresses, and the 19-bit place of a core (spec 00 R4, 09 R172, 10 R195, R201; Table 5-2 key 12). -/

namespace Sys2Proof

/-- A byte of memory. -/
abbrev Byte := BitVec 8

/-- A halfword of code (R290). -/
abbrev Half := BitVec 16

/-- A 64-bit scalar or system-register value. -/
abbrev W64 := BitVec 64

/-- A register's value (R172). -/
abbrev W128 := BitVec 128

/-- A virtual address (R195). -/
abbrev VAddr := BitVec 48

/-- A dirty-sector signature of 1,024 bits (R227). -/
abbrev Sig := BitVec 1024

end Sys2Proof
end

