-- ==== Sys2Proof/Config.lean ====
section
/-! DEFINITION. What the spec leaves to the implementation or to chance: opaque constants, so that no proof can use their
values (assumption log 2). Fixed figures of the spec that several files use stand here too. -/

namespace Sys2Proof.Config

/-- A fresh 64-bit draw of management processor 0's random generator (R48), by the counter State.free. -/
opaque draw64 : Nat → BitVec 64

/-- The nonce of the n-th ECDSA signature (R53 names the algorithm, not the nonce), by the counter State.free. -/
opaque ecdsaNonce : Nat → Nat

/-- What a line written under one key reads as under another (R33): by controller draw count, second-tier line, key
written, key read and the line's 1,024 bits. -/
opaque wrongKey : Nat → Nat → Nat → Nat → BitVec 1024 → BitVec 1024

/-- The part of the alias certificate that is signed, in DER, for a public key and the four values of R48. -/
opaque aliasToSign : BitVec 512 → BitVec 256 → BitVec 32 → BitVec 64 → BitVec 64 → List Byte

/-- The DER bytes of the alias certificate, from the part that is signed and the signature's two halves. -/
opaque aliasCertBytes : List Byte → (Nat × Nat) → List Byte

/-- SHA-256 of the vendor's public key, held in mask ROM (R45). -/
opaque romKeyHash : BitVec 256

/-- The boot ROM version of report offset 0x004 (R53). -/
opaque bootRomVersion : BitVec 32

/-- How the bytes of an image header are laid out (R45 names the fields, not their places): the vendor key, the security
version, the signature's two halves, and the rest that the signature covers. -/
opaque imageHeader : List Byte → (BitVec 512 × BitVec 32 × (Nat × Nat) × List Byte)

/-- The field's side in columns (R15). -/
abbrev side : Nat := 512

/-- Bytes of local SRAM, and of a pool slot (R14, R78). -/
abbrev sramBytes : Nat := 0x18000

/-- Reference clk of an epoch and of grace (R88, R92). -/
abbrev epochClk : Nat := 65536

end Sys2Proof.Config
end

