-- ==== Sys2Proof/Syntax.lean ====
section
/-! DEFINITION. The abstract syntax: one constructor of Instr for each row of spec/opcode_table.json. The machine instructions
carry their typed modifiers and one Args (their operands); the events and host operations carry what names the agent,
the register or the message they concern. -/

namespace Sys2Proof

/-- Element types in the order of their codes (Table 14-3). -/
inductive Ty where
  | x | s64 | n64 | s32 | n32 | s16 | n16 | s8 | n8 | f32 | bf16 | f16 | f8 | f4 | c | b
  deriving DecidableEq, Repr

/-- A source operand: a register code (Table 14-1), an immediate already extended to 32 bits (R297), or a literal (R298). -/
inductive Src where
  | reg (code : BitVec 6)
  | imm (v : BitVec 32)
  | lit (v : BitVec 64)
  deriving DecidableEq, Repr

/-- The operands of a machine instruction as R294 maps them. `xr` and `nxi` say which words carry them (R284); they change
no meaning, only the instruction's length. An operand that the instruction does not use is code 0. -/
structure Args where
  /-- an XR word stands -/
  xr : Bool := false
  /-- how many XI words stand -/
  nxi : BitVec 2 := 0
  /-- lookahead L (R301) -/
  look : BitVec 4 := 0
  /-- element type (R296) -/
  ty : Ty := .x
  /-- dest, or the capability or address that stf and stg name first (R283) -/
  d : BitVec 6 := 0
  /-- src1 -/
  s1 : Src := .reg 0
  /-- src2 -/
  s2 : Src := .reg 0
  /-- the displacement of blt and bge, whose two sources are src1 and src2 (R336) -/
  s3 : Src := .reg 0
  deriving DecidableEq, Repr

/-- Scopes of Table 11-1. -/
inductive Scope where
  | core | hall | launch | sys
  deriving DecidableEq, Repr

/-- The .ord key of ld, st, stf and the atomics (Table 18-3). -/
inductive Ord where
  | plain | acq | rel | ar
  deriving DecidableEq, Repr

/-- The .ord key of fence (Table 18-3). -/
inductive FenceKind where
  | full | acq | rel
  deriving DecidableEq, Repr

/-- The .cc key of vcmp (Table 17-5). -/
inductive VCond where
  | eq | ne | lt | le | gt | ge | un | ord
  deriving DecidableEq, Repr

/-- The .op key of vred (Table 17-5). -/
inductive RedOp where
  | add | max | min | amax
  deriving DecidableEq, Repr

/-- The .span key of tlbi (Table 20-3). -/
inductive Span where
  | page | launch | hall
  deriving DecidableEq, Repr

/-- The rows of the opcode table. -/
inductive Instr where
  /-- POWER_UP (R44). Power-up starts the boot sequence: the boot ROM runs, the PCI Express link trains and STATE becomes ROM_WAIT. -/
  | powerUp
  /-- I3C_RESET (R44). A reset that the board controller requests over I3C restarts the boot sequence, and ends any turnover in progress. -/
  | i3cReset
  /-- POWER_LOSS (R52). Loss of power ends any turnover in progress, and the next power-up runs the full boot wipe. -/
  | powerLoss
  /-- REPORT (R53). Mailbox command REPORT fills MB_REPORT with the attestation layout and signs it with the alias key. -/
  | report
  /-- TURNOVER (R49). Mailbox command TURNOVER ends every launch, wipes and re-measures the module, increments TURNS and issues a new alias key. -/
  | turnover
  /-- LOAD_IMAGE (R43). Mailbox command LOAD_IMAGE reads and checks a firmware image, ending all launches first if READY, then boots from step 2. -/
  | loadImage (arg : BitVec 32)
  /-- BAD_OP (R41). A write of an undefined OP to MB_CMD completes at once with RESULT BAD_OP and signals vector 63. -/
  | badOp (op : BitVec 8) (arg : BitVec 32)
  /-- TURNOVER_RECORD_BUDGET_EXPIRY (R50). When the 10 ms budget of turnover step 1 runs out, unwritten records are dropped, RLOST is set
  and step 2 starts. -/
  | turnoverRecordBudgetExpiry
  /-- W2_READ (R30). A host read through W2 is performed at the home of (BASE << 36) + offset, or returns all ones and sets ERR. -/
  | w2Read (off len : Nat)
  /-- W2_WRITE (R30). A host write through W2 is performed at its home under key index 0, or is discarded and sets ERR. -/
  | w2Write (off : Nat) (data : List Byte)
  /-- W2_CTL_WRITE (R31). A write to W2_CTL moves the aperture base for every later W2 request. -/
  | w2CtlWrite (v : W64)
  /-- REGISTER_WRITE (R6). A write to a register with no row of its own updates its fields according to their access types. -/
  | registerWrite (off size : Nat) (v : W64)
  /-- TIME_CORRECTION (R37). An IEEE 1588 or host-relayed correction slews device time, or steps it forward for a large positive offset. -/
  | timeCorrection (offset : Int)
  /-- PEER_PORT_DOWN (R35). A peer port goes down; futures crossing it are poisoned ENGINE and lost stores or messages raise a peer fault. -/
  | peerPortDown (port : Nat)
  /-- DROOP_ALARM (R21). A group's droop detector fires; the group's clock is halved for 4,096 reference clk and ALARM is set. -/
  | droopAlarm (pg : Nat)
  /-- THROTTLE_END (R21). The 4,096 clk throttle period of a group expires, and the group returns to full clock. -/
  | throttleEnd (pg : Nat)
  /-- GOVERNOR_GATE (R98). A hall's junction temperature crosses a governor threshold, and issue gating of the hall is set or lifted. -/
  | governorGate (hall temp : Nat)
  /-- THERMAL_TRIP (R26). A hall reaches 105 degrees C and raises a thermal fault of the running launch. -/
  | thermalTrip (hall : Nat)
  /-- DOORBELL (R56). A TAIL write to Q_REG adds records to a launch queue, or is refused with DBERR. -/
  | doorbell (q : Nat) (tail : BitVec 6)
  /-- QUEUE_FLUSH (R56). Writing FLUSH cancels every record not yet started, with one CANCELLED record each, and sets HEAD to TAIL. -/
  | queueFlush (q : Nat)
  /-- HEAD_LATCH (R59). A record that becomes head of its queue is read once and given the head checks, failing with BAD_RECORD or GRADE_NONE. -/
  | headLatch (q : Nat)
  /-- LAUNCH_START (R61). The start arbiter takes one candidate whose LID is free and region clear, makes the start checks, grants roles and
  begins staggered admission. -/
  | launchStart
  /-- STAGGER_STEP (R23). Every 200 ns the start sequencer admits the next N group rows, starting their initial tasks, unless a throttle holds it. -/
  | staggerStep (lid : Nat)
  /-- TT_ARM (R68). Setting EN in a time-triggered entry arms it and fixes its first slot time. -/
  | ttArm (e : Nat) (rule : BitVec 2)
  /-- TT_FIRING (R68). At a slot time an armed entry fires, re-reads its record, and becomes a candidate or overruns under its RULE. -/
  | ttFiring (e : Nat)
  /-- TT_DEFERRED_CANDIDATE (R69). A deferred firing becomes a candidate once no launch of the entry is waiting or running. -/
  | ttDeferredCandidate (e : Nat)
  /-- COMPLETION_RECORD_WRITE (R62). A waiting completion or fault record is written to the host ring once there is room and EN is 1. -/
  | completionRecordWrite
  /-- PREEMPT (R70). Writing GO to PREEMPT asks the W7 to quiesce and save the launch LID, or sets RESULT NOT_RUNNING or NO_SLOT. -/
  | preempt (lid : BitVec 8)
  /-- QUIESCENCE_SAVE (R126). Once a pre-empted launch has drained, dirty lines are written back, each column saves its state, the licence
  is released and PREEMPTED is recorded. -/
  | quiescenceSave (lid : Nat)
  /-- LAUNCH_END (R121). The hall controllers detect that a launch has no work left and write its OK completion record after the write-backs. -/
  | launchEnd (lid : Nat)
  /-- DEBUG_HALT (R272). Writing HALT = 1 in an armed session halts every core of the launch at its next instruction boundary. -/
  | debugHalt (lid : BitVec 8) (fhalt armed : Bool)
  /-- DEBUG_RESUME (R272). Writing HALT = 0 resumes a halted launch. -/
  | debugResume (lid : BitVec 8) (fhalt armed : Bool)
  /-- DEBUG_TEARDOWN (R273). Writing HALT = 0 for a frozen launch tears it down as a fault does. -/
  | debugTeardown (lid : BitVec 8) (fhalt armed : Bool)
  /-- DBG_READ (R275). DBG_SEL READ copies a register of a halted launch into DBG_DATA and DBG_META. -/
  | dbgRead (l : BitVec 20) (ctx : BitVec 3) (opnd : BitVec 6)
  /-- DBG_WRITE (R275). DBG_SEL WRITE sets a register of a halted launch FULL or POISONED, refusing a PENDING one. -/
  | dbgWrite (l : BitVec 20) (ctx : BitVec 3) (opnd : BitVec 6)
  /-- DBG_CANCEL (R275). DBG_SEL CANCEL poisons a PENDING register DEBUGCANCEL and discards its delivery. -/
  | dbgCancel (l : BitVec 20) (ctx : BitVec 3) (opnd : BitVec 6)
  /-- BREAKPOINT_HALT (R274). A context about to issue the instruction at an enabled breakpoint address halts the launch before it issues. -/
  | breakpointHalt (core ctx : Nat)
  /-- TASK_ADMISSION (R110). A free context admits its next task by priority and aging, reads its handler entry and sets its registers. -/
  | taskAdmission (core : Nat)
  /-- TASK_LIMIT_EXPIRY (R117). A task whose clk count reaches its limit without retiring raises a task-limit fault. -/
  | taskLimitExpiry (core ctx : Nat)
  /-- HANDLER_LIMIT_EXPIRY (R118). A high-priority handler not retired within 512 clk raises a handler-limit fault. -/
  | handlerLimitExpiry (core : Nat)
  /-- STEAL_REQUEST (R111). A steal request arrives at a victim tile, which answers with its topmost unpinned record or empty. -/
  | stealRequest (k : Nat)
  /-- STEAL_ANSWER (R112). A steal answer arrives; the record is admitted or pushed on the tile's deque. -/
  | stealAnswer (k : Nat)
  /-- STEAL_BACKOFF_EXPIRY (R111). The 1,024 clk pause after every candidate answered empty ends, and steal requests may resume. -/
  | stealBackoffExpiry (core : Nat)
  /-- DONATION_PERIOD (R113). Every 4,096 reference clk a hall controller computes its load and may donate up to 32 records to a neighbour hall. -/
  | donationPeriod (hall lid : Nat)
  /-- SPILL_REFILL (R107). The DRAM read that returns up to 8 spilled records to an empty hardware deque completes. -/
  | spillRefill (core : Nat)
  /-- COUNTER_DECREMENT (R108). A decrement arrives at a dependence counter, releasing its bound record at zero or raising COUNTER_UNDERFLOW. -/
  | counterDecrement (k : Nat)
  /-- SHADOW_RESULT_LAND (R175). The result of a shadowed instruction or local load lands in its destination after its latency. -/
  | shadowResultLand (core k : Nat)
  /-- FUTURE_FILL (R176). A producer's Fill or Poison arrives and is applied to the register holding the ticket, with its signature as an acquire. -/
  | futureFill (k : Nat)
  /-- HOME_ACCESS (R219). An access request arrives at its home and is performed in arrival order, with release signatures recorded and
  acknowledgement sent. -/
  | homeAccess (k : Nat)
  /-- LANDING_ACCESS (R208). The landing performs one DRAM access in its 8 clk slot, correcting or reporting soft errors. -/
  | landingAccess (col : Nat)
  /-- EDGE_ACCESS (R211). A second-tier controller performs a line access under the page's key index, honouring zero marks. -/
  | edgeAccess (ctl : Nat)
  /-- ACCESS_ACK (R219). The acknowledgement or response of a store, write-back or atomic arrives back at the issuing core. -/
  | accessAck (k : Nat)
  /-- L1_FILL (R206). A fill arrives for an L1 line and writes its unmasked parts, answering the loads waiting on it. -/
  | l1Fill (k : Nat)
  /-- PAGE_WALK (R214). A TLB miss walk completes, filling the TLB or raising a translation fault. -/
  | pageWalk (core ctx : Nat)
  /-- CODE_SCAN (R305). The scanner finishes checking a 64 KiB unit, recording its start map and code marks, or raises CODE_SCAN. -/
  | codeScan (core ctx : Nat)
  /-- ROUTER_FORWARD (R135). A router receives a message header and forwards it x then y toward DEST when the downstream buffer has room. -/
  | routerForward (k : Nat)
  /-- ACTIVE_MESSAGE_ACCEPT (R106). An active message is accepted into its low- or high-priority queue once an entry is free. -/
  | activeMessageAccept (k : Nat)
  /-- CHANNEL_MESSAGE_ACCEPT (R143). A channel message is accepted into its ring once all its entries fit, or raises a channel fault if the
  channel is disabled. -/
  | channelMessageAccept (k : Nat)
  /-- PEER_MESSAGE_REFUSAL (R433). A peer port returns a refusal for a message to a missing launch or tile, and the sending launch takes a
  PEER fault. -/
  | peerMessageRefusal (k : Nat)
  /-- CENSUS_EPOCH (R89). At each epoch end a hall controller measures its hall and takes at most one census decision, sending PENDING notices. -/
  | censusEpoch (hall lid : Nat)
  /-- NOTICE_ACCEPT (R86). A notice arrives at a tile; on a compute tile it starts the notice handler on context 0, elsewhere hardware acts on it. -/
  | noticeAccept (k : Nat)
  /-- LEASE_RECORD (R83). A hall controller records a lease request, grants, renews or releases it, and refuses a re-cast in grace. -/
  | leaseRecord (k : Nat)
  /-- LEASE_EXPIRY (R91). A lease expires; a deferred census or thermal decision blocked by it sends its PENDING notice in that clk. -/
  | leaseExpiry (hall k : Nat)
  /-- ROLE_QUERY (R439). A hall controller answers a role query with the target's role word. -/
  | roleQuery (k : Nat)
  /-- RECAST_GRACE_END (R92). Grace ends at G and the drain of the old role begins. -/
  | recastGraceEnd (r : Nat)
  /-- RECAST_MOVE (R93). When drain ends, the target's state is copied to the new host and the old SRAM is zeroed. -/
  | recastMove (r : Nat)
  /-- RECAST_REMAP (R92). When the move completes, the role map is written, invalidations go out, the stub opens and DONE is sent. -/
  | recastRemap (r : Nat)
  /-- ROLE_MAP_INVALIDATION (R95). A core applies a role-map invalidation, sends markers to the old host and holds further sends to that target. -/
  | roleMapInvalidation (k : Nat)
  /-- STUB_FORWARD (R95). The old router forwards items and markers for the old role in order, or bounces them after the stub closes. -/
  | stubForward (k : Nat)
  /-- MARKER_RETURN (R95). A returned marker lifts the source's hold on sends to the re-cast target. -/
  | markerReturn (k : Nat)
  /-- STUB_CLOSE (R92). The stub period of 16,384 clk after the re-map ends. -/
  | stubClose (k : Nat)
  /-- NAME_ROUTE_DECIDE (R149). The lowest hall's controller decides a name-route request, copies an accepted entry to every router and
  fills the future. -/
  | nameRouteDecide (k : Nat)
  /-- BARRIER_ARRIVAL_AT_HALL (R394). A barr or bwait reaches the core's hall controller, which forwards it or combines it for a region barrier. -/
  | barrierArrivalAtHall (k : Nat)
  /-- BARRIER_COMBINE_PERIOD (R394). Every 64 reference clk a hall controller holding region-barrier arrivals forwards one partial arrival
  to the home. -/
  | barrierCombinePeriod (hall lid : Nat)
  /-- BCFG_NOTICE (R394). A bcfg message reaches a hall controller, which updates its region-barrier record. -/
  | bcfgNotice (k : Nat)
  /-- BARRIER_ARRIVAL (R392). An arrival or partial reaches the barrier home, counts, combines and may release generations. -/
  | barrierArrival (k : Nat)
  /-- BARRIER_WAIT_REQUEST (R393). A wait request reaches the barrier home and is answered, held, or answered RETRY when the wait table is full. -/
  | barrierWaitRequest (k : Nat)
  /-- BARRIER_WAIT_ANSWER (R393). A barrier answer arrives; the waiting core applies SIG and wakes or fills d. -/
  | barrierWaitAnswer (k : Nat)
  /-- BARRIER_WAIT_RETRY (R393). 256 reference clk after a RETRY the waiting core sends its wait request again. -/
  | barrierWaitRetry (core k : Nat)
  /-- EVENT_ARRIVAL (R395). An event arrives at a tile and sets the event latch of all five contexts. -/
  | eventArrival (k : Nat)
  /-- WFE_TIMEOUT (R396). A wfe park limit passes, and the context continues with the latch clear. -/
  | wfeTimeout (core ctx : Nat)
  /-- IDLE_TIMEOUT (R441). An idle park limit passes, and the context continues. -/
  | idleTimeout (core ctx : Nat)
  /-- INTEREST_AT_ROUTER (R155). A WANT or RENEW reaches a router, which merges, records or bypasses it and forwards it. -/
  | interestAtRouter (k : Nat)
  /-- INTEREST_AT_RENDEZVOUS (R158). An interest reaches the rendezvous and is answered DATA, EXPIRED, NEVER or RETRY, or waits. -/
  | interestAtRendezvous (k : Nat)
  /-- OFFER_TRAIN_AT_ROUTER (R160). An offer train passes a router, which sends copies out of a live entry's faces and frees it. -/
  | offerTrainAtRouter (k : Nat)
  /-- OFFER_AT_RENDEZVOUS (R160). A whole offer train reaches the rendezvous, serves waiting interests, and is stored, tombstoned or dropped. -/
  | offerAtRendezvous (k : Nat)
  /-- SEAL_AT_RENDEZVOUS (R162). A SEAL interest reaches the rendezvous, updates the seal record and answers NEVER to sealed waiting interests. -/
  | sealAtRendezvous (k : Nat)
  /-- DATA_TRAIN_AT_ROUTER (R159). A returning train reaches a router, which forks it out of the entry's faces and return routers, or drops it. -/
  | dataTrainAtRouter (k : Nat)
  /-- NAMED_ANSWER_AT_CONSUMER (R159). An answer reaches a consumer core, which writes and fills or poisons every waiter for the name. -/
  | namedAnswerAtConsumer (k : Nat)
  /-- NAMED_ANSWER_TO_PRODUCER (R160). The rendezvous answer reaches an offerer or sealer and fills or poisons its register. -/
  | namedAnswerToProducer (k : Nat)
  /-- INTEREST_RETRY (R159). 1,024 clk after RETRY the consumer re-injects the interest, or poisons the waiters EXPIRED. -/
  | interestRetry (core k : Nat)
  /-- WANT_EXPIRY (R157). A want-list waiter reaches its expiry without data and is poisoned EXPIRED. -/
  | wantExpiry (core k : Nat)
  /-- PIT_ENTRY_EXPIRY (R154). A pending-interest entry reaches its expiry and ceases to be live, without a message. -/
  | pitEntryExpiry (place k : Nat)
  /-- STORED_TILE_EXPIRY (R161). A HELD tile reaches its expiry, becomes a tombstone and frees its block. -/
  | storedTileExpiry (place k : Nat)
  /-- CACHED_TILE_EXPIRY (R164). A cached tile in a routing host reaches its expiry and is dropped. -/
  | cachedTileExpiry (place k : Nat)
  /-- MATRIX_COMMAND_START (R414). The head matrix command starts once earlier commands are done and, if needed, the licence is held. -/
  | matrixCommandStart (core : Nat)
  /-- MATRIX_COMMAND_COMPLETE (R414). A matrix command completes, frees its queue slot and fills its register in the next clk. -/
  | matrixCommandComplete (core : Nat)
  /-- MRMT_FETCH_COMPLETE (R419). The A fetch of an mrmt completes into the staging buffer, and the command then seeks the licence. -/
  | mrmtFetchComplete (core : Nat)
  /-- LICENCE_HANDOVER_END (R190). The 32 clk handover ends and the new holder of the licence may run its array. -/
  | licenceHandoverEnd (col : Nat)
  /-- LICENCE_WAIT_EXPIRY (R190). The twin's head command has waited 8,192 clk, and the licence passes at the holder's next command completion. -/
  | licenceWaitExpiry (col : Nat)
  /-- COPY_PIECE (R409). A piece of a copy or fill completes at the destination, ending the command with a Fill after the last piece or with
  ENGINE on failure. -/
  | copyPiece (core reads : Nat)
  /-- STREAM_REFILL (R412). A stream refill or output store completes and updates the bound register's buffer. -/
  | streamRefill (core ctx reg : Nat)
  /-- SERVICE_REQUEST (R442). The management processors answer a sysc service request and fill its register. -/
  | serviceRequest (k : Nat)
  /-- NOP (R317). No operation. -/
  | nop (a : Args)
  /-- MOV (R318). Copies all 128 bits of a source with its tag into the destination. -/
  | mov (a : Args)
  /-- FMOV (R181). Moves a whole register, future included, and leaves the source POISONED MOVED. -/
  | fmov (a : Args)
  /-- LI (R320). Writes an immediate or literal into a register. -/
  | li (a : Args)
  /-- ADD (R321). Lane-wise integer addition. -/
  | add (a : Args)
  /-- SUB (R321). Lane-wise integer subtraction. -/
  | sub (a : Args)
  /-- AND (R321). Lane-wise bitwise and. -/
  | and (a : Args)
  /-- OR (R321). Lane-wise bitwise or. -/
  | or (a : Args)
  /-- XOR (R321). Lane-wise bitwise exclusive or. -/
  | xor (a : Args)
  /-- ANDN (R321). Lane-wise a and not b. -/
  | andn (a : Args)
  /-- SHL (R321). Lane-wise shift left. -/
  | shl (a : Args)
  /-- SHR (R321). Lane-wise logical shift right. -/
  | shr (a : Args)
  /-- SAR (R321). Lane-wise arithmetic shift right. -/
  | sar (a : Args)
  /-- MUL (R321). Lane-wise low product. -/
  | mul (a : Args)
  /-- MIN (R321). Lane-wise integer minimum. -/
  | min (a : Args)
  /-- MAX (R321). Lane-wise integer maximum. -/
  | max (a : Args)
  /-- SEQ (R321). Lane-wise compare equal, all ones or zero. -/
  | seq (a : Args)
  /-- SNE (R321). Lane-wise compare not equal. -/
  | sne (a : Args)
  /-- SLT (R321). Lane-wise compare less than. -/
  | slt (a : Args)
  /-- SLE (R321). Lane-wise compare less or equal. -/
  | sle (a : Args)
  /-- SEL (R323). Bitwise select between two sources under the old destination as mask. -/
  | sel (a : Args)
  /-- CLZ (R322). Counts leading zeros in each lane. -/
  | clz (a : Args)
  /-- POPC (R322). Counts one bits in each lane. -/
  | popc (a : Args)
  /-- BEXT (R324). Extracts a bit field. -/
  | bext (a : Args)
  /-- BINS (R324). Inserts a bit field into the destination. -/
  | bins (a : Args)
  /-- CADD (R328). Adds an offset to a capability cursor, keeping the tag. -/
  | cadd (a : Args)
  /-- B (R335). Unconditional relative branch. -/
  | b (a : Args)
  /-- BZ (R335). Branches when the source is zero. -/
  | bz (a : Args)
  /-- BNZ (R335). Branches when the source is nonzero. -/
  | bnz (a : Args)
  /-- BLT (R336). Branches when s1 is less than s2. -/
  | blt (a : Args)
  /-- BGE (R336). Branches when s1 is greater or equal to s2. -/
  | bge (a : Args)
  /-- CALL (R337). Writes the link and branches relatively. -/
  | call (a : Args)
  /-- CALLR (R338). Writes the link and jumps to a checked indirect target. -/
  | callr (a : Args)
  /-- JR (R338). Jumps to a checked indirect target. -/
  | jr (a : Args)
  /-- LOOP (R340). Pushes a zero-overhead loop entry on the loop stack. -/
  | loopN (a : Args)
  /-- END (R120). Retires the task, sends its LINK decrement and empties the loop stack. -/
  | endTask (a : Args)
  /-- SGET (R345). Reads a system register. -/
  | sget (a : Args)
  /-- SSET (R346). Writes a system register. -/
  | sset (a : Args)
  /-- BRK (R344). Halts the launch in an armed debug session, or raises BREAK. -/
  | brk (a : Args)
  /-- DIV (R325). Shadowed lane-wise integer division. -/
  | div (a : Args)
  /-- REM (R325). Shadowed lane-wise integer remainder. -/
  | rem (a : Args)
  /-- MULH (R325). Shadowed lane-wise high product. -/
  | mulh (a : Args)
  /-- ROT (R326). Lane-wise rotate left. -/
  | rot (a : Args)
  /-- CBND (R329). Derives capability bounds from the cursor. -/
  | cbnd (a : Args)
  /-- CPRM (R330). Narrows capability permissions. -/
  | cprm (a : Args)
  /-- CFMT (R331). Sets capability format fields. -/
  | cfmt (a : Args)
  /-- CGET (R332). Reads a capability field. -/
  | cget (a : Args)
  /-- CTEST (R333). Tests that a capability covers n bytes at its cursor. -/
  | ctest (a : Args)
  /-- CCLR (R333). Copies a register and clears its tag. -/
  | cclr (a : Args)
  /-- TOPO (R334). Reads a topology key. -/
  | topo (a : Args)
  /-- VADD (R353). Lane-wise float addition. -/
  | vadd (a : Args)
  /-- VSUB (R353). Lane-wise float subtraction. -/
  | vsub (a : Args)
  /-- VMUL (R353). Lane-wise float multiplication. -/
  | vmul (a : Args)
  /-- VFMA (R353). Lane-wise fused multiply-add. -/
  | vfma (a : Args)
  /-- VFMS (R353). Lane-wise fused multiply-subtract. -/
  | vfms (a : Args)
  /-- VMIN (R356). Lane-wise float minimum. -/
  | vmin (a : Args)
  /-- VMAX (R356). Lane-wise float maximum. -/
  | vmax (a : Args)
  /-- VABS (R360). Clears the sign of each lane. -/
  | vabs (a : Args)
  /-- VNEG (R360). Inverts the sign of each lane. -/
  | vneg (a : Args)
  /-- VCMP (R358). Lane-wise float compare to a mask. -/
  | vcmp (cc : VCond) (a : Args)
  /-- VSEL (R359). Lane-wise select under the old destination's mask. -/
  | vsel (a : Args)
  /-- VRCP (R355). Shadowed reciprocal approximation. -/
  | vrcp (a : Args)
  /-- VRSQ (R355). Shadowed reciprocal square-root approximation. -/
  | vrsq (a : Args)
  /-- VEXP2 (R355). Shadowed base-2 exponential approximation. -/
  | vexp2 (a : Args)
  /-- VLOG2 (R355). Shadowed base-2 logarithm approximation. -/
  | vlog2 (a : Args)
  /-- VDOT (R362). Shadowed dot product accumulated into d[31:0]. -/
  | vdot (a : Args)
  /-- VRED (R361). Shadowed tree reduction of the lanes. -/
  | vred (op : RedOp) (a : Args)
  /-- VAMAX (R357). Lane-wise maximum magnitude. -/
  | vamax (a : Args)
  /-- VSHUF (R363). Permutes lanes by an index register. -/
  | vshuf (a : Args)
  /-- VBCAST (R364). Broadcasts one lane to all lanes. -/
  | vbcast (i : BitVec 5) (a : Args)
  /-- VINS (R364). Inserts lane 0 of the source into lane i. -/
  | vins (i : BitVec 5) (a : Args)
  /-- VEXT (R364). Extracts lane i into the lowest lane. -/
  | vext (i : BitVec 5) (a : Args)
  /-- VDIV (R353). Shadowed lane-wise float division on the shared divider. -/
  | vdiv (a : Args)
  /-- VSQRT (R354). Shadowed lane-wise square root on the shared divider. -/
  | vsqrt (a : Args)
  /-- VCVT (R366). Converts a group of lanes between types. -/
  | vcvt (src : Ty) (part : BitVec 3) (a : Args)
  /-- VPACK (R367). Converts and packs two sources into narrower lanes. -/
  | vpack (src : Ty) (a : Args)
  /-- VUNPK (R367). Widens half the source lanes. -/
  | vunpk (src : Ty) (hi : Bool) (a : Args)
  /-- VSCL (R368). Multiplies or divides lanes by a block-scale power of two. -/
  | vscl (inv : Bool) (a : Args)
  /-- VQNT (R369). Chooses the block scale for a magnitude. -/
  | vqnt (a : Args)
  /-- FCLASS (R370). Classifies each lane's encoding. -/
  | fclass (a : Args)
  /-- LD (R377). Loads one item, locally or as a future, optionally as an acquire. -/
  | ld (ord : Ord) (sc : Scope) (a : Args)
  /-- ST (R377). Stores one item, optionally as a release. -/
  | st (ord : Ord) (sc : Scope) (a : Args)
  /-- LDF (R379). Loads and converts elements through a capability. -/
  | ldf (cnt : BitVec 6) (a : Args)
  /-- STF (R380). Converts and stores elements through a capability. -/
  | stf (ord : Ord) (sc : Scope) (cnt : BitVec 6) (a : Args)
  /-- LDG (R381). Gathers lanes from indexed addresses. -/
  | ldg (a : Args)
  /-- STG (R381). Scatters lanes to indexed addresses. -/
  | stg (a : Args)
  /-- PREF (R382). Asks the L1 to fetch a line. -/
  | pref (a : Args)
  /-- CWB (R383). Writes back dirty sectors of a line or the whole L1. -/
  | cwb (a : Args)
  /-- CINV (R383). Writes back and invalidates a line or the whole L1. -/
  | cinv (a : Args)
  /-- LMWAYS (R384). Sets the number of L1 ways. -/
  | lmways (a : Args)
  /-- AMOADD (R385). Atomic add at the home. -/
  | amoadd (ord : Ord) (sc : Scope) (a : Args)
  /-- AMOAND (R385). Atomic and at the home. -/
  | amoand (ord : Ord) (sc : Scope) (a : Args)
  /-- AMOOR (R385). Atomic or at the home. -/
  | amoor (ord : Ord) (sc : Scope) (a : Args)
  /-- AMOXOR (R385). Atomic exclusive or at the home. -/
  | amoxor (ord : Ord) (sc : Scope) (a : Args)
  /-- AMOMIN (R385). Atomic minimum at the home. -/
  | amomin (ord : Ord) (sc : Scope) (a : Args)
  /-- AMOMAX (R385). Atomic maximum at the home. -/
  | amomax (ord : Ord) (sc : Scope) (a : Args)
  /-- AMOSWP (R385). Atomic swap at the home. -/
  | amoswp (ord : Ord) (sc : Scope) (a : Args)
  /-- AMOCAS (R387). Atomic compare-and-swap at the home. -/
  | amocas (ord : Ord) (sc : Scope) (a : Args)
  /-- AMOFADD (R388). Atomic FP32 add rounded by RNE at the home. -/
  | amofadd (ord : Ord) (sc : Scope) (a : Args)
  /-- FENCE (R389). Performs release, acquire or full fence at a scope. -/
  | fence (k : FenceKind) (sc : Scope) (a : Args)
  /-- BARR (R392). Arrives at a barrier with a contribution, as a launch-scope release. -/
  | barr (bar : BitVec 5) (a : Args)
  /-- BWAIT (R393). Waits for a barrier generation. -/
  | bwait (bar : BitVec 5) (a : Args)
  /-- BCFG (R391). Configures a barrier's count and combine operation. -/
  | bcfg (bar : BitVec 5) (a : Args)
  /-- WFE (R396). Waits for the event latch, optionally with a limit. -/
  | wfe (a : Args)
  /-- SEV (R395). Sends an event to a compute tile. -/
  | sev (a : Args)
  /-- WATCH (R397). Registers a one-shot watch on a sector at its home. -/
  | watch (a : Args)
  /-- WPEND (R398). Parks until no masked register is PENDING. -/
  | wpend (a : Args)
  /-- WANY (R398). Parks until a masked register is not PENDING and returns its number. -/
  | wany (a : Args)
  /-- PCHK (R399). Reads a register's state, code and ticket without parking. -/
  | pchk (a : Args)
  /-- DCSET (R400). Sets a dependence counter's count. -/
  | dcset (dc : BitVec 6) (a : Args)
  /-- DCDEC (R401). Sends a decrement to a dependence counter as a release. -/
  | dcdec (dc : BitVec 6) (a : Args)
  /-- COPY (R408). Copies bytes or converted elements through the copy engine. -/
  | copy (sc : Scope) (cvt : Bool) (done : Option (BitVec 6)) (a : Args)
  /-- SBIND (R411). Binds g28-g31 to an input or output stream. -/
  | sbind (sc : Scope) (out : Bool) (a : Args)
  /-- SUNB (R413). Unbinds a stream register. -/
  | sunb (a : Args)
  /-- MCFG (R416). Queues a write of the matrix configuration. -/
  | mcfg (a : Args)
  /-- MBLD (R417). Loads a matrix bank from a capability. -/
  | mbld (sc : Scope) (bank : BitVec 2) (done : Option (BitVec 6)) (a : Args)
  /-- MMAC (R418). Multiplies local A by a bank into local C under the licence. -/
  | mmac (sc : Scope) (done : Option (BitVec 6)) (a : Args)
  /-- MRMT (R419). Fetches a remote A, then multiplies it as mmac does. -/
  | mrmt (sc : Scope) (done : Option (BitVec 6)) (a : Args)
  /-- LIC_TAKE (R420). Takes the column's licence and sets HOLD. -/
  | licTake (a : Args)
  /-- LIC_GIVE (R420). Gives up the licence to the twin or frees it and clears HOLD. -/
  | licGive (a : Args)
  /-- FILL (R410). Writes a 128-bit pattern over a capability range. -/
  | fill (sc : Scope) (done : Option (BitVec 6)) (a : Args)
  /-- WANT (R421). Asks for a named tile into a local buffer. -/
  | want (a : Args)
  /-- OFFER (R422). Offers a payload under a name. -/
  | offer (a : Args)
  /-- SEAL (R423). Seals an iteration of a tensor. -/
  | seal (a : Args)
  /-- SEND (R432). Sends an active message. -/
  | send (hi rel : Bool) (sc : Scope) (n : BitVec 4) (cap : Bool) (a : Args)
  /-- SENDC (R432). Sends a channel message. -/
  | sendc (rel : Bool) (sc : Scope) (n : BitVec 4) (ch : BitVec 3) (a : Args)
  /-- SENDR (R434). Sends a channel message along a static route. -/
  | sendr (rel : Bool) (sc : Scope) (n : BitVec 4) (ch : BitVec 3) (rt : BitVec 4) (a : Args)
  /-- FORK (R436). Pushes a task record on the tile's deque. -/
  | fork (a : Args)
  /-- CHCFG (R437). Sets a static route of the tile. -/
  | chcfg (e : BitVec 4) (a : Args)
  /-- CHCFG_NAME (R438). Requests a write of a name-routing entry. -/
  | chcfgName (e : BitVec 4) (a : Args)
  /-- LEASE (R439). Requests, renews or releases a lease. -/
  | lease (a : Args)
  /-- ROLE (R439). Queries the role of a logical target. -/
  | role (a : Args)
  /-- JOIN (R436). Binds a task record to a dependence counter. -/
  | join (dc : BitVec 6) (a : Args)
  /-- TRAP (R440). Raises a USER fault. -/
  | trap (code : BitVec 8) (a : Args)
  /-- IDLE (R441). Parks until work, an event or a limit. -/
  | idle (a : Args)
  /-- SYSC (R442). Requests a management-processor service. -/
  | sysc (svc : BitVec 12) (a : Args)
  /-- CTXSV (R444). Saves the context's registers in drain or cancel mode. -/
  | ctxsv (cancel : Bool) (a : Args)
  /-- CTXLD (R445). Restores the context's registers from an image. -/
  | ctxld (a : Args)
  /-- TLBI (R446). Privileged invalidation of TLB entries in the hall. -/
  | tlbi (span : Span) (a : Args)
  /-- ROLEW (R447). Privileged write of a role-map entry with re-map. -/
  | rolew (a : Args)
  /-- PWRC (R448). Privileged write of PWR_STEP or PWR_DROOP. -/
  | pwrc (droop : Bool) (a : Args)
  /-- TT_CNT_READ (R6). A host read of TT_CNT returns MISSED and FIRED and then resets both fields, because their access type is RS. -/
  | ttCntRead (e : Nat)
  /-- TIME_LOCK_LOSS (R37). Device time loses its IEEE 1588 or host-correction lock, and LOCKED in TIME_STS, report flag [0] and CLOCK bit
  [63] fall to 0. -/
  | timeLockLoss
  deriving DecidableEq, Repr

/-- One turn of the module's agents, in the order in which they move: a row of the table occurs, or a core issues.
`dt` is how many reference clk pass first. -/
inductive Turn where
  | occur (dt : Nat) (i : Instr)
  | issue (dt : Nat) (core : Nat)
  deriving DecidableEq, Repr

end Sys2Proof
end

