-- ==== Sys2Proof/Machine/State.lean ====
section
/-! DEFINITION. The state of the W7: plain data that holds every piece of state the spec gives the module (INVENTORY.md lists
each with its rule and its reset value), the reasons a step can stop, and the state after reset. Large arrays (cores,
columns, halls, launches, memory) are sparse lists by key: a key that is not listed stands for the reset value. -/

namespace Sys2Proof.Machine
open Sys2Proof

/-! ## Registers, futures and contexts (spec 09) -/

/-- The state of a register (Table 9-2). -/
inductive RState where
  | full | pending | poisoned
  deriving DecidableEq, Repr

/-- A register with the parts of Table 9-2. -/
structure Reg where
  value : W128 := 0
  tag : Bool := false
  state : RState := .full
  ticket : BitVec 16 := 0
  code : BitVec 8 := 0
  deriving DecidableEq, Repr

/-- A 128-bit value with its tag: what an operand reads as, and a record's or message's argument (R103). -/
structure TagVal where
  v : W128 := 0
  tag : Bool := false
  deriving DecidableEq, Repr

/-- Where a ticket delivers: a context's register, a twin-window register of a column, or nowhere any more (R177). -/
inductive Loc where
  | nowhere
  | gpr (core ctx n : Nat)
  | twin (col n : Nat)
  deriving DecidableEq, Repr

/-- An outstanding ticket of a core (R177). -/
structure Ticket where
  t : BitVec 16
  loc : Loc
  deriving DecidableEq, Repr

/-- A task record (Table 6-3), with the signature that travels with it (R232). -/
structure TaskRec where
  hdr : W128 := 0
  arg0 : TagVal := {}
  arg1 : TagVal := {}
  arg2 : TagVal := {}
  sig : Sig := 0
  deriving DecidableEq, Repr

/-- The task or handler of a context (R101, R117, Table 6-6). `limit` and `since` count the core's own clk. -/
structure Task where
  lid : Nat := 0
  stage : BitVec 8 := 0
  handler : BitVec 12 := 0
  src : BitVec 2 := 0
  hi : Bool := false
  seq : BitVec 32 := 0
  /-- the linked counter: tile and index (R109) -/
  link : Option (Nat × Nat) := none
  limit : Nat := 0
  since : Nat := 0
  deriving DecidableEq, Repr

/-- A loop-stack entry (R339). -/
structure Loop where
  first : VAddr
  last : VAddr
  count : W64
  deriving DecidableEq, Repr

/-- What a parked or held context waits for (Table 9-5a, R175, R224, R306, R431). -/
inductive Park where
  /-- a PENDING register (operand code) -/
  | reg (code : BitVec 6)
  /-- a shadowed result of the register in flight (R175) -/
  | shadow (code : BitVec 6)
  /-- channels and how many entries the instruction pops of each (R187) -/
  | chans (need : List (Nat × Nat))
  /-- a bound stream register with an empty or full buffer (R188) -/
  | stream (n : Nat)
  /-- wpend: no masked register PENDING (R398) -/
  | allDone (mask : BitVec 32)
  /-- wany: some masked register not PENDING (R398) -/
  | anyDone (mask : BitVec 32)
  /-- wfe, with the own clk at which its limit passes, and the source it takes then (R396) -/
  | wfe (limit : Option Nat) (t : Src)
  /-- idle, likewise (R441) -/
  | idle (limit : Option Nat) (t : Src)
  /-- bwait with d = z: the answer of home, barrier and target, and the sources it takes then (R393) -/
  | bwait (home bar : Nat) (target : BitVec 32) (srcs : List Src)
  /-- the want list is full (R156) -/
  | wantList
  /-- 64 tickets outstanding (R177) -/
  | ticket
  /-- the matrix queue is full (R414) -/
  | matrix
  /-- a release or fence waits for accesses of the context, in a scope, numbered below a bound (R224, R226) -/
  | acks (scope : Scope) (bound : Nat)
  /-- fence.acq waits for earlier loads (R226) -/
  | loads (bound : Nat)
  /-- accesses of the context held by an acquire, a fence or the device order (R225, R226, R376) -/
  | order
  /-- a TLB miss (R214) -/
  | walk (va : VAddr)
  /-- an unscanned unit (R306) -/
  | scan (unit : Nat)
  /-- the injection slot of a virtual network (R431), until its clk -/
  | inject (vn : Nat)
  /-- sends held for a re-cast target (R95) -/
  | heldTarget
  /-- held until a reference clk: the divider, ctxsv and ctxld (R351, R443) -/
  | untilClk (clk : Nat)
  /-- a full L1 miss table, or fills pending in leaving ways (R206, R203) -/
  | missTable
  /-- rolew waits for acknowledgements of its re-map (R447) -/
  | remap (lid gen : Nat)
  deriving DecidableEq, Repr

/-- A stream bound to one of g28–g31 (R411, R412). -/
structure Stream where
  out : Bool := false
  scope : Scope := .launch
  /-- virtual address of the first element -/
  base : Nat := 0
  /-- elements of the stream -/
  total : Nat := 0
  /-- elements popped or pushed -/
  moved : Nat := 0
  /-- elements fetched (input) or stored (output) -/
  engine : Nat := 0
  /-- the join of a refill in flight, and the group of an output's stores (R412, R413) -/
  refill : Option Nat := none
  group : Nat := 0
  /-- the buffer of up to 8 entries, oldest first -/
  buf : List W128 := []
  /-- a refill failed: the next read is ENGINE (R412) -/
  failed : Bool := false
  /-- the signature of the binding's completions (R233) -/
  sig : Sig := 0
  deriving DecidableEq, Repr

/-- An output stream that has been unbound and still writes its buffer (R413). -/
structure Closing where
  ctx : Nat
  reg : Nat
  stream : Stream
  ticket : Option (BitVec 16)
  deriving DecidableEq, Repr

/-- A context (R170, R171). -/
structure Ctx where
  regs : List (Nat × Reg) := []
  pc : VAddr := 0
  /-- the address after the instruction presented (R299); the next instruction's own once it has completed -/
  npc : VAddr := 0
  task : Option Task := none
  park : Option Park := none
  loops : List Loop := []
  latch : Bool := false
  streams : List (Nat × Stream) := []
  /-- fence.rel in step 1: scopes, and the access bounds they wait below before they write back (R226) -/
  relWait : List (Scope × Nat) := []
  /-- fence.rel in step 2: scopes, and the access bounds they wait below (R226) -/
  relFence : List (Scope × Nat) := []
  /-- tickets or accesses of acquires not yet in effect (R225) -/
  acquires : List Nat := []
  /-- a release whose write-backs have been sent: the access bound it waits below (R224) -/
  relBound : Option Nat := none
  /-- the page whose walk just failed, for the instruction that waits on it (R213, R214) -/
  badWalk : Option Nat := none
  /-- the handler index whose entry the admission has still to read (R102), and the clk before which no instruction issues (R110) -/
  entry : Option Nat := none
  first : Nat := 0
  /-- the task that has ended here, while lookahead instructions of it are in flight (R120, R267) -/
  late : Option Task := none
  /-- what s.notice becomes as the task's first instruction issues (R87, Table 25-6) -/
  notice : Option W64 := none
  deriving DecidableEq, Repr

/-! ## Core resources (spec 06, 07, 09, 10, 18, 19) -/

/-- A shadowed result in flight (R175, R268). -/
structure Shadow where
  ctx : Nat
  /-- destination operand code, 62 for none -/
  d : BitVec 6
  val : TagVal
  /-- a shadowed local store: physical address and bytes, with the granule tag kept -/
  store : Option (Nat × List Byte × Option Bool) := none
  /-- the signature that a shadowed local st.rel brings to its home (R229) -/
  rel : Option Sig := none
  /-- the physical addresses of local SRAM that a shadowed load reads (R264) -/
  reads : List Nat := []
  ready : Nat
  pc : VAddr
  look : Nat
  /-- instructions of the window that have completed, as the SHADOW field counts them -/
  window : BitVec 15 := 0
  /-- instructions of the context issued since -/
  since : Nat := 0
  /-- the id of an acquire whose effect is this landing, and the signature it applies (R378) -/
  acq : Option Nat := none
  sig : Option Sig := none
  /-- an access with L > 0 that is not local: its number. It lands nowhere and is in flight until it is answered (R301) -/
  away : Option Nat := none
  deriving DecidableEq, Repr

/-- A dependence counter (R108). -/
structure Counter where
  count : BitVec 16 := 0
  bound : Option TaskRec := none
  sig : Sig := 0
  deriving DecidableEq, Repr

/-- A message in a queue of a compute tile (R105, R106). -/
structure Msg where
  handler : BitVec 12 := 0
  stage : BitVec 8 := 0
  args : List TagVal := []
  /-- the notice word of a notice (R86) -/
  notice : Option W64 := none
  deriving DecidableEq, Repr

/-- A receive channel (Table 7-4); the entries stand in local SRAM. -/
structure Chan where
  en : Bool := false
  count : BitVec 9 := 0
  head : BitVec 8 := 0
  log2e : BitVec 4 := 0
  base : BitVec 13 := 0
  deriving DecidableEq, Repr

/-- A held wait request at a barrier's home or at a hall controller (R393, R394), by the place to answer: a core and its
context, or a hall controller. -/
structure BWaiter where
  lid : Nat
  home : Nat
  bar : Nat
  target : BitVec 32
  core : Nat
  ctx : Nat := 0
  ticket : Option (BitVec 16) := none
  hall : Option Nat := none
  deriving DecidableEq, Repr

/-- A barrier (Table 18-6). -/
structure Barrier where
  exp : BitVec 16 := 0
  arr : BitVec 20 := 0
  gen : BitVec 32 := 0
  op : BitVec 3 := 0
  acc : W64 := 0
  last : W64 := 0
  sig : Sig := 0
  /-- the union kept with the last released generation (Table 11-3) -/
  lastSig : Sig := 0
  deriving DecidableEq, Repr

/-- A line of the L1 (R202, R205): its 1,024 bits and its valid and dirty masks of one bit per nibble. -/
structure Line where
  la : Nat
  data : BitVec 1024 := 0
  valid : BitVec 256 := 0
  dirty : BitVec 256 := 0
  /-- a fill is pending (R206) -/
  fill : Bool := false
  /-- to be invalidated when its fill arrives (R230) -/
  doomed : Bool := false
  age : Nat := 0
  /-- tags of its eight granules (R199) -/
  gtags : BitVec 8 := 0
  /-- the page's key index, for its write-backs (R211) -/
  key : Nat := 0
  /-- its dirty sectors that hold part of a store of several sectors (R65) -/
  whole : BitVec 2 := 0
  deriving DecidableEq, Repr

/-- How the bytes of a load become a register (R377, R379, R381). -/
inductive LoadFmt where
  | item (ty : Ty) (keepTag : Bool)
  | lanes (ty : Ty)
  | conv (ty : Ty) (cap : W128) (e0 k : Nat) (fmc : BitVec 14) (draws : List (BitVec 32))
  /-- bytes that an engine has asked for; they stay in the join until it takes them -/
  | hart
  deriving DecidableEq, Repr

/-- A load whose pieces return one by one (R221): the bytes so far by buffer offset. -/
structure Join where
  id : Nat
  ctx : Nat
  ticket : Option (BitVec 16)
  left : Nat
  buf : List (Nat × Byte) := []
  tagBit : Bool := false
  fmt : LoadFmt
  failed : Bool := false
  sig : Sig := 0
  acq : Bool := false
  /-- the lane parts of a gather that share requests (R381): buffer offset, physical address, length -/
  parts : List (Nat × Nat × Nat) := []
  deriving DecidableEq, Repr

/-- A piece that waits on an L1 fill (R206): the join, the buffer offset, the physical address and the length. -/
structure Waiter where
  join : Nat
  off : Nat
  pa : Nat
  len : Nat
  deriving DecidableEq, Repr

/-- An entry of the miss table (R206). -/
structure Miss where
  la : Nat
  /-- sector fills still to arrive -/
  left : Nat := 0
  waiters : List Waiter := []
  deriving DecidableEq, Repr

/-- An access of a context that its home has not acknowledged (R219, R224). -/
structure Out where
  id : Nat
  ctx : Nat
  /-- the home's hall, or none for a home outside any hall -/
  hall : Option Nat
  /-- the home is the host or a peer -/
  away : Bool := false
  load : Bool := false
  device : Bool := false
  /-- it stores, and the physical range it goes to, for offers (R422) -/
  stores : Bool := false
  pa : Nat := 0
  len : Nat := 0
  /-- a store of an engine: the number of its group (R407) -/
  hart : Option Nat := none
  deriving DecidableEq, Repr

/-- A translation held in the TLB (R214, Table 10-7). -/
structure TlbEntry where
  lid : Nat
  /-- virtual page number: VA >> 16, or VA >> 21 for a 2 MiB page -/
  vpn : Nat
  big : Bool
  pa : Nat
  key : Nat := 0
  kind : Nat := 0
  cached : Bool := false
  x : Bool := false
  w : Bool := false
  home : Nat := 0
  deriving DecidableEq, Repr

/-- Signatures a home keeps for a LID (R229), oldest written first. -/
structure HomeSig where
  lid : Nat
  sig : Sig
  /-- the entry has been replaced: its LID has none -/
  gone : Bool := false
  deriving DecidableEq, Repr

/-- A watch entry of a home (R397). -/
structure Watch where
  sector : Nat
  core : Nat
  ctx : Nat
  lid : Nat
  deriving DecidableEq, Repr

/-- A bank of the matrix region (R415). -/
structure Bank where
  loaded : Bool := false
  fmt : Ty := .bf16
  fmc : BitVec 14 := 0
  scaled : Bool := false
  scales : List Byte := []
  deriving DecidableEq, Repr

/-- The issue view of a bank (R415): what mmac and mrmt are checked against. -/
structure BankView where
  loaded : Bool := false
  fmt : Ty := .bf16
  /-- how many mbld of the bank have issued -/
  loads : Nat := 0
  deriving DecidableEq, Repr

/-- The operation of a queued matrix command (R414). -/
inductive MOp where
  | mcfg (v : BitVec 3)
  | mbld (bank : Nat) (cap : W128) (fmc : BitVec 14) (serial : Nat)
  | mmac (ca cc : W128) (fmc : BitVec 14)
  | mrmt (ca cc : W128) (fmc : BitVec 14)
  | take
  | give
  deriving DecidableEq, Repr

/-- A command of the matrix queue (R414). -/
structure MCmd where
  op : MOp
  ctx : Nat := 0
  ticket : Option (BitVec 16) := none
  done : Option Nat := none
  sig : Sig := 0
  /-- earliest clk at which it may start -/
  earliest : Nat := 0
  /-- the clk at which a running command completes -/
  finish : Option Nat := none
  /-- an mrmt's A has been fetched; some poison when the fetch failed -/
  fetched : Bool := false
  failed : Bool := false
  /-- the codes and scales an mrmt staged (R419) -/
  codes : List Byte := []
  scales : List Byte := []
  /-- the join of an mbld's source, or of an mrmt's A -/
  join : Option Nat := none
  deriving DecidableEq, Repr

/-- A piece of a copy in flight (R409): its offset or first element, its bytes or elements, the join of its read, and the group of its
writes once they have been sent. -/
structure Flight where
  off : Nat
  n : Nat
  join : Option Nat := none
  wrote : Option Nat := none
  deriving DecidableEq, Repr

/-- A command of the copy engine (R408–R410). -/
structure CopyCmd where
  ctx : Nat := 0
  ticket : Option (BitVec 16) := none
  done : Option Nat := none
  sig : Sig := 0
  dst : W128 := 0
  src : TagVal := {}
  /-- the pattern of a fill -/
  pattern : Option W128 := none
  cvt : Bool := false
  total : Nat := 0
  /-- bytes or elements whose reads have been sent, and completed -/
  read : Nat := 0
  moved : Nat := 0
  down : Bool := false
  fmc : BitVec 14 := 0
  seed : BitVec 32 := 0
  /-- pieces in flight, oldest first -/
  flight : List Flight := []
  /-- a piece has failed: no further one is performed (R217) -/
  broken : Bool := false
  /-- a side is device-ordered: one piece at a time, in address order; for a converting copy through COL16, of this capability (R217) -/
  device : Bool := false
  along : Option W128 := none
  deriving DecidableEq, Repr

/-- A want-list entry (R156). -/
structure Want where
  name : W64
  ctx : Nat
  ticket : BitVec 16
  cap : W128
  expiry : Nat
  /-- when to inject again after RETRY (R159) -/
  retryAt : Option Nat := none
  deriving DecidableEq, Repr

/-- A wait request that was answered RETRY (R393), and the clk at which it is sent again. -/
structure WaitRetry where
  at_ : Nat
  w : BWaiter
  deriving DecidableEq, Repr

/-- A pending-interest entry (R154), with the return routers of R158. Faces: north, south, east, west, twin, local. -/
structure Pit where
  name : W64
  lid : Nat
  faces : List Nat := []
  expiry : Nat
  rets : List Nat := []
  deriving DecidableEq, Repr

/-- A directory entry of a tile store (R161); data of a HELD or cached tile lies in a block of the host's SRAM. -/
structure DirEntry where
  lid : Nat
  name : W64
  held : Bool
  expiry : Nat := 0
  block : Nat := 0
  len : Nat := 0
  /-- order of becoming a tombstone (R161) -/
  age : Nat := 0
  deriving DecidableEq, Repr

/-- A cached tile (R164). -/
structure Cached where
  lid : Nat
  name : W64
  expiry : Nat
  block : Nat
  len : Nat
  used : Nat
  /-- the number of the offer it was copied from, until that offer is accepted (R147) -/
  offer : Option Nat := none
  deriving DecidableEq, Repr

/-- A seal record (R162), oldest written first. -/
structure SealRec where
  lid : Nat
  tensor : BitVec 24
  si : BitVec 16
  deriving DecidableEq, Repr

/-- The kind of a logical target (R81). -/
inductive Kind where
  | compute | pool | routing
  deriving DecidableEq, Repr

/-- The role of a core (R73). -/
inductive Role where
  | idle
  | host (lid : Nat) (kind : Kind) (idx : Nat)
  deriving DecidableEq, Repr

/-- A role-map entry that a core has not yet applied (R95): it still sends to the old host. -/
structure Stale where
  kind : Kind
  idx : Nat
  old : Option Nat
  deriving DecidableEq, Repr

/-- A hold of sends to a re-cast target until its markers return (R95). -/
structure Hold where
  kind : Kind
  idx : Nat
  markers : Nat
  deriving DecidableEq, Repr

/-- A core (R170). -/
structure Core where
  role : Role := .idle
  ctxs : List (Nat × Ctx) := []
  fmc : BitVec 14 := 0
  seed : BitVec 32 := 0
  tlimit : BitVec 32 := 0
  lat : W64 := 0
  /-- the clk of the message that s.lat records, and its rank among those of one clk (R144) -/
  latMark : Option (Nat × Nat) := none
  notice : W64 := 0
  chans : List (Nat × Chan) := []
  seq : BitVec 32 := 0
  tickets : List Ticket := []
  serial : BitVec 12 := 0
  lowQ : List Msg := []
  highQ : List Msg := []
  /-- topmost record first -/
  deque : List TaskRec := []
  /-- most recently spilled block last -/
  spill : List TaskRec := []
  counters : List (Nat × Counter) := []
  fifo : List TaskRec := []
  /-- admissions for which each source (queue, FIFO, deque) was passed over (R110) -/
  passed : List Nat := [0, 0, 0]
  stealOut : Bool := false
  lastVictim : Option Nat := none
  empties : Nat := 0
  backoff : Option Nat := none
  /-- the low context that issued last (R114) -/
  lastLow : Nat := 4
  /-- the first reference clk at which the core may issue, and admit, again (R114, R110) -/
  nextIssue : Nat := 0
  nextAdmit : Nat := 0
  shadows : List Shadow := []
  divBusy : Nat := 0
  barriers : List (Nat × Barrier) := []
  waitTable : List BWaiter := []
  waitRetry : List WaitRetry := []
  /-- the generation of each barrier, by home and index, at whose release this core last cleared its ACC (R231) -/
  cleared : List ((Nat × Nat) × BitVec 32) := []
  routes : List (Nat × BitVec 66) := []
  l1Ways : Nat := 0
  l1 : List Line := []
  /-- the clk at which the last entry of the write-back buffer leaves it (R207) -/
  wbNext : Nat := 0
  misses : List Miss := []
  acc : Sig := 0
  sigs : List HomeSig := []
  outs : List Out := []
  joins : List Join := []
  /-- numbers of accesses, joins and acquires (R219) -/
  nextId : Nat := 0
  tlb : List TlbEntry := []
  /-- TLB misses of the engines, by engine number: the address, and whether its walk has failed (R214) -/
  hartWalks : List (Nat × Nat × Bool) := []
  stale : List Stale := []
  /-- the pool size this core has applied (R78) and the map generation (R334) -/
  poolView : Nat := 0
  genView : Nat := 0
  routesView : Nat := 0
  holds : List Hold := []
  mqueue : List MCmd := []
  banks : List (Nat × Bank) := []
  bankViews : List (Nat × BankView) := []
  mcfg : BitVec 3 := 0
  mcfgView : BitVec 3 := 0
  licHold : Bool := false
  copyQ : List CopyCmd := []
  closing : List Closing := []
  wants : List Want := []
  /-- per virtual network: the clk at which the injection slot frees (R431) -/
  slots : List (Nat × Nat) := []
  pit : List Pit := []
  dir : List DirEntry := []
  cache : List Cached := []
  seals : List SealRec := []
  watches : List Watch := []
  /-- blocks of this pool slot written since it was granted (R88) -/
  written : List Nat := []
  deriving DecidableEq, Repr

/-! ## The network (spec 07) -/

/-- Virtual networks (R132). -/
inductive VN where
  | req | rsp | namei | named | hi
  deriving DecidableEq, Repr

/-- Where a message is consumed: the core at DEST, the stair of its column, or the gallery block attached there. -/
inductive Port where
  | core | stair | edge (c : Nat) | host | peer (n : Nat) | hall (h : Nat) | mgmt
  deriving DecidableEq, Repr

/-- What an access does at its home (R219, R385, R397). -/
inductive AOp where
  | load
  | store
  | writeBack
  | amo (op : Nat) (ty : Ty) (v cmp : W128)
  | watch
  | lineFill
  deriving DecidableEq, Repr

/-- A response (KIND 1): to an access, or a Fill or Poison of a ticket. -/
structure Rsp where
  op : AOp
  ctx : Nat := 0
  id : Nat := 0
  join : Nat := 0
  off : Nat := 0
  pa : Nat := 0
  data : List Byte := []
  tag : Bool := false
  gtags : BitVec 4 := 0
  failed : Bool := false
  ticket : Option (BitVec 16) := none
  /-- the value and poison code of a producer's delivery (R176) -/
  fill : TagVal := {}
  poison : Option (BitVec 8) := none
  sig : Option Sig := none
  acq : Bool := false
  deriving DecidableEq, Repr

/-- An access request (KIND 0). -/
structure Req where
  op : AOp
  core : Nat
  ctx : Nat
  lid : Nat
  l : Nat := 0
  pa : Nat
  len : Nat
  data : List Byte := []
  /-- nibble mask of a store or write-back, two bits a byte, lowest first; empty: every bit -/
  mask : List (BitVec 2) := []
  /-- the granule tag a .c store keeps, and the tags of a written-back sector's granules (R199) -/
  tag : Option Bool := none
  gtags : BitVec 4 := 0
  key : Nat := 0
  /-- the outstanding access, and the join and buffer offset of a load's piece -/
  id : Nat := 0
  join : Nat := 0
  off : Nat := 0
  ticket : Option (BitVec 16) := none
  rel : Option Sig := none
  acq : Bool := false
  /-- a store of several sectors, performed whole or not at all (R65): the number of its first piece, and how many pieces it has; 0 for the
  write-back of a sector that holds part of one -/
  whole : Option (Nat × Nat) := none
  /-- the address it asked for, where a stub has sent it on to a new host of its target (R95) -/
  was : Option Nat := none
  /-- it waits in a table and has taken effect already, ahead of a host access to its bytes: its answer (R218) -/
  done : Option Rsp := none
  deriving DecidableEq, Repr

/-- The type of an interest (Table 8-3). -/
inductive IType where
  | want | renew | sealI
  deriving DecidableEq, Repr

/-- Interest metadata (Table 8-3). -/
structure Interest where
  name : W64
  type : IType
  left : Nat
  byp : Bool := false
  ret : Nat := 0
  /-- the consumer or sealer, and the sealer's ticket -/
  core : Nat
  ctx : Nat := 0
  ticket : Option (BitVec 16) := none
  /-- the last router that recorded the interest (R155) -/
  lastRec : Nat := 0
  deriving DecidableEq, Repr

/-- The code of data metadata (Table 8-4). -/
inductive DCode where
  | data | never | expired | retry | answer (status : Nat)
  deriving DecidableEq, Repr

/-- A train (Table 8-4): head and data messages as one (R153). -/
structure Train where
  name : W64
  code : DCode
  /-- DIR: toward consumers -/
  back : Bool
  byp : Bool := false
  ret : Nat := 0
  sleft : Nat := 0
  data : List Byte := []
  /-- an offer's payload not yet read: virtual address, length and the access bound it waits below (R422) -/
  source : Option (Nat × Nat × Nat) := none
  /-- the join of its reads -/
  join : Option Nat := none
  /-- the number of the offer that it is a copy of, until that offer's fate is known; and a copy of one that was not accepted (R147) -/
  offer : Option Nat := none
  barred : Bool := false
  /-- out of a router's local face, to its core (R159) -/
  atCore : Bool := false
  core : Nat := 0
  ctx : Nat := 0
  ticket : Option (BitVec 16) := none
  deriving DecidableEq, Repr

/-- What a message carries besides its header. -/
inductive Body where
  /-- an active or channel message: its entries are the packet's -/
  | message
  | access (r : Req)
  | response (r : Rsp)
  | interest (i : Interest)
  | train (t : Train)
  /-- a re-cast marker of R95, from the source to the old host and back -/
  | marker (kind : Kind) (idx : Nat) (back : Bool)
  /-- a signature marker (R228), of the message whose number comes next -/
  | sigMark (g : Sig)
  /-- with the record taken for it, once it waits at the victim for dirty sectors -/
  | stealReq (thief : Nat) (taken : Option TaskRec := none)
  | stealAns (rec : Option TaskRec)
  | decrement (dc : Nat) (sig : Sig)
  | event (ctx : Option Nat)
  | notice (w : W64)
  | leaseReq (kind : Kind) (idx dur : Nat) (l core ctx : Nat) (ticket : Option (BitVec 16))
  | roleReq (kind : Kind) (idx : Nat) (core ctx : Nat) (ticket : Option (BitVec 16))
  | nameReq (e : Nat) (v : W128) (core ctx l : Nat) (ticket : Option (BitVec 16))
  | invalidate (kind : Kind) (idx : Nat) (gen : Nat) (grow : Bool)
  | barArr (home bar n : Nat) (v : W64) (sig : Sig)
  | barWait (w : BWaiter)
  | barAns (w : BWaiter) (gen : BitVec 32) (last : W64) (sig : Sig) (clear retry : Bool)
  | bcfg (home bar : Nat) (region : Bool)
  | service (n : Nat) (arg : W64) (core ctx : Nat) (ticket : Option (BitVec 16))
  deriving DecidableEq, Repr

/-- A message in the network: the fields of its header (Table 7-1) and where it is. -/
structure Packet where
  vn : VN := .req
  vc1 : Bool := false
  kind : Nat := 0
  lid : Nat := 0
  src : Nat := 0
  dest : Nat := 0
  final : Nat := 0
  port : Port := .core
  hops : Nat := 0
  dta : Bool := false
  dtd : Nat := 0
  dte : Nat := 0
  /-- the side of a detour: its direction and the line it must reach -/
  side : Nat := 0
  line : Nat := 0
  stat : Bool := false
  route : Nat := 0
  step : Nat := 0
  wps : List Nat := []
  /-- the logical targets of the waypoints, for re-casts (R95) -/
  wpTargets : List (Kind × Nat) := []
  /-- the logical target, for re-casts (R95) -/
  target : Option (Kind × Nat) := none
  /-- for a peer: the launch and tile there (R433) -/
  peerLid : Nat := 0
  peerL : Nat := 0
  handler : BitVec 12 := 0
  stage : BitVec 8 := 0
  ch : Nat := 0
  hiPrio : Bool := false
  entries : List TagVal := []
  /-- the signature that the marker directly ahead of the message brings (R228) -/
  sig : Option Sig := none
  body : Body := .message
  /-- the router it has reached, the port it came in by (0 to 3 north, south, east and west, 4 twin, 5 local, 6 stair, 7 gallery, and from 16
  on what the router sends itself, from 32 on what a hall controller at it sends), the clk of injection and the clk its header has arrived -/
  pos : Nat := 0
  face : Nat := 5
  born : Nat := 0
  ready : Nat := 0
  /-- the clk at which its header, once at the last router, has come out of it to the core or block there (R140) -/
  ripe : Nat := 0
  /-- a hop of its path was at half clock (R140) -/
  slow : Bool := false
  /-- its number in the order of sending -/
  uid : Nat := 0
  /-- a delivery inside a core or over the hall's steal network: it takes no router (R111, R176) -/
  inner : Bool := false
  /-- it stands at its last router and has not passed the port to the core, stair or gallery block there (R132) -/
  waits : Bool := false
  /-- it stands in the overflow buffer of the routing tile at its router (R79) -/
  spilt : Bool := false
  /-- named traffic that the router it stands at has looked at (R155, R160) -/
  seen : Bool := false
  /-- it is on its way back to its source, which sends it again, with the final destination it had (R95) -/
  back : Option Nat := none
  /-- it was held while its storage target moved: its place among those held, in order of arrival (R96, R167) -/
  held : Option Nat := none
  deriving DecidableEq, Repr

/-- A message whose header has passed a link and whose other flits have not: its virtual channel there, its number, the flits left, and
the input port and virtual channel of the router it leaves. -/
structure Flow where
  vc : Nat
  uid : Nat
  left : Nat
  face : Nat
  from_ : Nat
  deriving DecidableEq, Repr

/-- An output port of a router toward another router (R131, R132): the messages it is passing, the virtual channel served last, the clk up
to which it has been served and the flits passed in that clk, and the clk at which the last flits of recent messages passed. -/
structure Link where
  flows : List Flow := []
  last : Nat := 9
  clk : Nat := 0
  used : Nat := 0
  fin : List (Nat × Nat) := []
  deriving DecidableEq, Repr

/-! ## Columns, homes, halls (spec 05, 09, 10) -/

/-- A twin-window register: its value, its value before the writes of clk `wclk`, and the writer's layer (R185). -/
structure Tw where
  cur : Reg := {}
  old : Reg := {}
  wclk : Option Nat := none
  layer : Nat := 0
  /-- shadowed results of the layers' cores that landed in that clk: each core sees its own at once (R351) -/
  land0 : Option Reg := none
  land1 : Option Reg := none
  deriving DecidableEq, Repr

/-- A column's licence (R189–R191). Layers are 0 and 1. -/
structure Lic where
  holder : Option Nat := none
  /-- a handover: to which layer, and the last clk of it -/
  handover : Option (Nat × Nat) := none
  last : Option Nat := none
  hovers : BitVec 16 := 0
  /-- the twin's head has waited its 8,192 clk: pass when the holder's command completes -/
  due : Bool := false
  /-- since when each layer's head has waited -/
  waitSince : List (Option Nat) := [none, none]
  deriving DecidableEq, Repr

/-- A request in a landing's table (R208, R209): its input, the clk it entered, and the access. -/
structure LandReq where
  stair : Bool
  at_ : Nat := 0
  req : Req
  deriving DecidableEq, Repr

/-- A column: twin window, licence and the landing of its DRAM (R208, R209). -/
structure Column where
  tw : List (Nat × Tw) := []
  lic : Lic := {}
  /-- requests held at the stair input, and the request table, oldest first -/
  stairQ : List Req := []
  table : List LandReq := []
  /-- the last slot served the mesh input (so the stair goes first after launch start) -/
  lastMesh : Bool := true
  /-- the entry that has come free is for a request that waits at the mesh input -/
  meshTurn : Bool := false
  nextSlot : Nat := 0
  sigs : List HomeSig := []
  watches : List Watch := []
  deriving DecidableEq, Repr

/-- A second-tier controller (R211). -/
structure EdgeCtl where
  table : List Req := []
  nextClk : Nat := 0
  sigs : List HomeSig := []
  watches : List Watch := []
  deriving DecidableEq, Repr

/-- A lease (R82, R83). -/
structure Lease where
  lid : Nat
  kind : Kind
  idx : Nat
  expiry : Nat
  lessee : Nat
  deriving DecidableEq, Repr

/-- A census decision (Table 5-8, R99). -/
structure Decision where
  lid : Nat
  /-- old role's target, none for an idle core -/
  old : Option (Kind × Nat)
  /-- new role's target, none for idle -/
  new : Option (Kind × Nat)
  src : Nat
  dst : Nat
  cause : Nat
  deriving DecidableEq, Repr

/-- Phases of a re-cast (Table 5-9). -/
inductive RPhase where
  | grace | drain | moved
  deriving DecidableEq, Repr

/-- A re-cast in progress (R92). -/
structure Recast where
  dec : Decision
  hall : Nat
  t0 : Nat
  phase : RPhase := .grace
  /-- the clk at which the phase may end -/
  due : Nat := 0
  /-- WHEN of its notices (Table 5-5) -/
  whenNs : BitVec 32 := 0
  /-- the re-cast of the other twin that shares its re-map (R94) -/
  pair : Bool := false
  deriving DecidableEq, Repr

/-- A stub at an old router (R92, R95). -/
structure Stub where
  lid : Nat
  kind : Kind
  idx : Nat
  old : Nat
  new : Option Nat
  closes : Nat
  closed : Bool := false
  deriving DecidableEq, Repr

/-- Arrivals of a region barrier held at a hall controller (R394): their contributions in arrival order. -/
structure Combined where
  lid : Nat
  home : Nat
  bar : Nat
  vs : List W64
  sig : Sig
  deriving DecidableEq, Repr

/-- What a hall controller counts for a launch in an epoch (Table 5-7): quiet epochs in a row (Table 5-8 row 3), tile-store
refusals, and flit-clk of router buffers taken. -/
structure Tally where
  quiet : Nat := 0
  tr : Nat := 0
  occ : Nat := 0
  deriving DecidableEq, Repr

/-- A non-leaf page-table entry that a walker caches (R214), by the address it was read at. -/
structure WalkEntry where
  lid : Nat
  /-- the virtual addresses that it leads to: those whose bits from `shift` on are `top` -/
  shift : Nat := 0
  top : Nat := 0
  at_ : Nat
  val : W64
  deriving DecidableEq, Repr

/-- A hall controller's state. -/
structure Hall where
  /-- the caches of the hall's four walkers, the entry used last first -/
  walkers : List (Nat × List WalkEntry) := []
  /-- the hall's TLB misses, by core and context or engine number (16 and above), in arrival order (R214) -/
  misses : List (Nat × Nat) := []
  leases : List Lease := []
  deferred : Option Decision := none
  /-- by LID -/
  tallies : List (Nat × Tally) := []
  /-- junction temperature in degrees C (R98) -/
  temp : Nat := 45
  /-- the governor's steps at 95 and at 100 degrees C are in force -/
  gate95 : Bool := false
  gate100 : Bool := false
  /-- since when the hall has been at or above 100 degrees C (R99) -/
  hotSince : Option Nat := none
  combined : List Combined := []
  waits : List BWaiter := []
  deriving DecidableEq, Repr

/-! ## Launches and the host interface (spec 03, 04) -/

/-- A launch record's fields (Table 4-3). -/
structure LRec where
  tag : BitVec 32 := 0
  rlid : BitVec 8 := 0
  dpool : Bool := false
  irq : Bool := false
  resume : Bool := false
  ver : BitVec 8 := 0
  /-- every reserved field is zero -/
  clean : Bool := true
  h : BitVec 16 := 0
  w : BitVec 16 := 0
  fy : BitVec 16 := 0
  fx : BitVec 16 := 0
  nroute : BitVec 20 := 0
  nstore : BitVec 20 := 0
  ncomp : BitVec 20 := 0
  sresv : BitVec 20 := 0
  nmin : BitVec 20 := 0
  cw : BitVec 16 := 0
  ptroot : BitVec 52 := 0
  hcnt : BitVec 12 := 0
  htab : VAddr := 0
  tlim : BitVec 32 := 0
  init : BitVec 12 := 0
  seed : BitVec 32 := 0
  fmc : BitVec 14 := 0
  arg0 : W128 := 0
  arg1 : W128 := 0
  arg2 : W128 := 0
  notafter : W64 := 0
  deriving DecidableEq, Repr

/-- What a fault record reports (Table 13-2). -/
structure FaultInfo where
  cls : BitVec 8
  code : BitVec 8 := 0
  l : Nat := 0
  place : Nat := 0
  ctx : Nat := 7
  async : Bool := true
  older : Bool := false
  shadow : BitVec 15 := 0
  pc : VAddr := 0
  time : W64 := 0
  detail : W64 := 0
  stage : BitVec 8 := 0
  handler : BitVec 12 := 0
  seq : BitVec 32 := 0
  opc : VAddr := 0
  deriving DecidableEq, Repr

/-- Completion statuses (Table 4-6). -/
inductive Status where
  | ok | fault | preempted | turnover | noFit | badRecord | gradeNone | overrun | cancelled | skipped | saveLost
  deriving DecidableEq, Repr

/-- A completion or fault record that waits for the ring (R62, R63, R267). -/
structure CRec where
  tag : BitVec 32 := 0
  src : Nat := 0
  lid : Nat := 0xFF
  status : Status := .ok
  detail : BitVec 8 := 0
  entry : Nat := 0
  tstart : W64 := 0
  tend : W64 := 0
  grant : BitVec 60 := 0
  tasks : W64 := 0
  irq : Bool := false
  fault : Option FaultInfo := none
  deriving DecidableEq, Repr

/-- Where a launch is in its life (R61, R70). -/
inductive LPhase where
  | admission | running | quiescing | saved
  deriving DecidableEq, Repr

/-- What a saved launch keeps (Table 6-10). -/
structure Saved where
  cores : List (Nat × Core) := []
  bytes : List Host.Cell := []
  tags : List Nat := []
  twins : List (Nat × List (Nat × Tw)) := []
  leases : List Lease := []
  deriving DecidableEq, Repr

/-- A task that retired in a clk: its core as it was before, and the tickets of the twin. A fault of the launch in the same clk undoes
the retirement (Table 13-3). -/
structure Ended where
  clk : Nat
  core : Nat
  was : Core
  twin : List Ticket
  deriving DecidableEq, Repr

/-- A launch, by its LID (R61, R101). -/
structure Launch where
  record : LRec := {}
  src : Nat := 0
  entry : Nat := 0
  phase : LPhase := .running
  /-- group rows still to admit, and the clk of the next step (R23) -/
  rows : List Nat := []
  nextStep : Nat := 0
  startClk : Nat := 0
  tstart : W64 := 0
  tasks : W64 := 0
  grant : BitVec 60 := 0
  compute : List Nat := []
  pool : List Nat := []
  routing : List (Option Nat) := []
  generation : Nat := 0
  j0 : Nat := 0
  s0 : Nat := 0
  names : List (Nat × W128) := []
  /-- the scan table (R215): units with their start maps, as the halfword offsets of starts -/
  scans : List (Nat × List Nat) := []
  /-- the key index under which each unit was scanned (R33, R307) -/
  codeKeys : List (Nat × Nat) := []
  /-- units being scanned, with the clk at which the scan began (R306) -/
  scanning : List (Nat × Nat) := []
  /-- resumed: a home without an entry of the launch, and none replaced, has an empty signature (R231) -/
  sigsFresh : Bool := false
  fault : Option (Nat × FaultInfo) := none
  /-- the cores at which a fault was recorded in the clk of that one (R269) -/
  faulted : List Nat := []
  /-- the tasks that retired in the last clk in which one did -/
  ended : List Ended := []
  frozen : Bool := false
  /-- the clk at which PREEMPT GO named it (Table 4-11) -/
  goAt : Option Nat := none
  halted : Option Nat := none
  /-- the clk of a brk that halts the launch as that clk ends (R344) -/
  brkAt : Option Nat := none
  /-- barriers recorded as not region barriers at the hall controllers, by (home, index) (R394) -/
  plainBars : List (Nat × Nat × Nat) := []
  growEpoch : Option Nat := none
  /-- epochs each hall has taken and donation and combining periods, by hall -/
  epochs : List (Nat × Nat) := []
  donations : List (Nat × Nat) := []
  combines : List (Nat × Nat) := []
  /-- shares of leases released at save (R85) -/
  saved : Option Saved := none
  deriving DecidableEq, Repr

/-- A launch queue (Table 4-2) with its latched head (R55). -/
structure Queue where
  dberr : Bool := false
  head : BitVec 6 := 0
  tail : BitVec 6 := 0
  latched : Option LRec := none
  deriving DecidableEq, Repr

/-- A time-triggered entry (Tables 4-8, 4-9; R68, R69). -/
structure TTEntry where
  start : W64 := 0
  period : W64 := 0
  en : Bool := false
  rule : BitVec 2 := 0
  missed : BitVec 32 := 0
  fired : BitVec 32 := 0
  /-- the next slot time -/
  next : Nat := 0
  /-- a late one-shot fires in the clk after EN (R68) -/
  late : Option Nat := none
  deferred : Option LRec := none
  cand : Option LRec := none
  lids : List Nat := []
  deriving DecidableEq, Repr

/-- Boot states (Table 3-3). -/
inductive BootState where
  | romWait | booting | ready | turnover | halted
  deriving DecidableEq, Repr

/-- Mailbox results (Table 3-3). -/
inductive MbResult where
  | ok | busy | imageBad | idFail | badOp
  deriving DecidableEq, Repr

/-- A command that waits for the records of its step 1 (R49, R50). -/
inductive Waiting where
  | turnover
  | reboot (img : W64) (len : Nat)
  deriving DecidableEq, Repr

/-- The mailbox, the identity and the firmware (spec 03). -/
structure Mailbox where
  op : BitVec 8 := 0
  arg : BitVec 32 := 0
  img : W64 := 0
  nonce : BitVec 256 := 0
  turns : BitVec 32 := 0
  grade : BitVec 8 := 0
  /-- the grade that was measured with the harvest map, which a new boot does not clear before it measures again (R54) -/
  mapGrade : BitVec 8 := 0
  result : MbResult := .ok
  state : BootState := .romWait
  rlost : Bool := false
  busy : Bool := false
  waiting : Option Waiting := none
  budgetEnd : Nat := 0
  report : List Byte := []
  devCert : List Byte := []
  aliasCert : List Byte := []
  measure : BitVec 256 := 0
  secver : BitVec 32 := 0
  bootId : W64 := 0
  aliasPriv : BitVec 256 := 0
  idOk : Bool := false
  healthFails : BitVec 32 := 0
  image : List Byte := []
  ideUp : Bool := false
  featuresBuilt : Bool := false
  /-- columns that self-test, the health test or the hedge rules out, by key; none until measured (R6, R16, R138), and the
  final rectangles (z, x0, y0, x1, y1) of R138 -/
  badCols : Option (List Nat) := none
  rects : List (Nat × Nat × Nat × Nat × Nat) := []
  deriving DecidableEq, Repr

/-- What stands outside the W7's control (assumption log 4): the carrier, the silicon, the fitted features. -/
structure Surround where
  secret : BitVec 256 := 1
  /-- the public key in the device certificate, X then Y: that of the secret beside it, so that boot finds them to match (log 4) -/
  certKey : BitVec 512 :=
    0x4fe342e2fe1a7f9b8ee7eb4a7c0f9e162bce33576b315ececbb6406837bf51f56b17d1f2e12c4247f8bce6e563a440f277037d812deb33a0f4a13945d898c296
  cert : List Byte := []
  /-- columns that fail self-test or the health test, and routers that fail, by key -/
  badColumns : List Nat := []
  unhealthy : List Nat := []
  deadRouters : List Nat := []
  /-- 64-byte sectors (pa >> 6) of SRAM and DRAM with an uncorrectable soft error (R210) -/
  softErrors : List Nat := []
  peerPorts : Bool := true
  ttTable : Bool := true
  stochastic : Bool := true
  tierCrypt : Bool := true
  peersUp : BitVec 32 := 0xFFFFFFFF
  /-- a read of the host's memory by the boot ROM completes with an error (R45) -/
  hostReadError : Bool := false
  /-- the module's power as the board controller reads it, in mW (R38, log 68) -/
  powerMw : Nat := 0
  deriving DecidableEq, Repr

/-- A power group's clock (R20, R21): the throttle's end and start, the own clk lost so far, and the own clk at the last power-up
or turnover, the zero of s.cyc (R192). -/
structure PowerGroup where
  until_ : Option Nat := none
  since : Nat := 0
  lost : Nat := 0
  base : Nat := 0
  deriving DecidableEq, Repr

/-- The command block's registers outside queues and table (spec 04, 13). -/
structure Cmd where
  crBase : W64 := 0
  log2n : BitVec 5 := 0
  crEn : Bool := false
  crHead : BitVec 16 := 0
  crTail : BitVec 16 := 0
  pass : Bool := true
  preResult : BitVec 3 := 0
  preGo : Bool := false
  preLid : BitVec 8 := 0
  lastQueue : Nat := 15
  /-- the clk in which the arbiter last started a candidate (R61) -/
  lastStart : Option Nat := none
  dbgLid : BitVec 8 := 0
  dbgHalt : Bool := false
  dbgFhalt : Bool := false
  dbgArmed : Bool := false
  selOp : BitVec 2 := 0
  selStatus : BitVec 2 := 0
  selL : BitVec 20 := 0
  selCtx : BitVec 3 := 0
  selOpnd : BitVec 6 := 0
  dbgData : W128 := 0
  dbgMeta : BitVec 32 := 0
  /-- DBG_BP0–3: VA, EN, ANYL, L -/
  bps : List (Nat × (VAddr × Bool × Bool × BitVec 20)) := []
  deriving DecidableEq, Repr

/-- The core and context whose instruction is executed. -/
structure Cur where
  core : Nat := 0
  ctx : Nat := 1
  deriving DecidableEq, Repr

/-- The module. -/
structure State where
  /-- the model's own fields: the turns to come, the executing context, the count of free values drawn -/
  schedule : List Turn := []
  cur : Cur := {}
  free : Nat := 0
  /-- the model's own field: how far the events of the current clk have gone in the order of R123, R178 and R269 -/
  phase : Nat := 0
  powered : Bool := true
  clk : Nat := 0
  /-- device time in thirteenths of a ns (one clk is 10/13 ns), its lock, and the thirteenths of correction still to slew -/
  time13 : Nat := 0
  timeLocked : Bool := false
  slew : Int := 0
  mb : Mailbox := {}
  out : Surround := {}
  cmd : Cmd := {}
  /-- queue slots, table records and MSI-X table bytes of W0, by W0 offset -/
  w0 : List Host.Cell := []
  queues : List (Nat × Queue) := []
  tt : List (Nat × TTEntry) := []
  records : List CRec := []
  /-- outputs: vectors signalled (last first), data of the last host read, messages given to peer ports -/
  msix : List Nat := []
  hostData : List Byte := []
  peerOut : List (Nat × Packet) := []
  w2Base : BitVec 16 := 0
  w2Err : Bool := false
  stepA : BitVec 16 := 0x04B0
  alarm : BitVec 16 := 0
  groups : List (Nat × PowerGroup) := []
  /-- the clk at which the last throttle period ended, for R24 -/
  throttleEnded : Option Nat := none
  launches : List (Nat × Launch) := []
  cores : List (Nat × Core) := []
  columns : List (Nat × Column) := []
  edges : List (Nat × EdgeCtl) := []
  halls : List (Nat × Hall) := []
  recasts : List Recast := []
  stubs : List Stub := []
  net : List Packet := []
  /-- messages sent so far, and the output ports of routers by place * 8 + direction -/
  sent : Nat := 0
  links : List (Nat × Link) := []
  /-- gallery ports (R131), by place: the next free flit of the port inward, in the port's own count of flits -/
  ports : List (Nat × Nat) := []
  /-- units marked as code at their home, with the LID whose mark it is (R215) -/
  codeMarks : List (Nat × Nat) := []
  mem : List Host.Cell := []
  /-- granules whose tag is set, rising -/
  tags : List Nat := []
  /-- second-tier lines written since their zero mark was set, with the key index, and the count of key draws (R33) -/
  lineKeys : List (Nat × Nat) := []
  keyEpoch : Nat := 0
  deriving DecidableEq, Repr

/-- Why the machine stops with a fault. A launch's own faults (Table 13-1) are no stop: they are next states. -/
inductive Fault where
  /-- Raised by a fetch whose halfwords, in a unit recorded as scanned, form no instruction. Safe: R307 gives such words no
  run-time behaviour, and no run reaches them, because the scanner refuses the unit. -/
  | noInstruction (pa : Nat)
  deriving DecidableEq, Repr

/-- Why an instruction is refused. -/
inductive Refusal where
  /-- Raised by an arm of exec whose instruction has no meaning yet. Safe: the machine stops. -/
  | notModelled (mnemonic : String)
  deriving DecidableEq, Repr

/-- The module right after power-up: the boot ROM waits for an image (R44), every register at its reset value. -/
def State.reset : State := {}

end Sys2Proof.Machine
end

