-- ==== Sys2Proof/Machine/Ops.lean ====
section
/-! DEFINITION. The named operations every meaning is built from: sparse lists, memory and tags, the parts of the state by
key, clocks, registers and tickets, channels and streams, taking a fault, parking, and going on to the next instruction. -/

namespace Sys2Proof.Machine
open Sys2Proof

/-! ## Sparse lists by key -/

/-- The value at a key, or `d` where the key is not listed. -/
def getAt {α : Type} (d : α) (k : Nat) (l : List (Nat × α)) : α :=
  match l with
  | [] => d
  | (j, v) :: r => if j = k then v else getAt d k r

/-- The value at a key, if listed. -/
def findAt {α : Type} (k : Nat) (l : List (Nat × α)) : Option α :=
  match l with
  | [] => none
  | (j, v) :: r => if j = k then some v else findAt k r

/-- Sets the value at a key, keys rising. -/
def putAt {α : Type} (k : Nat) (v : α) (l : List (Nat × α)) : List (Nat × α) :=
  match l with
  | [] => [(k, v)]
  | (j, w) :: r => if j = k then (k, v) :: r else if k < j then (k, v) :: (j, w) :: r else (j, w) :: putAt k v r

/-- Removes a key. -/
def dropAt {α : Type} (k : Nat) (l : List (Nat × α)) : List (Nat × α) :=
  List.filter (fun e => e.fst != k) l

/-- Replaces the k-th element. -/
def setNth {α : Type} (k : Nat) (v : α) (l : List α) : List α :=
  l.set k v

/-- The k-th element removed. -/
def dropNth {α : Type} (k : Nat) (l : List α) : List α :=
  l.eraseIdx k

/-! ## Bytes -/

/-- The number that bytes hold, lowest first (R4). -/
def bytesNat (bs : List Byte) : Nat :=
  match bs with
  | [] => 0
  | b :: r => b.toNat + 256 * bytesNat r

/-- The `n` bytes of a number, lowest first (R4). -/
def natBytes (n v : Nat) : List Byte :=
  match n with
  | 0 => []
  | k + 1 => BitVec.ofNat 8 v :: natBytes k (v / 256)

/-- The numbers from `a`, `n` of them. -/
def span (a n : Nat) : List Nat :=
  match n with
  | 0 => []
  | k + 1 => a :: span (a + 1) k

/-! ## Memory (R201): bytes by physical address, zero where nothing is listed -/

/-- Two ranges overlap. -/
def overlaps (a n b m : Nat) : Bool := 0 < n && 0 < m && a < b + m && b < a + n

/-- A byte of memory. -/
def Memory.read (m : List Host.Cell) (a : Nat) : Byte :=
  match m with
  | [] => 0
  | (j, b) :: r => if j = a then b else Memory.read r a

/-- Writes a byte; a zero byte is not listed. -/
def Memory.write (m : List Host.Cell) (a : Nat) (b : Byte) : List Host.Cell :=
  match m with
  | [] => if b = 0 then [] else [(a, b)]
  | (j, c) :: r =>
    if j = a then (if b = 0 then r else (a, b) :: r)
    else if a < j then (if b = 0 then (j, c) :: r else (a, b) :: (j, c) :: r)
    else (j, c) :: Memory.write r a b

/-- Every entry lies above `lo`, rising, and lists no zero byte. -/
def Memory.wfAbove (lo : Option Nat) (m : List Host.Cell) : Bool :=
  match m with
  | [] => true
  | (j, b) :: r => (match lo with | none => true | some l => decide (l < j)) && b != 0 && Memory.wfAbove (some j) r

/-- The canonical form: addresses strictly rising, no zero byte listed. -/
def Memory.wf (m : List Host.Cell) : Bool :=
  Memory.wfAbove none m

/-- `n` bytes from an address. -/
def Memory.readN (m : List Host.Cell) (a n : Nat) : List Byte :=
  match n with
  | 0 => []
  | k + 1 => Memory.read m a :: Memory.readN m (a + 1) k

/-- Bytes written from an address. -/
def Memory.writeN (m : List Host.Cell) (a : Nat) (bs : List Byte) : List Host.Cell :=
  match bs with
  | [] => m
  | b :: r => Memory.writeN (Memory.write m a b) (a + 1) r

/-- The nibbles of `b` that a two-bit mask names, over `old` (R207). -/
def mixByte (mask : BitVec 2) (old b : Byte) : Byte :=
  let lo : BitVec 4 := if mask.getLsbD 0 then b.extractLsb' 0 4 else old.extractLsb' 0 4
  let hi : BitVec 4 := if mask.getLsbD 1 then b.extractLsb' 4 4 else old.extractLsb' 4 4
  hi ++ lo

/-- Bytes written under nibble masks; past the masks' end every bit is written. -/
def Memory.writeMasked (m : List Host.Cell) (a : Nat) (bs : List Byte) (mask : List (BitVec 2)) : List Host.Cell :=
  match bs, mask with
  | [], _ => m
  | b :: r, [] => Memory.writeMasked (Memory.write m a b) (a + 1) r []
  | b :: r, k :: ks => Memory.writeMasked (Memory.write m a (mixByte k (Memory.read m a) b)) (a + 1) r ks

/-- Tags: the granules listed, rising. -/
def tagPut (g : Nat) (l : List Nat) : List Nat :=
  match l with
  | [] => [g]
  | h :: r => if h = g then h :: r else if g < h then g :: h :: r else h :: tagPut g r

/-- The region of a physical address (Table 10-4). -/
def paRegion (pa : Nat) : Nat :=
  pa / 2 ^ 48

/-- The granules that `n` bytes touch. -/
def granules (pa n : Nat) : List Nat :=
  if n = 0 then [] else span (pa / 16) ((pa + n - 1) / 16 - pa / 16 + 1)

/-- The granules in which a masked write of `bs` at `pa` changes a nibble. -/
def touched (pa : Nat) (bs : List Byte) (mask : List (BitVec 2)) : List Nat :=
  match bs with
  | [] => []
  | _ :: r => (if mask.headD 3 = 0 then [] else [pa / 16]) ++ touched (pa + 1) r mask.tail

/-- Writes bytes and clears the tags of the granules touched, then sets those of `set` (R199). -/
def State.storeTagged (s : State) (pa : Nat) (bs : List Byte) (mask : List (BitVec 2)) (set : List Nat) : State :=
  let gs := touched pa bs mask
  { s with
    mem := Memory.writeMasked s.mem pa bs mask
    tags := (set.filter (fun g => gs.contains g && paRegion pa ≤ 1)).foldl (fun l g => tagPut g l)
      (s.tags.filter (fun g => !gs.contains g)) }

/-- Writes bytes; an aligned .c store may keep its granule's tag (R199). -/
def State.store (s : State) (pa : Nat) (bs : List Byte) (mask : List (BitVec 2)) (tag : Option Bool) : State :=
  s.storeTagged pa bs mask (if tag = some true && pa % 16 = 0 then [pa / 16] else [])

/-- The tag of a granule (R199). -/
def State.tagOf (s : State) (pa : Nat) : Bool :=
  decide (pa % 16 = 0) && s.tags.contains (pa / 16)

/-! ## Geometry (R13, R15, R20, R201) -/

/-- Column x, y and layer of a place, and the place of them. -/
def placeX (p : Nat) : Nat :=
  p / 1024

/-- Column y. -/
def placeY (p : Nat) : Nat :=
  p / 2 % 512

/-- Layer. -/
def placeZ (p : Nat) : Nat :=
  p % 2

/-- The place of a column and layer. -/
def placeOf (x y z : Nat) : Nat :=
  x * 1024 + y * 2 + z

/-- The column of a core: x * 512 + y. -/
def colOf (p : Nat) : Nat :=
  p / 2

/-- The twin of a core. -/
def twinOf (p : Nat) : Nat :=
  if p % 2 = 0 then p + 1 else p - 1

/-- The hall of a place, hy * 32 + hx. -/
def hallOf (p : Nat) : Nat :=
  placeY p / 16 * 32 + placeX p / 16

/-- The power group of a hall (R20). -/
def groupOfHall (h : Nat) : Nat :=
  h / 32 / 8 * 4 + h % 32 / 8

/-- The power group of a place. -/
def groupOf (p : Nat) : Nat :=
  groupOfHall (hallOf p)

/-- The physical address of a local SRAM offset (Table 10-4). -/
def sramPa (core off : Nat) : Nat :=
  core * 2 ^ 18 + off

/-- The physical address of a DRAM-column offset. -/
def dramPa (col off : Nat) : Nat :=
  2 ^ 48 + col * 2 ^ 22 + off

/-- The core of a region-0 physical address. -/
def paCore (pa : Nat) : Nat :=
  pa / 2 ^ 18

/-- The column of a region-1 physical address. -/
def paCol (pa : Nat) : Nat :=
  pa / 2 ^ 22 % 2 ^ 18

/-! ## Parts of the state by key -/

/-- A core by place. -/
def State.core (s : State) (p : Nat) : Core :=
  getAt {} p s.cores

/-- Sets a core. -/
def State.setCore (s : State) (p : Nat) (c : Core) : State :=
  { s with cores := putAt p c s.cores }

/-- Changes a core. -/
def State.modCore (s : State) (p : Nat) (f : Core → Core) : State :=
  s.setCore p (f (s.core p))

/-- A context of a core. -/
def Core.ctx (c : Core) (n : Nat) : Ctx :=
  getAt {} n c.ctxs

/-- Changes a context. -/
def Core.modCtx (c : Core) (n : Nat) (f : Ctx → Ctx) : Core :=
  { c with ctxs := putAt n (f (c.ctx n)) c.ctxs }

/-- The core whose instruction is executed. -/
def State.cc (s : State) : Core :=
  s.core s.cur.core

/-- The context whose instruction is executed. -/
def State.cx (s : State) : Ctx :=
  s.cc.ctx s.cur.ctx

/-- Changes the current core. -/
def State.modCc (s : State) (f : Core → Core) : State :=
  s.modCore s.cur.core f

/-- Changes the current context. -/
def State.modCx (s : State) (f : Ctx → Ctx) : State :=
  s.modCc fun c => c.modCtx s.cur.ctx f

/-- A column. -/
def State.column (s : State) (k : Nat) : Column :=
  getAt {} k s.columns

/-- Changes a column. -/
def State.modColumn (s : State) (k : Nat) (f : Column → Column) : State :=
  { s with columns := putAt k (f (s.column k)) s.columns }

/-- An edge controller. -/
def State.edge (s : State) (k : Nat) : EdgeCtl :=
  getAt {} k s.edges

/-- Changes an edge controller. -/
def State.modEdge (s : State) (k : Nat) (f : EdgeCtl → EdgeCtl) : State :=
  { s with edges := putAt k (f (s.edge k)) s.edges }

/-- A hall controller. -/
def State.hall (s : State) (h : Nat) : Hall :=
  getAt {} h s.halls

/-- Changes a hall controller. -/
def State.modHall (s : State) (h : Nat) (f : Hall → Hall) : State :=
  { s with halls := putAt h (f (s.hall h)) s.halls }

/-- What a hall controller counts for a launch. -/
def Hall.tally (h : Hall) (lid : Nat) : Tally :=
  getAt {} lid h.tallies

/-- Changes what a hall controller counts for a launch. -/
def State.modTally (s : State) (h lid : Nat) (f : Tally → Tally) : State :=
  s.modHall h fun x => { x with tallies := putAt lid (f (x.tally lid)) x.tallies }

/-- A launch, if one holds the LID. -/
def State.launch? (s : State) (lid : Nat) : Option Launch :=
  findAt lid s.launches

/-- A launch, with an empty one for a free LID. -/
def State.launch (s : State) (lid : Nat) : Launch :=
  (s.launch? lid).getD {}

/-- Changes a launch that exists. -/
def State.modLaunch (s : State) (lid : Nat) (f : Launch → Launch) : State :=
  match s.launch? lid with
  | none => s
  | some l => { s with launches := putAt lid (f l) s.launches }

/-- A launch queue. -/
def State.queue (s : State) (q : Nat) : Queue :=
  getAt {} q s.queues

/-- Changes a queue. -/
def State.modQueue (s : State) (q : Nat) (f : Queue → Queue) : State :=
  { s with queues := putAt q (f (s.queue q)) s.queues }

/-- A time-triggered entry. -/
def State.ttEntry (s : State) (e : Nat) : TTEntry :=
  getAt {} e s.tt

/-- Changes a time-triggered entry. -/
def State.modTt (s : State) (e : Nat) (f : TTEntry → TTEntry) : State :=
  { s with tt := putAt e (f (s.ttEntry e)) s.tt }

/-- A core's LID and tile when it is a compute tile. -/
def Core.tile? (c : Core) : Option (Nat × Nat) :=
  match c.role with
  | Role.host lid Kind.compute l => some (lid, l)
  | _ => none

/-- The LID the current context works for. -/
def State.lid (s : State) : Nat :=
  match s.cx.task with
  | some t => t.lid
  | none => 0

/-- The current tile's L. -/
def State.tileL (s : State) : Nat :=
  match s.cc.role with
  | Role.host _ Kind.compute l => l
  | _ => 0

/-- C of a launch (R76). -/
def Launch.c (l : Launch) : Nat :=
  l.compute.length

/-- C of the current launch. -/
def State.curC (s : State) : Nat :=
  (s.launch s.lid).c

/-! ## Clocks (R20–R22, R37) -/

/-- A power group. -/
def State.group (s : State) (g : Nat) : PowerGroup :=
  getAt {} g s.groups

/-- The group runs at half clock in a clk: from the start of its throttle to its end (R21, R465). -/
def PowerGroup.halvedAt (g : PowerGroup) (clk : Nat) : Bool := g.until_.isSome && g.since ≤ clk

/-- The group runs at half clock. -/
def State.halved (s : State) (g : Nat) : Bool := (s.group g).halvedAt s.clk

/-- A group's own clk since power-up. -/
def State.groupClk (s : State) (g : Nat) : Nat :=
  let p : PowerGroup := s.group g
  s.clk - p.lost - if p.until_.isSome then (s.clk - p.since + 1) / 2 else 0

/-- A core's own clk since power-up (R22). -/
def State.ownClk (s : State) (core : Nat) : Nat :=
  s.groupClk (groupOf core)

/-- Reference clk that `n` of a core's own clk take from a clk on; at half clock the core's clk fall on every second one from the start of
the throttle (R21, R465). -/
def State.delayFrom (s : State) (clk core n : Nat) : Nat :=
  let g : PowerGroup := s.group (groupOf core)
  if g.until_.isSome then 2 * n - (if clk < g.since then g.since - clk else (clk - g.since) % 2) else n

/-- Reference clk that `n` of a core's own clk take now. -/
def State.delay (s : State) (core n : Nat) : Nat := s.delayFrom s.clk core n

/-- Device time in ns (R37). -/
def State.time (s : State) : W64 :=
  BitVec.ofNat 64 (s.time13 / 13)

/-! ## Messages into and out of the network (R133, R134, R140, R228) -/

/-- Entries of 128 bits that bytes take. -/
def entriesFor (n : Nat) : Nat := (n + 15) / 16

/-- Flits of a message with n payload entries: the header and two entries a flit (R134). -/
def flitsOf (n : Nat) : Nat := 1 + (n + 1) / 2

/-- The signature that goes directly ahead of a message: an empty one is not sent, and nothing goes ahead inside a core (R228). -/
def Packet.marker? (p : Packet) : Option Sig :=
  let g : Option Sig := match p.body with
    | .access r => r.rel
    | .response r => r.sig
    | .decrement _ g => some g
    | .barArr _ _ _ _ g => some g
    | .barAns _ _ _ g _ _ => some g
    | .stealAns (some r) => some r.sig
    | .sigMark _ => none
    | _ => p.sig
  if p.inner then none else g.filter (fun g => g != 0)

/-- Payload entries of a signature marker: eight, and none for a saturated signature (R228). -/
def markEntries (g : Sig) : Nat := if g = BitVec.allOnes 1024 then 0 else 8

/-- Bytes as entries of 128 bits, the last one filled up with zeros. -/
def byteEntries (bs : List Byte) (fuel : Nat) : List W128 :=
  match fuel with
  | 0 => []
  | f + 1 => if bs.isEmpty then [] else BitVec.ofNat 128 (bytesNat (bs.take 16)) :: byteEntries (bs.drop 16) f

/-- A signature as eight entries. -/
def sigEntries (g : Sig) : List W128 := (span 0 (markEntries g)).map (fun i => g.extractLsb' (128 * i) 128)

/-- A place in the layout of Table 7-1. -/
def placeBits (p : Nat) : BitVec 19 := BitVec.ofNat 9 (placeX p) ++ BitVec.ofNat 9 (placeY p) ++ BitVec.ofNat 1 (placeZ p)

/-- One bit. -/
def bit1 (b : Bool) : BitVec 1 := if b then 1 else 0

/-- Interest metadata (Table 8-3). -/
def Interest.meta (i : Interest) : W128 :=
  let ty : BitVec 2 := match i.type with | .want => 0 | .renew => 1 | .sealI => 2
  0#74 ++ (if i.byp then placeBits i.ret else 0) ++ bit1 i.byp ++ ty ++ BitVec.ofNat 32 i.left

/-- Data metadata (Table 8-4). -/
def Train.meta (t : Train) : W128 :=
  let (code, stat) : BitVec 4 × Nat := match t.code with
    | .data => (0, 0) | .never => (1, 0) | .expired => (2, 0) | .retry => (3, 0) | .answer n => (4, n)
  0#39 ++ BitVec.ofNat 32 t.sleft ++ (if t.byp then placeBits t.ret else 0) ++ bit1 t.byp ++ bit1 t.back ++ code ++ BitVec.ofNat 16 stat
    ++ 0#3 ++ BitVec.ofNat 13 t.data.length

/-- The value that a response carries besides bytes: an atomic's old one, or a Fill's. -/
def Rsp.value? (r : Rsp) : Option W128 :=
  if r.failed || r.poison.isSome then none
  else
    match r.op with
    | .amo _ _ _ _ => r.ticket.map (fun _ => r.fill.v)
    | .store => r.ticket.map (fun _ => r.fill.v)
    | _ => none

/-- The values that an access brings: the bytes of a store or write-back, the operand of an atomic and, of amocas, the one it compares. -/
def Req.carried (r : Req) : List W128 :=
  match r.op with
  | .amo op _ v cmp => if op = 7 then [v, cmp] else [v]
  | _ => byteEntries r.data (entriesFor r.data.length)

/-- The payload entries of a message, or of the head message of a train (R134, R153, R228). Of a message whose payload the rules do not
size, each value that it carries is one entry (DESIGN CHOICE, assumption log 76). -/
def Packet.entryList (p : Packet) : List W128 :=
  match p.body with
  | .message => p.entries.map (fun e => e.v)
  | .access r => r.carried
  | .response r => byteEntries r.data (entriesFor r.data.length) ++ r.value?.toList
  | .sigMark g => sigEntries g
  | .interest i => [i.meta]
  | .train t => [t.meta]
  | .barArr _ _ _ v _ => [v.setWidth 128]
  | .barAns _ gen last _ _ _ => [0#32 ++ gen ++ last]
  | .notice w => [w.setWidth 128]
  | .service _ arg _ _ _ => [arg.setWidth 128]
  | .nameReq _ v _ _ _ _ => [v]
  | .leaseReq _ i d _ _ _ _ => [BitVec.ofNat 64 d ++ BitVec.ofNat 64 i]
  | .roleReq _ i _ _ _ => [BitVec.ofNat 128 i]
  | _ => []

/-- NENT of a message, or of the head message of a train. Of a message whose payload the manual does not lay out it is the number of values
that the message carries (DESIGN CHOICE, assumption log 76). -/
def Packet.payload (p : Packet) : Nat := p.entryList.length

/-- The payload flits of a message: two entries a flit, the first of them in the low half (R134). -/
def payloadFlits (es : List W128) : List (BitVec 256) :=
  match es with
  | [] => []
  | [a] => [a.setWidth 256]
  | a :: b :: r => (b ++ a) :: payloadFlits r

/-- Flits of the data messages of a train of n bytes, each with up to 128 bytes (R153). -/
def dataFlits (n : Nat) : Nat := n / 128 * flitsOf 8 + (if n % 128 = 0 then 0 else flitsOf (entriesFor (n % 128)))

/-- Flits of the marker that goes ahead of a message. -/
def Packet.markFlits (p : Packet) : Nat := match p.marker? with | some g => flitsOf (markEntries g) | none => 0

/-- Flits of a message and, for a train, of its data messages. -/
def Packet.flits (p : Packet) : Nat := flitsOf p.payload + (match p.body with | .train t => dataFlits t.data.length | _ => 0)

/-- A message is the signature marker of another. -/
def Packet.marks (q p : Packet) : Bool := q.uid + 1 == p.uid && (match q.body with | .sigMark _ => true | _ => false)

/-- Once its header stands at the router a message takes 4 clk of the place's clock out of it (R140); within a core none. -/
def State.ripens (s : State) (p : Packet) (place ready : Nat) : Nat := if p.inner then ready else ready + s.delayFrom ready place 4

/-- A waypoint of a static route lies ahead (R141). -/
def Packet.onWay (p : Packet) : Bool := p.stat && p.step < p.wps.length

/-- A message that leaves its last router by a port; interests and offers are served by the router itself (R155, R160). -/
def Packet.ejects (p : Packet) : Bool :=
  !p.inner && (match p.body with
    | .interest i => i.type == .sealI || p.back.isSome
    | .train t => t.back || p.back.isSome
    | _ => true)

/-- The message as it comes to a router: at the last one it waits for the port (R132). -/
def Packet.settled (p : Packet) : Packet := { p with waits := p.pos == p.dest && p.dest == p.final && !p.onWay && p.ejects }

/-- What a message puts into the network: itself, and its signature's marker (KIND 7) directly ahead of it (R228). -/
def State.entering (s : State) (p : Packet) : List Packet :=
  let p := { p.settled with slow := p.slow || (!p.inner && s.halved (groupOf p.pos)) }
  match p.marker? with
  | none => [{ p with uid := s.sent, ripe := s.ripens p p.pos p.ready }]
  | some g =>
    let r := p.ready + p.markFlits
    [{ p with uid := s.sent, kind := 7, body := .sigMark g, entries := [], sig := none, ripe := s.ripens p p.pos p.ready },
      { p with uid := s.sent + 1, ready := r, ripe := s.ripens p p.pos r }]

/-- A message into the network. -/
def State.send (s : State) (p : Packet) : State :=
  { s with net := s.net ++ s.entering p, sent := s.sent + (s.entering p).length }

/-- Messages without the k-th, and without the signature marker that it follows. -/
def takeOut (k : Nat) (net : List Packet) : List Packet :=
  match net[k]? with
  | none => net
  | some p => (dropNth k net).filter (fun q => !q.marks p)

/-- The k-th message of the network taken out. -/
def State.dropPacket (s : State) (k : Nat) : State := { s with net := takeOut k s.net }

/-! ## Faults (R264–R269) -/

/-- Which of two faults of one clk is reported: the lowest class, then L, then context (R266). -/
def FaultInfo.before (a b : FaultInfo) : Bool :=
  decide (a.cls.toNat < b.cls.toNat) || a.cls == b.cls && (decide (a.l < b.l) || a.l == b.l && decide (a.ctx < b.ctx))

/-- Records a fault of a launch; later clk report nothing (R266). It takes effect when the clk ends (Launch.lean). -/
def State.recordFault (s : State) (lid : Nat) (f : FaultInfo) : State :=
  s.modLaunch lid fun l =>
    if l.frozen then l
    else
      let at_ := if f.cls = 0x11 then [] else [f.place]
      match l.fault with
      | none => { l with fault := some (s.clk, f), faulted := at_ }
      | some (c, g) =>
        if c = s.clk then { l with fault := some (c, if f.before g then f else g), faulted := at_ ++ l.faulted } else l

/-- An asynchronous fault that a tile reports (R267): CTX 7, no PC, stage, handler or SEQ. -/
def State.faultAsync (s : State) (lid : Nat) (cls : BitVec 8) (l place : Nat) (detail : W64) : State :=
  s.recordFault lid { cls := cls, l := l, place := place, time := s.time, detail := detail }

/-- The oldest shadowed instruction of a context in flight. -/
def Core.oldest (c : Core) (ctx : Nat) : Option Shadow := c.shadows.find? (fun h => h.ctx == ctx)

/-- Parts of one instruction. -/
def Shadow.same (g h : Shadow) : Bool := g.ctx == h.ctx && g.since == h.since && g.pc == h.pc

/-- The fault record of a context's trap (R267), with the window of the oldest shadowed instruction in flight (R268). -/
def State.trapInfo (s : State) (core ctx : Nat) (cls code : BitVec 8) (detail : W64) : FaultInfo :=
  let c : Core := s.core core
  let x : Ctx := c.ctx ctx
  let t : Task := x.task.getD (x.late.getD {})
  let sh : Option Shadow := c.oldest ctx
  { cls := cls, code := code,
    l :=
      match c.role with
      | Role.host _ Kind.compute l => l
      | _ => 0,
    place := core, ctx := ctx, async := false, older := sh.isSome,
    shadow :=
      match sh with
      | some h => h.window
      | none => 0,
    pc := x.pc, time := s.time, detail := detail, stage := t.stage, handler := t.handler, seq := t.seq,
    opc :=
      match sh with
      | some h => h.pc
      | none => 0 }

/-- The window of a shadowed instruction holds the one that its context issued `past` instructions ago. -/
def Shadow.windowHolds (h : Shadow) (past : Nat) : Bool := past ≤ h.since && h.since + 1 - past ≤ h.look

/-- The shadowed instructions of a core once an instruction of a context has trapped, `past` of the context's instructions ago: those in
the window of the context's oldest one are abandoned, and each whose own window holds the trap (R268, Table 17-8, assumption log 93). -/
def abandonWindow (ctx past : Nat) (l : List Shadow) : List Shadow :=
  match l.find? (fun h => h.ctx == ctx) with
  | none => l
  | some k => l.filter (fun h => h.ctx != ctx || !(h.windowHolds past || (!h.same k && k.since - h.since ≤ k.look)))

/-- TAKING A TRAP: the fault of a context (R264): the record is made, the shadowed instructions of its window are abandoned
(R268), and the launch ends or freezes when the clk ends (R64, R273). -/
def State.trapAt (s : State) (core ctx : Nat) (cls code : BitVec 8) (detail : W64) : State :=
  let lid : Nat :=
    match ((s.core core).ctx ctx).task with
    | some t => t.lid
    | none => 0
  (s.recordFault lid (s.trapInfo core ctx cls code detail)).modCore core fun c =>
    { c with shadows := abandonWindow ctx 0 c.shadows }

/-- A sector has an uncorrectable soft error (R210). -/
def State.damaged (s : State) (pa : Nat) : Bool :=
  s.out.softErrors.contains (pa / 64)

/-- Class numbers of Table 13-1. -/
def clsPoisonUse : BitVec 8 :=
  1

/-- BOUNDS. -/
def clsBounds : BitVec 8 :=
  2

/-- CAPABILITY. -/
def clsCapability : BitVec 8 :=
  3

/-- TRANSLATION. -/
def clsTranslation : BitVec 8 :=
  4

/-- CODE_WRITE. -/
def clsCodeWrite : BitVec 8 :=
  5

/-- CODE_SCAN. -/
def clsCodeScan : BitVec 8 :=
  6

/-- BAD_HANDLER. -/
def clsBadHandler : BitVec 8 :=
  7

/-- TASK_LIMIT. -/
def clsTaskLimit : BitVec 8 :=
  8

/-- HANDLER_LIMIT. -/
def clsHandlerLimit : BitVec 8 :=
  9

/-- DEQUE_OVERFLOW. -/
def clsDequeOverflow : BitVec 8 :=
  10

/-- COUNTER_UNDERFLOW. -/
def clsCounterUnderflow : BitVec 8 :=
  11

/-- STRANDED_TASK. -/
def clsStranded : BitVec 8 :=
  12

/-- CHANNEL. -/
def clsChannel : BitVec 8 :=
  13

/-- STREAM. -/
def clsStream : BitVec 8 :=
  14

/-- PEER. -/
def clsPeer : BitVec 8 :=
  15

/-- MEMORY. -/
def clsMemory : BitVec 8 :=
  16

/-- THERMAL. -/
def clsThermal : BitVec 8 :=
  17

/-- USER. -/
def clsUser : BitVec 8 :=
  18

/-- BREAK. -/
def clsBreak : BitVec 8 :=
  19

/-- JUMP. -/
def clsJump : BitVec 8 :=
  20

/-- COMMAND. -/
def clsCommand : BitVec 8 :=
  21

/-- Poison codes of Table 9-5. -/
def pzMoved : BitVec 8 :=
  1

/-- CANCELLED. -/
def pzCancelled : BitVec 8 :=
  2

/-- EXPIRED. -/
def pzExpired : BitVec 8 :=
  3

/-- NEVER. -/
def pzNever : BitVec 8 :=
  4

/-- ENGINE. -/
def pzEngine : BitVec 8 :=
  5

/-- BOUNDS. -/
def pzBounds : BitVec 8 :=
  6

/-- RECAST. -/
def pzRecast : BitVec 8 :=
  7

/-- DUPOFFER. -/
def pzDupOffer : BitVec 8 :=
  8

/-- DEBUGCANCEL. -/
def pzDebugCancel : BitVec 8 :=
  9

/-- STREAMEND. -/
def pzStreamEnd : BitVec 8 :=
  10

/-! ## Stops of an instruction: it parks, or it traps -/

/-- How an instruction that does not complete stops: parked in the state given (R179), or trapped. -/
inductive Stop where
  /-- The context parks, the state otherwise as given. -/
  | park (s : State) (p : Park)
  /-- The instruction traps with a class, a code and a detail. -/
  | trap (cls code : BitVec 8) (detail : W64)
  deriving DecidableEq, Repr

/-- The result of a part of an instruction. -/
abbrev Res (α : Type) := Except Stop α

/-- A trap with code 0. -/
def trap {α : Type} (cls : BitVec 8) (detail : Nat) : Res α :=
  .error (Stop.trap cls 0 (BitVec.ofNat 64 detail))

/-- A condition that traps when it holds. -/
def trapIf (b : Bool) (cls : BitVec 8) (detail : Nat) : Res Unit :=
  if b then trap cls detail else .ok ()

/-- A condition that parks when it holds. -/
def parkIf (b : Bool) (s : State) (p : Park) : Res Unit :=
  if b then .error (Stop.park s p) else .ok ()

/-- A context parked. A TLB miss joins the hall's queue of them (R214), and a fetch of an unscanned unit begins its scan unless it has
begun (R306). -/
def State.parkAt (s : State) (core ctx : Nat) (p : Park) : State :=
  let lid : Nat :=
    match ((s.core core).ctx ctx).task with
    | some t => t.lid
    | none => 0
  let s := s.modCore core fun c => c.modCtx ctx fun x => { x with park := some p }
  match p with
  | Park.walk _ =>
    s.modHall (hallOf core) fun h => { h with misses := h.misses.filter (fun m => m != (core, ctx)) ++ [(core, ctx)] }
  | Park.scan u =>
    s.modLaunch lid fun l => if (findAt u l.scanning).isSome then l else { l with scanning := putAt u s.clk l.scanning }
  | _ => s

/-- The current context parked. -/
def State.parkCur (s : State) (p : Park) : State :=
  s.parkAt s.cur.core s.cur.ctx p

/-- The outcome of an instruction: its next state, the parked context, or the trap taken. -/
def conclude (s : State) (r : Res State) : Host.Outcome State Fault Refusal :=
  match r with
  | .ok t => Host.Outcome.next t
  | .error (Stop.park t p) => Host.Outcome.next (t.parkCur p)
  | .error (Stop.trap cls code d) => Host.Outcome.next (s.trapAt s.cur.core s.cur.ctx cls code d)

/-! ## Registers (R172–R174) -/

/-- A FULL register. -/
def Reg.full (v : TagVal) : Reg :=
  { value := v.v, tag := v.tag }

/-- A POISONED register. -/
def Reg.poison (code : BitVec 8) : Reg :=
  { state := RState.poisoned, code := code }

/-- A PENDING register. -/
def Reg.pending (t : BitVec 16) : Reg :=
  { state := RState.pending, ticket := t }

/-- What a register's value reads as: zero while it is PENDING or POISONED (Table 9-2). -/
def Reg.read (r : Reg) : TagVal :=
  if r.state = .full then { v := r.value, tag := r.tag } else {}

/-- A general register of a context. -/
def Ctx.reg (x : Ctx) (n : Nat) : Reg :=
  getAt {} n x.regs

/-- Sets a general register. -/
def Ctx.setReg (x : Ctx) (n : Nat) (r : Reg) : Ctx :=
  { x with regs := putAt n r x.regs }

/-- A twin-window register of a column. -/
def Column.twin (c : Column) (n : Nat) : Tw :=
  getAt {} n c.tw

/-- What a twin-window register reads as to a layer's core in a clk: the value from before the writes of that clk (R185), but a
shadowed result of that core which has landed in it (R351). -/
def Tw.seen (t : Tw) (clk layer : Nat) : Reg :=
  if t.wclk = some clk then (if layer = 0 then t.land0 else t.land1).getD t.old else t.cur

/-- A write of a layer in a clk; of two in one clk the layer-1 core's remains (R185). -/
def Tw.write (t : Tw) (clk layer : Nat) (r : Reg) : Tw :=
  if t.wclk = some clk then
    if (decide (t.layer = 1) && decide (layer = 0)) then t else { t with cur := r, layer := layer }
  else { cur := r, old := t.cur, wclk := some clk, layer := layer }

/-- A shadowed result of a layer's core lands (R351). -/
def Tw.land (t : Tw) (clk layer : Nat) (r : Reg) : Tw :=
  let u := t.write clk layer r
  if layer = 0 then { u with land0 := some r } else { u with land1 := some r }

/-- The register of an operand code 0–31 or 40–47, as a context reads it now. -/
def State.regAt (s : State) (core ctx code : Nat) : Reg :=
  if code < 32 then ((s.core core).ctx ctx).reg code else ((s.column (colOf core)).twin (code - 40)).seen s.clk (placeZ core)

/-- Writes a register of an operand code; z and other codes discard. -/
def State.setRegAt (s : State) (core ctx code : Nat) (r : Reg) : State :=
  if code < 32 then s.modCore core fun c => c.modCtx ctx fun x => x.setReg code r
  else
    if (decide (40 ≤ code) && decide (code < 48)) then
      s.modColumn (colOf core) fun c =>
        { c with tw := putAt (code - 40) ((c.twin (code - 40)).write s.clk (placeZ core) r) c.tw }
    else s

/-- A shadowed result of a core lands in the register of an operand code. DESIGN CHOICE (assumption log 104): it overwrites a register of
the window that another context or the twin has made PENDING meanwhile. -/
def State.landRegAt (s : State) (core ctx code : Nat) (r : Reg) : State :=
  if (decide (40 ≤ code) && decide (code < 48)) then
    s.modColumn (colOf core) fun c =>
      { c with tw := putAt (code - 40) ((c.twin (code - 40)).land s.clk (placeZ core) r) c.tw }
  else s.setRegAt core ctx code r

/-- Where a ticket of an operand code delivers. -/
def locOf (core ctx code : Nat) : Loc :=
  if code < 32 then Loc.gpr core ctx code
  else if (decide (40 ≤ code) && decide (code < 48)) then Loc.twin (colOf core) (code - 40) else Loc.nowhere

/-! ## Tickets, Fill and Poison (R176, R177) -/

/-- The ticket that a register holds delivers nowhere from now on (R177); it may belong to either core of the column. -/
def State.abandon (s : State) (core ctx code : Nat) (t : BitVec 16) : State :=
  let cut : Core → Core := fun c =>
    { c with
      tickets := List.map (fun k => if (k.t == t && k.loc == locOf core ctx code) then { k with loc := Loc.nowhere } else k) c.tickets }
  (s.modCore core cut).modCore (twinOf core) cut

/-- The layer-1 core has written a twin-window register in this clk, so that a write of the layer-0 core is lost (R185). -/
def State.twLost (s : State) (core code : Nat) : Bool :=
  decide (40 ≤ code) && decide (code < 48) && placeZ core == 0
    && ((s.column (colOf core)).twin (code - 40)).wclk == some s.clk && ((s.column (colOf core)).twin (code - 40)).layer == 1

/-- Where a ticket put into a register now delivers: nowhere, where the write is lost. -/
def State.destOf (s : State) (core ctx code : Nat) : Loc := if s.twLost core code then .nowhere else locOf core ctx code

/-- A ticket delivers to no register of a place from now on. -/
def Core.leaveLoc (l : Loc) (c : Core) : Core :=
  { c with tickets := c.tickets.map (fun k => if k.loc == l then { k with loc := .nowhere } else k) }

/-- A twin-window register is to hold a future. One that was put into it before and has been overwritten since, as the layer-1 core may do
in the same clk, delivers nowhere (R176, R185). -/
def State.displace (s : State) (core ctx code : Nat) : State :=
  if decide (40 ≤ code) && decide (code < 48) && !s.twLost core code
  then { s with cores := s.cores.map (fun e => (e.1, e.2.leaveLoc (locOf core ctx code))) } else s

/-- The next serial: the counter, skipping serials still outstanding (R177). -/
def nextSerial (out : List Ticket) (n : BitVec 12) (fuel : Nat) : BitVec 12 :=
  match fuel with
  | 0 => n
  | f + 1 => if out.any (fun t => t.t.extractLsb' 0 12 == n) then nextSerial out (n + 1) f else n

/-- The ticket of a class that the core issues next. -/
def Core.newTicket (c : Core) (cls : BitVec 4) : BitVec 16 :=
  cls ++ nextSerial c.tickets c.serial 65

/-- Takes a ticket for an operand code of the current context and makes the register PENDING; for z the command runs and
delivers nothing (R176, R406). -/
def State.takeTicket (s : State) (cls : BitVec 4) (d : BitVec 6) : BitVec 16 × State :=
  let t : BitVec 16 := s.cc.newTicket cls
  let s : State :=
    (s.displace s.cur.core s.cur.ctx d.toNat).modCc fun c =>
      { c with
        tickets := c.tickets ++ [{ t := t, loc := s.destOf s.cur.core s.cur.ctx d.toNat }],
        serial := t.extractLsb' 0 12 + 1 }
  (t, s.setRegAt s.cur.core s.cur.ctx d.toNat (Reg.pending t))

/-- 64 tickets are outstanding (R177). -/
def Core.ticketsFull (c : Core) : Bool :=
  decide (64 ≤ c.tickets.length)

/-- Where a ticket delivers now. -/
def Core.ticketLoc (c : Core) (t : BitVec 16) : Option Loc :=
  match List.find? (fun k => k.t == t) c.tickets with
  | some k => some k.loc
  | none => none

/-- A twin-window register after a delivery: whichever of its two values waits for the ticket is replaced. -/
def Tw.deliver (w : Tw) (t : BitVec 16) (r : Reg) : Tw :=
  let hit : Reg → Bool := fun g => g.state == RState.pending && g.ticket == t
  { w with cur := if hit w.cur then r else w.cur, old := if hit w.old then r else w.old }

/-- A FULL value that reaches a register bound to an output stream is pushed (R188, assumption log 11). -/
def Ctx.pushFilled (x : Ctx) (n : Nat) (r : Reg) : Ctx :=
  match findAt n x.streams with
  | some t => if t.out && r.state == .full
    then { x with streams := putAt n { t with moved := t.moved + 1, buf := t.buf ++ [r.value] } x.streams } else x
  | none => x

/-- FILL and POISON: a producer's result reaches the register that holds the ticket at that moment, and the ticket is freed
(R176, R177). -/
def State.deliver (s : State) (core : Nat) (t : BitVec 16) (r : Reg) : State :=
  let loc := ((s.core core).ticketLoc t).getD .nowhere
  let s := s.modCore core fun c => { c with tickets := c.tickets.filter (fun k => k.t != t) }
  match loc with
  | .nowhere => s
  | .gpr c x n =>
    let g := ((s.core c).ctx x).reg n
    if g.state == .pending && g.ticket == t
    then s.modCore c (fun k => k.modCtx x (fun y => (y.setReg n r).pushFilled n r)) else s
  | .twin col n => s.modColumn col fun k => { k with tw := putAt n ((k.twin n).deliver t r) k.tw }

/-- Fill. -/
def State.fill (s : State) (core : Nat) (t : BitVec 16) (v : TagVal) : State :=
  s.deliver core t (Reg.full v)

/-- Poison. -/
def State.poison (s : State) (core : Nat) (t : BitVec 16) (code : BitVec 8) : State :=
  s.deliver core t (Reg.poison code)

/-- The tickets of a core, where each delivers changed by a function. -/
def Core.relocate (c : Core) (f : Ticket → Loc) : Core := { c with tickets := c.tickets.map (fun k => { k with loc := f k }) }

/-- The ticket delivers to another register (R181). Whichever core took it. DESIGN CHOICE (assumption log 103): where both twins move one
PENDING register of the window away in a clk, the first in the schedule has the ticket. -/
def State.rehome (s : State) (core from_ : Nat) (t : BitVec 16) (dest : Loc) : State :=
  let src : Loc := locOf core s.cur.ctx from_
  { s with cores := s.cores.map (fun e => (e.1, e.2.relocate (fun k => if k.t == t && k.loc == src then dest else k.loc))) }

/-! ## Channels (R142, R143) -/

/-- A receive channel. -/
def Core.chan (c : Core) (n : Nat) : Chan :=
  getAt {} n c.chans

/-- Ring entries. -/
def Chan.size (h : Chan) : Nat :=
  2 ^ h.log2e.toNat

/-- The ring's first byte in local SRAM: BASE below the size alignment is zero. -/
def Chan.baseOff (h : Chan) : Nat :=
  h.base.toNat * 16 / (16 * h.size) * (16 * h.size)

/-- The local SRAM offset of an entry. -/
def Chan.entryOff (h : Chan) (i : Nat) : Nat :=
  h.baseOff + 16 * ((h.head.toNat + i) % h.size)

/-- An entry popped. -/
def Chan.popped (h : Chan) : Chan :=
  { h with count := h.count - 1, head := BitVec.ofNat 8 ((h.head.toNat + 1) % h.size) }

/-- Pops a channel of a core: its entry, untagged (R187). -/
def State.popChan (s : State) (core n : Nat) : TagVal × State :=
  let h : Chan := (s.core core).chan n
  let v : Nat := bytesNat (Memory.readN s.mem (sramPa core (h.entryOff 0)) 16)
  ({ v := BitVec.ofNat 128 v }, s.modCore core fun c => { c with chans := putAt n h.popped c.chans })

/-! ## Bound streams (R188) -/

/-- The stream bound to a register of a context. -/
def Ctx.stream? (x : Ctx) (n : Nat) : Option Stream :=
  findAt n x.streams

/-- An input stream has ended: every element has been popped. -/
def Stream.ended (t : Stream) : Bool :=
  decide (t.moved ≥ t.total) && t.buf.isEmpty

/-- The buffer is full. -/
def Stream.full (t : Stream) : Bool :=
  decide (8 ≤ t.buf.length)

/-- Pops an input stream of a context. -/
def State.popStream (s : State) (core ctx n : Nat) : TagVal × State :=
  match ((s.core core).ctx ctx).stream? n with
  | none => ({}, s)
  | some t =>
    ({ v := t.buf.headD 0 },
      s.modCore core fun c =>
        c.modCtx ctx fun x =>
          { x with streams := putAt n { t with moved := t.moved + 1, buf := t.buf.tail } x.streams })

/-! ## Outstanding accesses (R219, R224, R226) -/

/-- A context number for accesses that belong to the whole L1: a release of any context waits for them. -/
def ctxAny : Nat := 9

/-- An outstanding access is one that a scope names (Table 11-1). -/
def outInScope (sc : Scope) (hall : Nat) (o : Out) : Bool :=
  match sc with
  | .core => true
  | .sys => true
  | .hall => o.hall == some hall
  | .launch => !o.away

/-- A shadowed load or store of a context in local SRAM is in flight: every scope names it (Table 11-1). -/
def Core.localInFlight (c : Core) (ctx : Nat) : Bool :=
  c.shadows.any fun h => h.ctx == ctx && (h.store.isSome || !h.reads.isEmpty)

/-- Accesses of a context, or of its L1, below a bound that a scope names are still outstanding. -/
def Core.waiting (c : Core) (ctx hall : Nat) (sc : Scope) (bound : Nat) : Bool :=
  (c.outs.any fun o => decide (o.id < bound) && (o.ctx == ctx || o.ctx == ctxAny) && outInScope sc hall o) || c.localInFlight ctx

/-- Loads of a context below a bound that have not returned, shadowed ones in local SRAM among them: what a fence.acq waits for (R226). -/
def Core.loading (c : Core) (ctx bound : Nat) : Bool :=
  (c.outs.any fun o => o.ctx == ctx && o.load && decide (o.id < bound)) || c.shadows.any fun h => h.ctx == ctx && !h.reads.isEmpty

/-- A pending fence.rel of the current context that still holds (R226): its scope and its bound. One in step 1 holds until it has
written back. -/
def State.fenceHolds (s : State) : Option (Scope × Nat) :=
  match s.cx.relWait with
  | f :: _ => some f
  | [] => s.cx.relFence.find? (fun f => s.cc.waiting s.cur.ctx (hallOf s.cur.core) f.1 f.2)

/-! ## Meeting operands (R174, R175, R187, R188, R265) -/

/-- How an instruction meets an operand. -/
inductive Meet where
  /-- A source operand. -/
  | src (c : BitVec 6)
  /-- A destination operand. -/
  | dst (c : BitVec 6)
  deriving DecidableEq, Repr

/-- The operand code. -/
def Meet.code : Meet → BitVec 6
  | .src c => c
  | .dst c => c

/-- A source. -/
def Meet.isSrc : Meet → Bool
  | .src _ => true
  | .dst _ => false

/-- The current context's stream on an operand code. -/
def State.curStream? (s : State) (c : Nat) : Option Stream :=
  if c < 32 then s.cx.stream? c else none

/-- A shadowed result of the current context is in flight to an operand code (R175). -/
def State.inShadow (s : State) (c : BitVec 6) : Bool :=
  s.cc.shadows.any fun h => h.ctx == s.cur.ctx && h.d == c && h.store.isNone && c != 62

/-- How often an instruction reads a register operand. -/
def readsOf (ms : List Meet) (c : BitVec 6) : Nat := (ms.filter (fun m => m == Meet.src c)).length

/-- First: registers by state, in operand order: PENDING parks, POISONED traps as a source (R174); a result still in flight
holds the instruction (R175); of an input stream that holds fewer elements than the instruction reads, the end or a failed refill
traps (R188). -/
def State.meetState (s : State) (ms : List Meet) (m : Meet) : Res Unit :=
  let c := m.code
  let n := c.toNat
  if 32 ≤ n && (n < 40 || 48 ≤ n) then .ok ()
  else if s.inShadow c then .error (.park s (.shadow c))
  else
    match s.curStream? n with
    | some t =>
      if t.out && (s.regAt s.cur.core s.cur.ctx n).state == .pending then .error (.park s (.reg c))
      else if m.isSrc && !t.out && t.buf.length < readsOf ms c then
        if t.failed then .error (.trap clsPoisonUse pzEngine (BitVec.ofNat 64 n))
        else if t.total < t.moved + readsOf ms c then .error (.trap clsPoisonUse pzStreamEnd (BitVec.ofNat 64 n))
        else .ok ()
      else .ok ()
    | none =>
      let r := s.regAt s.cur.core s.cur.ctx n
      match r.state with
      | .full => .ok ()
      | .pending => .error (.park s (.reg c))
      | .poisoned => if m.isSrc then .error (.trap clsPoisonUse r.code (BitVec.ofNat 64 n)) else .ok ()

/-- Second: a disabled channel raises CHANNEL; a stream used against its binding, or pushed past its end, raises STREAM. -/
def State.meetUse (s : State) (m : Meet) : Res Unit :=
  match m with
  | Meet.src c =>
    if (decide (32 ≤ c.toNat) && decide (c.toNat < 40)) then
      trapIf (!(s.cc.chan (c.toNat - 32)).en) clsChannel (c.toNat - 32)
    else
      match s.curStream? c.toNat with
      | some t => trapIf t.out clsStream c.toNat
      | none => .ok ()
  | Meet.dst c =>
    match s.curStream? c.toNat with
    | some t => trapIf (!t.out || decide (t.moved ≥ t.total)) clsStream c.toNat
    | none => .ok ()

/-- The channels an instruction pops, each with how many entries. -/
def popCounts (ms : List Meet) : List (Nat × Nat) :=
  let n : Nat → Nat := fun k => (List.filter (fun m => m == Meet.src (BitVec.ofNat 6 (32 + k))) ms).length
  List.filter (fun e => e.snd != 0) (List.map (fun k => (k, n k)) (span 0 8))

/-- A bound stream that the instruction must wait for: an input with fewer elements than it reads, an output with no free place. -/
def State.streamWaits (s : State) (ms : List Meet) (m : Meet) : Bool :=
  match s.curStream? m.code.toNat with
  | none => false
  | some t => if m.isSrc then !t.out && t.buf.length < readsOf ms m.code else t.out && t.full

/-- Third: a channel must hold every entry popped, an input stream an element, an output stream a free place (R187, R188); a
twin-window write waits for the accesses that a pending fence.rel names (R226). -/
def State.meetWait (s : State) (ms : List Meet) : Res Unit :=
  let need := popCounts ms
  if need.any (fun e => (s.cc.chan e.1).count.toNat < e.2) then .error (.park s (.chans need))
  else
    match ms.find? (s.streamWaits ms) with
    | some m => .error (.park s (.stream m.code.toNat))
    | none =>
      if ms.any (fun m => !m.isSrc && 40 ≤ m.code.toNat && m.code.toNat < 48) then
        match s.fenceHolds with
        | some (sc, b) => .error (.park s (.acks sc b))
        | none => .ok ()
      else .ok ()

/-- Each in order, the first that fails ends. -/
def checkAll (f : Meet → Res Unit) (ms : List Meet) : Res Unit :=
  match ms with
  | [] => .ok ()
  | m :: r => do
    f m
    checkAll f r

/-- Meets every operand of an instruction (R174, R265). -/
def State.meet (s : State) (ms : List Meet) : Res Unit :=
  do
    checkAll (s.meetState ms) ms
    checkAll s.meetUse ms
    s.meetWait ms

/-- An operand code names a register that is POISONED. -/
def State.poisonedAt (s : State) (c : BitVec 6) : Bool :=
  let n := c.toNat
  (n < 32 || (40 ≤ n && n < 48)) && (s.curStream? n).isNone && !s.inShadow c
    && (s.regAt s.cur.core s.cur.ctx n).state == .poisoned

/-- Meets the operands of wpend and wany, which trap on no POISONED register (Table 9-3, R398). -/
def State.meetMask (s : State) (ms : List Meet) : Res Unit :=
  s.meet (ms.filter (fun m => !(m.isSrc && s.poisonedAt m.code)))

/-- The value of a register operand code, popped where it is a channel or an input stream; z reads zero. -/
def State.takeCode (s : State) (c : BitVec 6) : TagVal × State :=
  let n : Nat := c.toNat
  if (decide (n < 32) && (s.curStream? n).isSome) then s.popStream s.cur.core s.cur.ctx n
  else
    if (decide (32 ≤ n) && decide (n < 40)) then s.popChan s.cur.core (n - 32)
    else
      if n < 48 then
        ((s.regAt s.cur.core s.cur.ctx n).read, s)
      else ({}, s)

/-- Writes an instruction's result: into the register, FULL, or onto a bound output stream; z discards (R174, R188, R312). -/
def State.writeD (s : State) (d : BitVec 6) (v : TagVal) : State :=
  match s.curStream? d.toNat with
  | some t =>
    s.modCx fun x =>
      { x with streams := putAt d.toNat { t with moved := t.moved + 1, buf := t.buf ++ [v.v] } x.streams }
  | none => s.setRegAt s.cur.core s.cur.ctx d.toNat (Reg.full v)

/-! ## Going on (R268, R341) -/

/-- The loop check at an instruction that does not transfer control (R341): where control goes, and the loops left. -/
def loopNext (loops : List Loop) (pc npc : VAddr) : VAddr × List Loop :=
  match loops with
  | [] => (npc, [])
  | e :: r =>
    if e.last = pc then
      if e.count - 1 = 0 then loopNext r pc npc else (e.first, { e with count := e.count - 1 } :: r)
    else (npc, e :: r)

/-- The shadows of a context after an instruction issues: one more has issued, and it has completed unless it is shadowed
itself (R268). -/
def countIssue (ctx : Nat) (completed : Bool) (h : Shadow) : Shadow :=
  if h.ctx = ctx then
    let n : Nat := h.since + 1
    { h with
      window :=
        if (completed && decide (n ≤ h.look)) then h.window ||| BitVec.ofNat 15 (2 ^ (n - 1)) else h.window,
      since := n }
  else h

/-- A shadowed instruction has completed: its bit is set in the windows of the older ones that it stands in (R268), once the last part
of it has landed. -/
def Core.markLanded (c : Core) (k : Shadow) : Core :=
  if c.shadows.any (fun h => h.ctx == k.ctx && h.since == k.since && h.pc == k.pc) then c
  else
    { c with shadows := c.shadows.map (fun h =>
        if h.ctx = k.ctx && k.since < h.since && h.since - k.since ≤ h.look
        then { h with window := h.window ||| BitVec.ofNat 15 (2 ^ (h.since - k.since - 1)) } else h) }

/-- Sends the current context to an address; the instruction has issued and completed. -/
def State.goto (s : State) (target : VAddr) : State :=
  s.modCc fun c =>
    let c : Core := { c with shadows := List.map (countIssue s.cur.ctx true) c.shadows }
    c.modCtx s.cur.ctx fun x => { x with pc := target, npc := target, park := none, badWalk := none }

/-- The current context goes on after its instruction, `completed` unless it is shadowed. -/
def State.advanceWith (s : State) (completed : Bool) : State :=
  s.modCc fun c =>
    let c : Core := { c with shadows := List.map (countIssue s.cur.ctx completed) c.shadows }
    c.modCtx s.cur.ctx fun x =>
      match loopNext x.loops x.pc x.npc with
      | (p, ls) => { x with pc := p, npc := p, park := none, loops := ls, badWalk := none }

/-- The current context goes on after its instruction. -/
def State.advance (s : State) : State :=
  s.advanceWith true

/-- Issues a shadowed result of the current context: it lands `latency` of the core's clk later (R175). -/
def State.issueShadow (s : State) (latency : Nat) (look : BitVec 4) (h : Shadow) : State :=
  let pc : VAddr := s.cx.pc
  let t : State := s.advanceWith false
  t.modCc fun c =>
    { c with
      shadows :=
        c.shadows ++
          [{ h with ctx := s.cur.ctx, ready := s.clk + s.delay s.cur.core latency, pc := pc, look := look.toNat }] }

/-- A result FULL after a latency. -/
def State.shadowD (s : State) (latency : Nat) (a : Args) (v : TagVal) : State :=
  s.issueShadow latency a.look { ctx := s.cur.ctx, d := a.d, val := v, ready := 0, pc := 0, look := 0 }

/-! ## Records and vectors (R62–R66) -/

/-- A record waits for the ring. -/
def State.record (s : State) (r : CRec) : State :=
  { s with records := s.records ++ [r] }

/-- An MSI-X vector is signalled. -/
def State.vector (s : State) (v : Nat) : State :=
  { s with msix := v :: s.msix }

/-- A fresh 64-bit draw (assumption log 2). -/
def State.draw (s : State) : BitVec 64 × State :=
  (Config.draw64 s.free, { s with free := s.free + 1 })

/-- The outcome of an event that changes the state. -/
def happens (s : State) : Host.Outcome State Fault Refusal :=
  Host.Outcome.next s

end Sys2Proof.Machine
end

