-- ==== Sys2Proof/Machine/Shapes.lean ====
section
/-! DEFINITION. The shape of every opcode slot (Tables 15-7, 16-1 to 16-3, 17-2, 17-3, 18-1, 18-2, 19-1, 19-2, 20-1, 20-2):
which operands it uses and where, the types, operand codes, immediates and modifiers it accepts, and the scanner's checks of
one instruction (Table 15-4). WellFormed and Decode are written over these tables. -/

namespace Sys2Proof

/-! ## Element types (Table 14-3, R238, R311, R348) -/

/-- Type codes of Table 14-3. -/
def Ty.code : Ty → BitVec 4
  | .x => 0 | .s64 => 1 | .n64 => 2 | .s32 => 3 | .n32 => 4 | .s16 => 5 | .n16 => 6 | .s8 => 7 | .n8 => 8
  | .f32 => 9 | .bf16 => 10 | .f16 => 11 | .f8 => 12 | .f4 => 13 | .c => 14 | .b => 15

/-- The type of a code of Table 14-3. -/
def Ty.ofCode (c : BitVec 4) : Ty :=
  match c.toNat with
  | 0 => .x | 1 => .s64 | 2 => .n64 | 3 => .s32 | 4 => .n32 | 5 => .s16 | 6 => .n16 | 7 => .s8 | 8 => .n8
  | 9 => .f32 | 10 => .bf16 | 11 => .f16 | 12 => .f8 | 13 => .f4 | 14 => .c | _ => .b

/-- The lane width in bits (R238; .x is one 64-bit lane, R311). -/
def Ty.bits : Ty → Nat
  | .x | .s64 | .n64 => 64
  | .s32 | .n32 | .f32 => 32
  | .s16 | .n16 | .bf16 | .f16 => 16
  | .s8 | .n8 | .f8 => 8
  | .f4 => 4
  | .c | .b => 128

/-- The lane count (R238, R311). -/
def Ty.lanes (t : Ty) : Nat := if t = .x then 1 else 128 / t.bits

/-- Signed lanes (R311: .x reads signed, the s types are signed). -/
def Ty.signed : Ty → Bool
  | .x | .s64 | .s32 | .s16 | .s8 => true
  | _ => false

/-- Group N of Table 17-1: the float types. -/
def Ty.isFloat : Ty → Bool
  | .f32 | .bf16 | .f16 | .f8 | .f4 => true
  | _ => false

/-- A literal of this type is 64 bits (R298). -/
def Ty.wideLit : Ty → Bool
  | .x | .s64 | .n64 => true
  | _ => false

/-- The nine integer types (R311). -/
def tyInt : List Ty := [.x, .s64, .n64, .s32, .n32, .s16, .n16, .s8, .n8]
/-- The integer types and .b. -/
def tyIntB : List Ty := tyInt ++ [.b]
/-- Groups of Table 17-1. -/
def tyF : List Ty := [.f32, .bf16, .f16]
/-- Group N. -/
def tyN : List Ty := [.f32, .bf16, .f16, .f8, .f4]
/-- Group M8. -/
def tyM8 : List Ty := [.f32, .bf16, .f16, .f8, .s64, .n64, .s32, .n32, .s16, .n16, .s8, .n8]
/-- Group M. -/
def tyM : List Ty := .f4 :: tyM8
/-- Every type but .c (R320). -/
def tyLi : List Ty := [.x, .s64, .n64, .s32, .n32, .s16, .n16, .s8, .n8, .f32, .bf16, .f16, .f8, .f4, .b]
/-- ld and st. -/
def tyMem : List Ty := tyInt ++ [.c, .b]
/-- ldg and stg. -/
def tyGather : List Ty := [.s64, .n64, .s32, .n32, .f32]
/-- The integer atomics of Table 18-5. -/
def tyAmo : List Ty := [.x, .s64, .n64, .s32, .n32]

/-- The default type of a page (Table 15-5). -/
def pageDefault (page : Nat) : Ty :=
  match page with
  | 2 | 3 => .f32
  | 6 | 7 => .b
  | _ => .x

/-! ## Operand codes (R295, R314, R349, R372, R404, R427, R430) -/

/-- The codes an operand position accepts. -/
inductive Codes where
  /-- the position is unused: code 0 -/
  | none
  /-- a destination: 0–31, 40–47, 62 -/
  | dst
  /-- a register source: 0–47, 62 -/
  | src
  /-- a register source, or 63 with a literal under XR -/
  | lit
  /-- an address or capability: 0–31, 40–47 -/
  | addr
  /-- an address, or z for the whole L1 -/
  | addrZ
  /-- a stream register: 28–31 -/
  | stream
  /-- a first payload register: 0–31, 40–47 -/
  | pay
  /-- the first of three: 0–29, 40–45 -/
  | first3
  /-- a literal alone (li under XR without XI) -/
  | only
  deriving DecidableEq, Repr

/-- Whether a register code is in a class. -/
def Codes.ok (k : Codes) (c : Nat) : Bool :=
  match k with
  | .none => c == 0
  | .dst => c < 32 || (40 ≤ c && c < 48) || c == 62
  | .src | .lit => c < 48 || c == 62
  | .addr | .pay => c < 32 || (40 ≤ c && c < 48)
  | .addrZ => c < 32 || (40 ≤ c && c < 48) || c == 62
  | .stream => 28 ≤ c && c < 32
  | .first3 => c < 30 || (40 ≤ c && c < 46)
  | .only => false

/-- Whether a class takes a literal under XR. -/
def Codes.takesLit (k : Codes) : Bool :=
  match k with
  | .lit | .only => true
  | _ => false

/-! ## Shapes -/

/-- Which operands stand in A, B and, under XR, C (Table 15-3, R283, R314): `d` is dest, `s` a source, `i` a B-immediate;
`sss` has three operands without a destination, `br` two sources and a displacement in XI. -/
inductive Form where
  | n | d | s | i | di | si | ds | dss | ss | sss | br
  deriving DecidableEq, Repr

/-- What Table 15-4 needs to know of a slot. -/
structure Shape where
  form : Form
  types : List Ty
  dc : Codes := .none
  c1 : Codes := .none
  c2 : Codes := .none
  /-- XR required -/
  xrReq : Bool := false
  /-- the last source may be an immediate built from XI (R297) -/
  xi : Bool := false
  /-- XI required (blt, bge) -/
  xiReq : Bool := false
  /-- the B-immediate is a count (R313) -/
  count : Bool := false
  /-- shadowed: may carry L > 0 (Table 15-6) -/
  shadow : Bool := false
  deriving DecidableEq, Repr

/-- Two sources and a destination, the last a value source (R316). -/
def shInt (t : List Ty) : Shape :=
  { form := .dss, types := t, dc := .dst, c1 := .lit, c2 := .lit, xi := true }
/-- One source, a literal allowed under XR (R314). -/
def shOne (t : List Ty) : Shape := { form := .ds, types := t, dc := .dst, c1 := .lit }
/-- Page 2 and 3 rows with the Immediate column yes (R349). -/
def shVec (t : List Ty) : Shape :=
  { form := .dss, types := t, dc := .dst, c1 := .src, c2 := .lit, xi := true }
/-- Page 2 and 3 rows of two register sources. -/
def shVecR (t : List Ty) : Shape := { form := .dss, types := t, dc := .dst, c1 := .src, c2 := .src }
/-- One register source and a destination. -/
def shDs (t : List Ty) : Shape := { form := .ds, types := t, dc := .dst, c1 := .src }
/-- One register source and no destination. -/
def shS (t : List Ty) (k : Codes) : Shape := { form := .s, types := t, c1 := k }
/-- The atomics (Table 18-2). -/
def shAmo (t : List Ty) : Shape :=
  { form := .dss, types := t, dc := .dst, c1 := .addr, c2 := .lit, xi := true, xrReq := true }
/-- Three register operands under XR (Tables 19-1, 19-2). -/
def shXr (k1 k2 : Codes) : Shape := { form := .dss, types := [.b], dc := .dst, c1 := k1, c2 := k2, xrReq := true }

/-- The slots of page 0 (Table 15-7). -/
def shapes0 (op : Nat) : Option Shape :=
  match op with
  | 0 => some { form := .n, types := [.x] }
  | 1 => some (shDs [.x])
  | 2 => some (shOne [.x])
  | 3 => some { form := .di, types := tyLi, dc := .dst, c1 := .only }
  | 4 => some (shInt tyInt)
  | 5 => some (shInt tyInt)
  | 6 => some (shInt tyIntB)
  | 7 => some (shInt tyIntB)
  | 8 => some (shInt tyIntB)
  | 9 => some (shInt tyIntB)
  | 10 => some (shInt tyInt)
  | 11 => some (shInt tyInt)
  | 12 => some (shInt tyInt)
  | 13 => some (shInt tyInt)
  | 14 => some (shInt tyInt)
  | 15 => some (shInt tyInt)
  | 16 => some (shInt tyInt)
  | 17 => some (shInt tyInt)
  | 18 => some (shInt tyInt)
  | 19 => some (shInt tyInt)
  | 20 => some (shInt [.x, .b])
  | 21 => some (shOne tyInt)
  | 22 => some (shOne tyIntB)
  | 23 => some (shInt [.x, .b])
  | 24 => some { shInt [.x, .b] with xrReq := true }
  | 25 => some (shInt [.x])
  | 26 => some { form := .i, types := [.x] }
  | 27 => some { form := .si, types := [.x], c1 := .lit }
  | 28 => some { form := .si, types := [.x], c1 := .lit }
  | 29 => some { form := .br, types := [.x, .s64, .n64], c1 := .lit, c2 := .lit, xrReq := true, xi := true, xiReq := true }
  | 30 => some { form := .br, types := [.x, .s64, .n64], c1 := .lit, c2 := .lit, xrReq := true, xi := true, xiReq := true }
  | 31 => some { form := .di, types := [.x], dc := .dst }
  | 32 => some { form := .ds, types := [.x], dc := .dst, c1 := .addr }
  | 33 => some (shS [.x] .addr)
  | 34 => some { form := .si, types := [.x], c1 := .lit }
  | 35 => some { form := .n, types := [.x] }
  | 36 => some { form := .di, types := [.x], dc := .dst, count := true }
  | 37 => some { form := .si, types := [.x], c1 := .lit, count := true }
  | 38 => some { form := .n, types := [.x] }
  | _ => none

/-- The slots of page 1 (Table 15-7). -/
def shapes1 (op : Nat) : Option Shape :=
  match op with
  | 0 => some { shInt tyInt with shadow := true }
  | 1 => some { shInt tyInt with shadow := true }
  | 2 => some { shInt tyInt with shadow := true }
  | 3 => some (shInt tyIntB)
  | 4 => some (shInt [.x])
  | 5 => some (shInt [.x])
  | 6 => some (shInt [.x])
  | 7 => some (shInt [.x])
  | 8 => some (shInt [.x])
  | 9 => some (shOne [.x])
  | 10 => some { form := .di, types := [.x], dc := .dst, count := true }
  | _ => none

/-- The slots of page 2 (Table 15-7). -/
def shapes2 (op : Nat) : Option Shape :=
  match op with
  | 0 => some (shVec tyN)
  | 1 => some (shVec tyN)
  | 2 => some (shVec tyN)
  | 3 => some { shVec tyN with xrReq := true }
  | 4 => some { shVec tyN with xrReq := true }
  | 5 => some (shVec tyN)
  | 6 => some (shVec tyN)
  | 7 => some (shDs tyN)
  | 8 => some (shDs tyN)
  | 9 => some (shVec tyN)
  | 10 => some (shVecR tyM)
  | 11 => some { shDs tyF with shadow := true }
  | 12 => some { shDs tyF with shadow := true }
  | 13 => some { shDs tyF with shadow := true }
  | 14 => some { shDs tyF with shadow := true }
  | 15 => some { shVecR tyN with xrReq := true, shadow := true }
  | 16 => some { shDs tyF with shadow := true }
  | 17 => some (shVecR tyN)
  | 18 => some (shVecR tyM8)
  | 19 => some (shDs tyM)
  | 20 => some (shDs tyM)
  | 21 => some (shDs tyM)
  | 22 => some { shVec tyF with shadow := true }
  | 23 => some { shDs tyF with shadow := true }
  | _ => none

/-- The slots of page 3 (Table 15-7). -/
def shapes3 (op : Nat) : Option Shape :=
  match op with
  | 0 => some (shDs tyM)
  | 1 => some (shVecR tyM)
  | 2 => some (shDs tyM)
  | 3 => some (shVec tyN)
  | 4 => some (shDs [.bf16, .f16, .f8, .f4])
  | 5 => some (shDs tyN)
  | _ => none

/-- The slots of page 4 (Table 15-7). -/
def shapes4 (op : Nat) : Option Shape :=
  match op with
  | 0 => some { form := .ds, types := tyMem, dc := .dst, c1 := .addr, shadow := true }
  | 1 => some { form := .ss, types := tyMem, c1 := .addr, c2 := .lit, xi := true, shadow := true }
  | 2 => some { form := .dss, types := tyN, dc := .dst, c1 := .addr, c2 := .lit, xi := true, xrReq := true, shadow := true }
  | 3 => some { form := .sss, types := tyN, dc := .addr, c1 := .lit, c2 := .src, xrReq := true }
  | 4 => some { form := .dss, types := tyGather, dc := .dst, c1 := .addr, c2 := .src, xrReq := true, shadow := true }
  | 5 => some { form := .sss, types := tyGather, dc := .addr, c1 := .lit, c2 := .src, xrReq := true, shadow := true }
  | 6 => some (shS [.x] .addr)
  | 7 => some (shS [.x] .addrZ)
  | 8 => some (shS [.x] .addrZ)
  | 9 => some { form := .i, types := [.x], count := true }
  | _ => none

/-- The slots of page 5 (Table 15-7). -/
def shapes5 (op : Nat) : Option Shape :=
  match op with
  | 0 => some (shAmo tyAmo)
  | 1 => some (shAmo tyAmo)
  | 2 => some (shAmo tyAmo)
  | 3 => some (shAmo tyAmo)
  | 4 => some (shAmo tyAmo)
  | 5 => some (shAmo tyAmo)
  | 6 => some (shAmo (tyAmo ++ [.b]))
  | 7 => some (shAmo (tyAmo ++ [.b]))
  | 8 => some (shAmo [.f32])
  | 9 => some { form := .n, types := [.x] }
  | 10 => some { form := .ss, types := [.x], c1 := .src, c2 := .lit, xi := true }
  | 11 => some { form := .dss, types := [.x], dc := .dst, c1 := .src, c2 := .lit, xi := true, xrReq := true }
  | 12 => some (shS [.x] .src)
  | 13 => some (shS [.x] .src)
  | 14 => some (shS [.x] .src)
  | 15 => some (shS [.x] .addr)
  | 16 => some (shS [.x] .lit)
  | 17 => some (shOne [.x])
  | 18 => some (shDs [.x])
  | 19 => some (shS [.x] .src)
  | 20 => some (shS [.x] .src)
  | _ => none

/-- The slots of page 6 (Table 15-7). -/
def shapes6 (op : Nat) : Option Shape :=
  match op with
  | 0 => some (shXr .addr .addr)
  | 1 => some { form := .ds, types := [.b], dc := .stream, c1 := .addr }
  | 2 => some { form := .ds, types := [.b], dc := .dst, c1 := .stream }
  | 3 => some (shS [.b] .src)
  | 4 => some { form := .ds, types := [.b], dc := .dst, c1 := .addr }
  | 5 => some (shXr .addr .addr)
  | 6 => some (shXr .addr .addr)
  | 7 => some { form := .d, types := [.b], dc := .dst }
  | 8 => some { shXr .addr .lit with xi := true }
  | _ => none

/-- The slots of page 7 (Table 15-7). -/
def shapes7 (op : Nat) : Option Shape :=
  match op with
  | 0 => some (shXr .addr .src)
  | 1 => some (shXr .addr .src)
  | 2 => some (shDs [.b])
  | 3 => some { form := .ss, types := [.b], c1 := .src, c2 := .pay }
  | 4 => some { form := .ss, types := [.b], c1 := .src, c2 := .pay }
  | 5 => some { form := .ss, types := [.b], c1 := .src, c2 := .pay }
  | 6 => some { form := .ss, types := [.b], c1 := .src, c2 := .first3 }
  | 7 => some (shDs [.b])
  | 8 => some (shDs [.b])
  | 9 => some (shDs [.b])
  | 10 => some { form := .ss, types := [.b], c1 := .src, c2 := .first3 }
  | _ => none

/-- The slots of page 8 (Table 15-7). -/
def shapes8 (op : Nat) : Option Shape :=
  match op with
  | 0 => some (shS [.x] .src)
  | 1 => some (shS [.x] .src)
  | 2 => some (shDs [.x])
  | 3 => some (shS [.x] .addr)
  | 4 => some (shS [.x] .addr)
  | 5 => some (shS [.x] .src)
  | 6 => some { form := .ss, types := [.x], c1 := .src, c2 := .src }
  | 7 => some (shDs [.x])
  | _ => none

/-- The shape of a slot; none where Table 15-7 marks it reserved. -/
def shapeOf (page op : Nat) : Option Shape :=
  match page with
  | 0 => shapes0 op
  | 1 => shapes1 op
  | 2 => shapes2 op
  | 3 => shapes3 op
  | 4 => shapes4 op
  | 5 => shapes5 op
  | 6 => shapes6 op
  | 7 => shapes7 op
  | 8 => shapes8 op
  | _ => none

/-! ## Modifier fields (Tables 17-5, 18-3, 19-3, 20-3) -/

/-- A flag at a bit of a field. -/
def bitOf {w : Nat} (b : Bool) (k : Nat) : BitVec w := if b then BitVec.ofNat w (2 ^ k) else 0

/-- The .sc field, f xor 2 of Table 11-1, in M0[3:2] (R373). -/
def scBits : Scope → BitVec 4
  | .launch => 0x0 | .sys => 0x4 | .core => 0x8 | .hall => 0xC

/-- The scope of M0[3:2]. -/
def scOf (m0 : BitVec 4) : Scope :=
  match (m0 >>> 2).toNat with
  | 0 => .launch | 1 => .sys | 2 => .core | _ => .hall

/-- The .ord field of ld, st, stf and the atomics in M0[1:0]. -/
def ordBits : Ord → BitVec 4
  | .plain => 0 | .acq => 1 | .rel => 2 | .ar => 3

/-- The order of M0[1:0]. -/
def ordOf (m0 : BitVec 4) : Ord :=
  match m0.toNat % 4 with
  | 0 => .plain | 1 => .acq | 2 => .rel | _ => .ar

/-- The .ord field of fence. -/
def fenceBits : FenceKind → BitVec 4
  | .full => 0 | .acq => 1 | .rel => 2

/-- The fence of M0[1:0]; 3 has no meaning and encodes back as 2. -/
def fenceOf (m0 : BitVec 4) : FenceKind :=
  match m0.toNat % 4 with
  | 0 => .full | 1 => .acq | _ => .rel

/-- The .cc field in M0[2:0]. -/
def vcondBits : VCond → BitVec 4
  | .eq => 0 | .ne => 1 | .lt => 2 | .le => 3 | .gt => 4 | .ge => 5 | .un => 6 | .ord => 7

/-- The condition of M0[2:0]. -/
def vcondOf (m0 : BitVec 4) : VCond :=
  match m0.toNat % 8 with
  | 0 => .eq | 1 => .ne | 2 => .lt | 3 => .le | 4 => .gt | 5 => .ge | 6 => .un | _ => .ord

/-- The .op field of vred in M0[1:0]. -/
def redBits : RedOp → BitVec 4
  | .add => 0 | .max => 1 | .min => 2 | .amax => 3

/-- The reduction of M0[1:0]. -/
def redOf (m0 : BitVec 4) : RedOp :=
  match m0.toNat % 4 with
  | 0 => .add | 1 => .max | 2 => .min | _ => .amax

/-- The .span field of tlbi in M0[1:0]. -/
def spanBits : Span → BitVec 4
  | .page => 0 | .launch => 1 | .hall => 2

/-- The span of M0[1:0]; 3 has no meaning and encodes back as 2. -/
def spanOf (m0 : BitVec 4) : Span :=
  match m0.toNat % 4 with
  | 0 => .page | 1 => .launch | _ => .hall

/-- The .done field in M1[11:5]: enable in [11], index in [10:5]. -/
def doneBits : Option (BitVec 6) → BitVec 12
  | none => 0
  | some k => 0x800 ||| (k.setWidth 12 <<< 5)

/-- The counter of M1[11:5]. -/
def doneOf (m1 : BitVec 12) : Option (BitVec 6) :=
  if m1.getLsbD 11 then some (m1.extractLsb' 5 6) else none

/-- Where an instruction's words place it: page, op, modifier fields and operands. -/
structure Slot where
  page : Nat
  op : Nat
  m0 : BitVec 4 := 0
  m1 : BitVec 12 := 0
  args : Args
  deriving DecidableEq, Repr

/-- The slot of an instruction; none for a row without an encoding. -/
def Instr.slot : Instr → Option Slot
  | .powerUp => none
  | .i3cReset => none
  | .powerLoss => none
  | .report => none
  | .turnover => none
  | .loadImage _ => none
  | .badOp _ _ => none
  | .turnoverRecordBudgetExpiry => none
  | .w2Read _ _ => none
  | .w2Write _ _ => none
  | .w2CtlWrite _ => none
  | .registerWrite _ _ _ => none
  | .timeCorrection _ => none
  | .peerPortDown _ => none
  | .droopAlarm _ => none
  | .throttleEnd _ => none
  | .governorGate _ _ => none
  | .thermalTrip _ => none
  | .doorbell _ _ => none
  | .queueFlush _ => none
  | .headLatch _ => none
  | .launchStart => none
  | .staggerStep _ => none
  | .ttArm _ _ => none
  | .ttFiring _ => none
  | .ttDeferredCandidate _ => none
  | .completionRecordWrite => none
  | .preempt _ => none
  | .quiescenceSave _ => none
  | .launchEnd _ => none
  | .debugHalt _ _ _ => none
  | .debugResume _ _ _ => none
  | .debugTeardown _ _ _ => none
  | .dbgRead _ _ _ => none
  | .dbgWrite _ _ _ => none
  | .dbgCancel _ _ _ => none
  | .breakpointHalt _ _ => none
  | .taskAdmission _ => none
  | .taskLimitExpiry _ _ => none
  | .handlerLimitExpiry _ => none
  | .stealRequest _ => none
  | .stealAnswer _ => none
  | .stealBackoffExpiry _ => none
  | .donationPeriod _ _ => none
  | .spillRefill _ => none
  | .counterDecrement _ => none
  | .shadowResultLand _ _ => none
  | .futureFill _ => none
  | .homeAccess _ => none
  | .landingAccess _ => none
  | .edgeAccess _ => none
  | .accessAck _ => none
  | .l1Fill _ => none
  | .pageWalk _ _ => none
  | .codeScan _ _ => none
  | .routerForward _ => none
  | .activeMessageAccept _ => none
  | .channelMessageAccept _ => none
  | .peerMessageRefusal _ => none
  | .censusEpoch _ _ => none
  | .noticeAccept _ => none
  | .leaseRecord _ => none
  | .leaseExpiry _ _ => none
  | .roleQuery _ => none
  | .recastGraceEnd _ => none
  | .recastMove _ => none
  | .recastRemap _ => none
  | .roleMapInvalidation _ => none
  | .stubForward _ => none
  | .markerReturn _ => none
  | .stubClose _ => none
  | .nameRouteDecide _ => none
  | .barrierArrivalAtHall _ => none
  | .barrierCombinePeriod _ _ => none
  | .bcfgNotice _ => none
  | .barrierArrival _ => none
  | .barrierWaitRequest _ => none
  | .barrierWaitAnswer _ => none
  | .barrierWaitRetry _ _ => none
  | .eventArrival _ => none
  | .wfeTimeout _ _ => none
  | .idleTimeout _ _ => none
  | .interestAtRouter _ => none
  | .interestAtRendezvous _ => none
  | .offerTrainAtRouter _ => none
  | .offerAtRendezvous _ => none
  | .sealAtRendezvous _ => none
  | .dataTrainAtRouter _ => none
  | .namedAnswerAtConsumer _ => none
  | .namedAnswerToProducer _ => none
  | .interestRetry _ _ => none
  | .wantExpiry _ _ => none
  | .pitEntryExpiry _ _ => none
  | .storedTileExpiry _ _ => none
  | .cachedTileExpiry _ _ => none
  | .matrixCommandStart _ => none
  | .matrixCommandComplete _ => none
  | .mrmtFetchComplete _ => none
  | .licenceHandoverEnd _ => none
  | .licenceWaitExpiry _ => none
  | .copyPiece _ _ => none
  | .streamRefill _ _ _ => none
  | .serviceRequest _ => none
  | .nop a => some ⟨0, 0, 0, 0, a⟩
  | .mov a => some ⟨0, 1, 0, 0, a⟩
  | .fmov a => some ⟨0, 2, 0, 0, a⟩
  | .li a => some ⟨0, 3, 0, 0, a⟩
  | .add a => some ⟨0, 4, 0, 0, a⟩
  | .sub a => some ⟨0, 5, 0, 0, a⟩
  | .and a => some ⟨0, 6, 0, 0, a⟩
  | .or a => some ⟨0, 7, 0, 0, a⟩
  | .xor a => some ⟨0, 8, 0, 0, a⟩
  | .andn a => some ⟨0, 9, 0, 0, a⟩
  | .shl a => some ⟨0, 10, 0, 0, a⟩
  | .shr a => some ⟨0, 11, 0, 0, a⟩
  | .sar a => some ⟨0, 12, 0, 0, a⟩
  | .mul a => some ⟨0, 13, 0, 0, a⟩
  | .min a => some ⟨0, 14, 0, 0, a⟩
  | .max a => some ⟨0, 15, 0, 0, a⟩
  | .seq a => some ⟨0, 16, 0, 0, a⟩
  | .sne a => some ⟨0, 17, 0, 0, a⟩
  | .slt a => some ⟨0, 18, 0, 0, a⟩
  | .sle a => some ⟨0, 19, 0, 0, a⟩
  | .sel a => some ⟨0, 20, 0, 0, a⟩
  | .clz a => some ⟨0, 21, 0, 0, a⟩
  | .popc a => some ⟨0, 22, 0, 0, a⟩
  | .bext a => some ⟨0, 23, 0, 0, a⟩
  | .bins a => some ⟨0, 24, 0, 0, a⟩
  | .cadd a => some ⟨0, 25, 0, 0, a⟩
  | .b a => some ⟨0, 26, 0, 0, a⟩
  | .bz a => some ⟨0, 27, 0, 0, a⟩
  | .bnz a => some ⟨0, 28, 0, 0, a⟩
  | .blt a => some ⟨0, 29, 0, 0, a⟩
  | .bge a => some ⟨0, 30, 0, 0, a⟩
  | .call a => some ⟨0, 31, 0, 0, a⟩
  | .callr a => some ⟨0, 32, 0, 0, a⟩
  | .jr a => some ⟨0, 33, 0, 0, a⟩
  | .loopN a => some ⟨0, 34, 0, 0, a⟩
  | .endTask a => some ⟨0, 35, 0, 0, a⟩
  | .sget a => some ⟨0, 36, 0, 0, a⟩
  | .sset a => some ⟨0, 37, 0, 0, a⟩
  | .brk a => some ⟨0, 38, 0, 0, a⟩
  | .div a => some ⟨1, 0, 0, 0, a⟩
  | .rem a => some ⟨1, 1, 0, 0, a⟩
  | .mulh a => some ⟨1, 2, 0, 0, a⟩
  | .rot a => some ⟨1, 3, 0, 0, a⟩
  | .cbnd a => some ⟨1, 4, 0, 0, a⟩
  | .cprm a => some ⟨1, 5, 0, 0, a⟩
  | .cfmt a => some ⟨1, 6, 0, 0, a⟩
  | .cget a => some ⟨1, 7, 0, 0, a⟩
  | .ctest a => some ⟨1, 8, 0, 0, a⟩
  | .cclr a => some ⟨1, 9, 0, 0, a⟩
  | .topo a => some ⟨1, 10, 0, 0, a⟩
  | .vadd a => some ⟨2, 0, 0, 0, a⟩
  | .vsub a => some ⟨2, 1, 0, 0, a⟩
  | .vmul a => some ⟨2, 2, 0, 0, a⟩
  | .vfma a => some ⟨2, 3, 0, 0, a⟩
  | .vfms a => some ⟨2, 4, 0, 0, a⟩
  | .vmin a => some ⟨2, 5, 0, 0, a⟩
  | .vmax a => some ⟨2, 6, 0, 0, a⟩
  | .vabs a => some ⟨2, 7, 0, 0, a⟩
  | .vneg a => some ⟨2, 8, 0, 0, a⟩
  | .vcmp cc a => some ⟨2, 9, vcondBits cc, 0, a⟩
  | .vsel a => some ⟨2, 10, 0, 0, a⟩
  | .vrcp a => some ⟨2, 11, 0, 0, a⟩
  | .vrsq a => some ⟨2, 12, 0, 0, a⟩
  | .vexp2 a => some ⟨2, 13, 0, 0, a⟩
  | .vlog2 a => some ⟨2, 14, 0, 0, a⟩
  | .vdot a => some ⟨2, 15, 0, 0, a⟩
  | .vred op a => some ⟨2, 16, redBits op, 0, a⟩
  | .vamax a => some ⟨2, 17, 0, 0, a⟩
  | .vshuf a => some ⟨2, 18, 0, 0, a⟩
  | .vbcast i a => some ⟨2, 19, 0, i.setWidth 12, a⟩
  | .vins i a => some ⟨2, 20, 0, i.setWidth 12, a⟩
  | .vext i a => some ⟨2, 21, 0, i.setWidth 12, a⟩
  | .vdiv a => some ⟨2, 22, 0, 0, a⟩
  | .vsqrt a => some ⟨2, 23, 0, 0, a⟩
  | .vcvt src part a => some ⟨3, 0, part.setWidth 4, src.code.setWidth 12, a⟩
  | .vpack src a => some ⟨3, 1, 0, src.code.setWidth 12, a⟩
  | .vunpk src hi a => some ⟨3, 2, bitOf hi 0, src.code.setWidth 12, a⟩
  | .vscl inv a => some ⟨3, 3, bitOf inv 0, 0, a⟩
  | .vqnt a => some ⟨3, 4, 0, 0, a⟩
  | .fclass a => some ⟨3, 5, 0, 0, a⟩
  | .ld o sc a => some ⟨4, 0, ordBits o ||| scBits sc, 0, a⟩
  | .st o sc a => some ⟨4, 1, ordBits o ||| scBits sc, 0, a⟩
  | .ldf cnt a => some ⟨4, 2, 0, cnt.setWidth 12, a⟩
  | .stf o sc cnt a => some ⟨4, 3, ordBits o ||| scBits sc, cnt.setWidth 12, a⟩
  | .ldg a => some ⟨4, 4, 0, 0, a⟩
  | .stg a => some ⟨4, 5, 0, 0, a⟩
  | .pref a => some ⟨4, 6, 0, 0, a⟩
  | .cwb a => some ⟨4, 7, 0, 0, a⟩
  | .cinv a => some ⟨4, 8, 0, 0, a⟩
  | .lmways a => some ⟨4, 9, 0, 0, a⟩
  | .amoadd o sc a => some ⟨5, 0, ordBits o ||| scBits sc, 0, a⟩
  | .amoand o sc a => some ⟨5, 1, ordBits o ||| scBits sc, 0, a⟩
  | .amoor o sc a => some ⟨5, 2, ordBits o ||| scBits sc, 0, a⟩
  | .amoxor o sc a => some ⟨5, 3, ordBits o ||| scBits sc, 0, a⟩
  | .amomin o sc a => some ⟨5, 4, ordBits o ||| scBits sc, 0, a⟩
  | .amomax o sc a => some ⟨5, 5, ordBits o ||| scBits sc, 0, a⟩
  | .amoswp o sc a => some ⟨5, 6, ordBits o ||| scBits sc, 0, a⟩
  | .amocas o sc a => some ⟨5, 7, ordBits o ||| scBits sc, 0, a⟩
  | .amofadd o sc a => some ⟨5, 8, ordBits o ||| scBits sc, 0, a⟩
  | .fence k sc a => some ⟨5, 9, fenceBits k ||| scBits sc, 0, a⟩
  | .barr bar a => some ⟨5, 10, 0, bar.setWidth 12, a⟩
  | .bwait bar a => some ⟨5, 11, 0, bar.setWidth 12, a⟩
  | .bcfg bar a => some ⟨5, 12, 0, bar.setWidth 12, a⟩
  | .wfe a => some ⟨5, 13, 0, 0, a⟩
  | .sev a => some ⟨5, 14, 0, 0, a⟩
  | .watch a => some ⟨5, 15, 0, 0, a⟩
  | .wpend a => some ⟨5, 16, 0, 0, a⟩
  | .wany a => some ⟨5, 17, 0, 0, a⟩
  | .pchk a => some ⟨5, 18, 0, 0, a⟩
  | .dcset dc a => some ⟨5, 19, 0, dc.setWidth 12, a⟩
  | .dcdec dc a => some ⟨5, 20, 0, dc.setWidth 12, a⟩
  | .copy sc cvt done a => some ⟨6, 0, scBits sc ||| bitOf cvt 0, doneBits done, a⟩
  | .sbind sc out a => some ⟨6, 1, scBits sc ||| bitOf out 0, 0, a⟩
  | .sunb a => some ⟨6, 2, 0, 0, a⟩
  | .mcfg a => some ⟨6, 3, 0, 0, a⟩
  | .mbld sc bank done a => some ⟨6, 4, scBits sc, doneBits done ||| bank.setWidth 12, a⟩
  | .mmac sc done a => some ⟨6, 5, scBits sc, doneBits done, a⟩
  | .mrmt sc done a => some ⟨6, 6, scBits sc, doneBits done, a⟩
  | .licTake a => some ⟨6, 7, 0, 0, a⟩
  | .licGive a => some ⟨6, 7, 1, 0, a⟩
  | .fill sc done a => some ⟨6, 8, scBits sc, doneBits done, a⟩
  | .want a => some ⟨7, 0, 0, 0, a⟩
  | .offer a => some ⟨7, 1, 0, 0, a⟩
  | .seal a => some ⟨7, 2, 0, 0, a⟩
  | .send hi rel sc n cap a => some ⟨7, 3, bitOf hi 0 ||| bitOf rel 1 ||| scBits sc, n.setWidth 12 ||| bitOf cap 11, a⟩
  | .sendc rel sc n ch a => some ⟨7, 4, bitOf rel 1 ||| scBits sc, n.setWidth 12 ||| (ch.setWidth 12 <<< 4), a⟩
  | .sendr rel sc n ch rt a => some ⟨7, 5, bitOf rel 1 ||| scBits sc, n.setWidth 12 ||| (ch.setWidth 12 <<< 4) ||| (rt.setWidth 12 <<< 7), a⟩
  | .fork a => some ⟨7, 6, 0, 0, a⟩
  | .chcfg e a => some ⟨7, 7, 0, e.setWidth 12, a⟩
  | .chcfgName e a => some ⟨7, 7, 1, e.setWidth 12, a⟩
  | .lease a => some ⟨7, 8, 0, 0, a⟩
  | .role a => some ⟨7, 9, 0, 0, a⟩
  | .join dc a => some ⟨7, 10, 0, dc.setWidth 12, a⟩
  | .trap code a => some ⟨8, 0, 0, code.setWidth 12, a⟩
  | .idle a => some ⟨8, 1, 0, 0, a⟩
  | .sysc svc a => some ⟨8, 2, 0, svc, a⟩
  | .ctxsv cancel a => some ⟨8, 3, bitOf cancel 0, 0, a⟩
  | .ctxld a => some ⟨8, 4, 0, 0, a⟩
  | .tlbi span a => some ⟨8, 5, spanBits span, 0, a⟩
  | .rolew a => some ⟨8, 6, 0, 0, a⟩
  | .pwrc droop a => some ⟨8, 7, 0, bitOf droop 0, a⟩
  | .ttCntRead _ => none
  | .timeLockLoss => none

/-- The instruction of a page-0 slot. -/
def build0 (op : Nat) (a : Args) : Option Instr :=
  match op with
  | 0 => some (.nop a)
  | 1 => some (.mov a)
  | 2 => some (.fmov a)
  | 3 => some (.li a)
  | 4 => some (.add a)
  | 5 => some (.sub a)
  | 6 => some (.and a)
  | 7 => some (.or a)
  | 8 => some (.xor a)
  | 9 => some (.andn a)
  | 10 => some (.shl a)
  | 11 => some (.shr a)
  | 12 => some (.sar a)
  | 13 => some (.mul a)
  | 14 => some (.min a)
  | 15 => some (.max a)
  | 16 => some (.seq a)
  | 17 => some (.sne a)
  | 18 => some (.slt a)
  | 19 => some (.sle a)
  | 20 => some (.sel a)
  | 21 => some (.clz a)
  | 22 => some (.popc a)
  | 23 => some (.bext a)
  | 24 => some (.bins a)
  | 25 => some (.cadd a)
  | 26 => some (.b a)
  | 27 => some (.bz a)
  | 28 => some (.bnz a)
  | 29 => some (.blt a)
  | 30 => some (.bge a)
  | 31 => some (.call a)
  | 32 => some (.callr a)
  | 33 => some (.jr a)
  | 34 => some (.loopN a)
  | 35 => some (.endTask a)
  | 36 => some (.sget a)
  | 37 => some (.sset a)
  | 38 => some (.brk a)
  | _ => none

/-- The instruction of a page-1 slot with its modifier fields and operands; fields it does not define are dropped. -/
def build1 (op : Nat) (a : Args) : Option Instr :=
  match op with
  | 0 => some (.div a)
  | 1 => some (.rem a)
  | 2 => some (.mulh a)
  | 3 => some (.rot a)
  | 4 => some (.cbnd a)
  | 5 => some (.cprm a)
  | 6 => some (.cfmt a)
  | 7 => some (.cget a)
  | 8 => some (.ctest a)
  | 9 => some (.cclr a)
  | 10 => some (.topo a)
  | _ => none

/-- The instruction of a page-2 slot with its modifier fields and operands; fields it does not define are dropped. -/
def build2 (op : Nat) (m0 : BitVec 4) (m1 : BitVec 12) (a : Args) : Option Instr :=
  match op with
  | 0 => some (.vadd a)
  | 1 => some (.vsub a)
  | 2 => some (.vmul a)
  | 3 => some (.vfma a)
  | 4 => some (.vfms a)
  | 5 => some (.vmin a)
  | 6 => some (.vmax a)
  | 7 => some (.vabs a)
  | 8 => some (.vneg a)
  | 9 => some (.vcmp (vcondOf m0) a)
  | 10 => some (.vsel a)
  | 11 => some (.vrcp a)
  | 12 => some (.vrsq a)
  | 13 => some (.vexp2 a)
  | 14 => some (.vlog2 a)
  | 15 => some (.vdot a)
  | 16 => some (.vred (redOf m0) a)
  | 17 => some (.vamax a)
  | 18 => some (.vshuf a)
  | 19 => some (.vbcast (m1.setWidth 5) a)
  | 20 => some (.vins (m1.setWidth 5) a)
  | 21 => some (.vext (m1.setWidth 5) a)
  | 22 => some (.vdiv a)
  | 23 => some (.vsqrt a)
  | _ => none

/-- The instruction of a page-3 slot with its modifier fields and operands; fields it does not define are dropped. -/
def build3 (op : Nat) (m0 : BitVec 4) (m1 : BitVec 12) (a : Args) : Option Instr :=
  match op with
  | 0 => some (.vcvt (Ty.ofCode (m1.setWidth 4)) (m0.setWidth 3) a)
  | 1 => some (.vpack (Ty.ofCode (m1.setWidth 4)) a)
  | 2 => some (.vunpk (Ty.ofCode (m1.setWidth 4)) (m0.getLsbD 0) a)
  | 3 => some (.vscl (m0.getLsbD 0) a)
  | 4 => some (.vqnt a)
  | 5 => some (.fclass a)
  | _ => none

/-- The instruction of a page-4 slot with its modifier fields and operands; fields it does not define are dropped. -/
def build4 (op : Nat) (m0 : BitVec 4) (m1 : BitVec 12) (a : Args) : Option Instr :=
  match op with
  | 0 => some (.ld (ordOf m0) (scOf m0) a)
  | 1 => some (.st (ordOf m0) (scOf m0) a)
  | 2 => some (.ldf (m1.setWidth 6) a)
  | 3 => some (.stf (ordOf m0) (scOf m0) (m1.setWidth 6) a)
  | 4 => some (.ldg a)
  | 5 => some (.stg a)
  | 6 => some (.pref a)
  | 7 => some (.cwb a)
  | 8 => some (.cinv a)
  | 9 => some (.lmways a)
  | _ => none

/-- The instruction of a page-5 slot with its modifier fields and operands; fields it does not define are dropped. -/
def build5 (op : Nat) (m0 : BitVec 4) (m1 : BitVec 12) (a : Args) : Option Instr :=
  match op with
  | 0 => some (.amoadd (ordOf m0) (scOf m0) a)
  | 1 => some (.amoand (ordOf m0) (scOf m0) a)
  | 2 => some (.amoor (ordOf m0) (scOf m0) a)
  | 3 => some (.amoxor (ordOf m0) (scOf m0) a)
  | 4 => some (.amomin (ordOf m0) (scOf m0) a)
  | 5 => some (.amomax (ordOf m0) (scOf m0) a)
  | 6 => some (.amoswp (ordOf m0) (scOf m0) a)
  | 7 => some (.amocas (ordOf m0) (scOf m0) a)
  | 8 => some (.amofadd (ordOf m0) (scOf m0) a)
  | 9 => some (.fence (fenceOf m0) (scOf m0) a)
  | 10 => some (.barr (m1.setWidth 5) a)
  | 11 => some (.bwait (m1.setWidth 5) a)
  | 12 => some (.bcfg (m1.setWidth 5) a)
  | 13 => some (.wfe a)
  | 14 => some (.sev a)
  | 15 => some (.watch a)
  | 16 => some (.wpend a)
  | 17 => some (.wany a)
  | 18 => some (.pchk a)
  | 19 => some (.dcset (m1.setWidth 6) a)
  | 20 => some (.dcdec (m1.setWidth 6) a)
  | _ => none

/-- The instruction of a page-6 slot with its modifier fields and operands; fields it does not define are dropped. -/
def build6 (op : Nat) (m0 : BitVec 4) (m1 : BitVec 12) (a : Args) : Option Instr :=
  match op with
  | 0 => some (.copy (scOf m0) (m0.getLsbD 0) (doneOf m1) a)
  | 1 => some (.sbind (scOf m0) (m0.getLsbD 0) a)
  | 2 => some (.sunb a)
  | 3 => some (.mcfg a)
  | 4 => some (.mbld (scOf m0) (m1.setWidth 2) (doneOf m1) a)
  | 5 => some (.mmac (scOf m0) (doneOf m1) a)
  | 6 => some (.mrmt (scOf m0) (doneOf m1) a)
  | 7 => some (if m0.getLsbD 0 then .licGive a else .licTake a)
  | 8 => some (.fill (scOf m0) (doneOf m1) a)
  | _ => none

/-- The instruction of a page-7 slot with its modifier fields and operands; fields it does not define are dropped. -/
def build7 (op : Nat) (m0 : BitVec 4) (m1 : BitVec 12) (a : Args) : Option Instr :=
  match op with
  | 0 => some (.want a)
  | 1 => some (.offer a)
  | 2 => some (.seal a)
  | 3 => some (.send (m0.getLsbD 0) (m0.getLsbD 1) (scOf m0) (m1.setWidth 4) (m1.getLsbD 11) a)
  | 4 => some (.sendc (m0.getLsbD 1) (scOf m0) (m1.setWidth 4) (m1.extractLsb' 4 3) a)
  | 5 => some (.sendr (m0.getLsbD 1) (scOf m0) (m1.setWidth 4) (m1.extractLsb' 4 3) (m1.extractLsb' 7 4) a)
  | 6 => some (.fork a)
  | 7 => some (if m0.getLsbD 0 then .chcfgName (m1.setWidth 4) a else .chcfg (m1.setWidth 4) a)
  | 8 => some (.lease a)
  | 9 => some (.role a)
  | 10 => some (.join (m1.setWidth 6) a)
  | _ => none

/-- The instruction of a page-8 slot with its modifier fields and operands; fields it does not define are dropped. -/
def build8 (op : Nat) (m0 : BitVec 4) (m1 : BitVec 12) (a : Args) : Option Instr :=
  match op with
  | 0 => some (.trap (m1.setWidth 8) a)
  | 1 => some (.idle a)
  | 2 => some (.sysc m1 a)
  | 3 => some (.ctxsv (m0.getLsbD 0) a)
  | 4 => some (.ctxld a)
  | 5 => some (.tlbi (spanOf m0) a)
  | 6 => some (.rolew a)
  | 7 => some (.pwrc (m1.getLsbD 0) a)
  | _ => none

/-- The instruction of a slot with its modifier fields and operands; none where the slot is reserved. -/
def build (page op : Nat) (m0 : BitVec 4) (m1 : BitVec 12) (a : Args) : Option Instr :=
  match page with
  | 0 => build0 op a
  | 1 => build1 op a
  | 2 => build2 op m0 m1 a
  | 3 => build3 op m0 m1 a
  | 4 => build4 op m0 m1 a
  | 5 => build5 op m0 m1 a
  | 6 => build6 op m0 m1 a
  | 7 => build7 op m0 m1 a
  | 8 => build8 op m0 m1 a
  | _ => none

/-! ## The scanner's checks of one instruction (Table 15-4) -/

/-- The checks of Table 15-4 by name. -/
inductive Reject where
  | chain | endOfChain | page | slot | privilege | modifiers | operandFields | type | immediate | displacement | lookahead
  deriving DecidableEq, Repr

/-- The .n of the sends bounds the payload range (R430). -/
def payOk (n : Nat) (s : Src) : Bool :=
  match s with
  | .reg c => if n = 0 then c == 0 else c.toNat + n ≤ (if c.toNat < 32 then 32 else 48)
  | _ => false

/-- The type pairs of R365. -/
def vcvtOk (dst src : Ty) (part : Nat) : Bool :=
  let q := if src.bits ≤ dst.bits then dst.bits / src.bits else src.bits / dst.bits
  tyM.contains src && src != dst && (src.isFloat || dst.isFloat) && q ≤ 8 && part < q

/-- Modifier values that the instruction's own chapter refuses (R293, R364, R365, R373, R428, R430, R438, Table 18-1). -/
def Instr.modsOk : Instr → Bool
  | .vbcast i a | .vins i a | .vext i a => i.toNat < a.ty.lanes
  | .vcvt src part a => vcvtOk a.ty src part.toNat
  | .vpack src a => tyM.contains src && src.bits == 2 * a.ty.bits
  | .vunpk src _ a => tyM.contains src && a.ty.bits == 2 * src.bits
  | .ld o sc a => (o == .plain || o == .acq) && (o != .plain || sc == .launch) && (o == .plain || a.look == 0)
  | .st o sc a => (o == .plain || o == .rel) && (o != .plain || sc == .launch) && (o == .plain || a.look == 0)
  | .ldf cnt a => cnt.toNat < a.ty.lanes
  | .stf o sc cnt a => (o == .plain || o == .rel) && (o != .plain || sc == .launch) && cnt.toNat < a.ty.lanes
  | .amoadd o sc _ | .amoand o sc _ | .amoor o sc _ | .amoxor o sc _ | .amomin o sc _ | .amomax o sc _ | .amoswp o sc _
  | .amocas o sc _ | .amofadd o sc _ => o != .plain || sc == .launch
  | .send _ rel sc n _ a => (rel || sc == .launch) && n.toNat ≤ 4 && payOk n.toNat a.s2
  | .sendc rel sc n _ a | .sendr rel sc n _ _ a =>
    (rel || sc == .launch) && 1 ≤ n.toNat && n.toNat ≤ 8 && payOk n.toNat a.s2
  | .chcfgName e _ => e.toNat < 15
  | _ => true

/-- A source against its class: a register code of the class, or a literal under XR, canonical for its width (R295, R298). -/
def srcOk (k : Codes) (a : Args) (s : Src) : Bool :=
  match s with
  | .reg c => k.ok c.toNat && (a.xr || c.toNat < 32)
  | .lit v => k.takesLit && a.xr && (a.ty.wideLit || v.toNat < 2 ^ 32)
  | .imm _ => false

/-- How many bits an immediate has (R297, R313): its fields are B or BH:B, and the XI chunks. -/
def immBits (xr : Bool) (nxi : Nat) : Nat :=
  match nxi, xr with
  | 0, false => 5
  | 0, true => 6
  | 1, false => 17
  | 1, true => 12
  | _, false => 29
  | _, true => 24

/-- The 32-bit immediate of a field value: sign-extended, or zero-extended for a count (R297, R313). -/
def immExtend (count xr : Bool) (nxi raw : Nat) : BitVec 32 :=
  let w := immBits xr nxi
  if count then BitVec.ofNat 32 (raw % 2 ^ w) else (BitVec.ofNat w raw).signExtend 32

/-- An immediate that its fields can hold. -/
def immOk (count : Bool) (a : Args) (s : Src) : Bool :=
  match s with
  | .imm v => immExtend count a.xr a.nxi.toNat v.toNat == v
  | _ => false

/-- The last source: an immediate exactly when XI stands (R297). -/
def lastOk (sh : Shape) (k : Codes) (a : Args) (s : Src) : Bool :=
  if a.nxi = 0 then srcOk k a s else sh.xi && immOk false a s

/-- A B-immediate: an immediate of the fields, but for li under XR without XI, whose BH:B is a literal (R313, R320). -/
def bimmOk (sh : Shape) (k : Codes) (a : Args) (s : Src) : Bool :=
  if k = .only && a.xr && a.nxi = 0 then srcOk k a s else immOk sh.count a s

/-- The operands against the slot's shape (R294–R298). -/
def operandsOk (sh : Shape) (a : Args) : Bool :=
  let unused1 := a.s1 == .reg 0
  let unused2 := a.s2 == .reg 0
  let unused3 := a.s3 == .reg 0
  let dOk := sh.dc.ok a.d.toNat && (a.xr || a.d.toNat < 32)
  match sh.form with
  | .br => a.d == 0 && srcOk sh.c1 a a.s1 && srcOk sh.c2 a a.s2 && immOk false a a.s3
  | .n => unused3 && a.d == 0 && unused1 && unused2 && a.nxi == 0
  | .d => unused3 && dOk && unused1 && unused2 && a.nxi == 0
  | .s => unused3 && a.d == 0 && srcOk sh.c1 a a.s1 && unused2 && a.nxi == 0
  | .i => unused3 && a.d == 0 && bimmOk sh sh.c1 a a.s1 && unused2
  | .di => unused3 && dOk && bimmOk sh sh.c1 a a.s1 && unused2
  | .si => unused3 && a.d == 0 && srcOk sh.c1 a a.s1 && bimmOk sh sh.c2 a a.s2
  | .ds => unused3 && dOk && srcOk sh.c1 a a.s1 && unused2 && a.nxi == 0
  | .dss => unused3 && dOk && srcOk sh.c1 a a.s1 && lastOk sh sh.c2 a a.s2 && (a.xr || a.s1 == .reg a.d)
  | .ss => unused3 && a.d == 0 && srcOk sh.c1 a a.s1 && lastOk sh sh.c2 a a.s2
  | .sss => unused3 && dOk && srcOk sh.c1 a a.s1 && lastOk sh sh.c2 a a.s2

/-- An XI on an instruction without an immediate source (R297). -/
def xiStray (sh : Shape) (a : Args) : Bool :=
  a.nxi != 0 && match sh.form with
    | .n | .d | .s | .ds => true
    | .dss | .ss | .sss => !sh.xi
    | .i | .di | .si | .br => false

/-- How many prefixes the chain has. -/
def prefixCount (s : Slot) : Nat :=
  (if s.page = 0 then 0 else 1) + (if s.m1 = 0 then 0 else 1) + (if s.args.xr then 1 else 0) + s.args.nxi.toNat

/-- The checks of Table 15-4 that concern one instruction alone, as the first that fails. -/
def Instr.check (i : Instr) : Option Reject :=
  match i.slot with
  | none => none
  | some s =>
    match shapeOf s.page s.op with
    | none => some .slot
    | some sh =>
      if s.args.nxi.toNat > 2 || prefixCount s > 4 then some .chain
      else if !i.modsOk then some .modifiers
      else if !(sh.types.contains s.args.ty && (s.args.xr || s.args.ty == pageDefault s.page)) then some .type
      else if xiStray sh s.args then some .immediate
      else if (sh.xrReq && !s.args.xr) || (sh.xiReq && s.args.nxi == 0) then some .operandFields
      else if !operandsOk sh s.args then some .operandFields
      else if s.args.look ≠ 0 && !sh.shadow then some .lookahead
      else none

end Sys2Proof
end

