-- ==== Sys2Proof/Machine/Operands.lean ====
section
/-! DEFINITION. Operand values: lanes (R238, R311), immediates (Table 14-2), literals (R298), register operands as they are
met and taken, and the fields of a capability (Table 10-3). -/

namespace Sys2Proof.Machine
open Sys2Proof

/-! ## Lanes -/

/-- Lane `i` of width `w`, unsigned. -/
def laneAt (w i : Nat) (v : W128) : Nat := v.toNat / 2 ^ (w * i) % 2 ^ w
/-- The first `n` lanes. -/
def lanesOf (w n : Nat) (v : W128) : List Nat := (span 0 n).map (fun i => laneAt w i v)
/-- The number whose lanes are given, lane 0 lowest. -/
def joinLanes (w : Nat) (ls : List Nat) : Nat :=
  match ls with
  | [] => 0
  | x :: r => x % 2 ^ w + 2 ^ w * joinLanes w r
/-- A register value from lanes; lanes not given are zero. -/
def ofLanes (w : Nat) (ls : List Nat) : W128 := BitVec.ofNat 128 (joinLanes w ls)
/-- `n` lanes that all hold `x`. -/
def fillLanes (w n x : Nat) : W128 := ofLanes w (List.replicate n x)
/-- A lane as a signed number. -/
def signedLane (w x : Nat) : Int := if 2 * x < 2 ^ w then (x : Int) else (x : Int) - (2 ^ w : Nat)
/-- A lane as a number of the type's signedness (R311). -/
def laneInt (t : Ty) (x : Nat) : Int := if t.signed then signedLane t.bits x else (x : Int)
/-- A number wrapped into a lane (R311). -/
def wrapLane (w : Nat) (x : Int) : Nat := (x % (2 ^ w : Nat)).toNat
/-- Zero-extends 64 bits into a register value. -/
def reg64 (v : W64) : W128 := v.setWidth 128
/-- The low 64 bits of a register value. -/
def low64 (v : W128) : W64 := v.setWidth 64
/-- A number as an untagged value of 64 bits. -/
def val64 (n : Nat) : TagVal := ⟨reg64 (BitVec.ofNat 64 n), false⟩

/-! ## Immediates and literals -/

/-- An immediate in the lanes of a type (Table 14-2). -/
def immValue (t : Ty) (v : BitVec 32) : W128 :=
  let half := v.toNat % 65536
  match t with
  | .f32 => fillLanes 32 4 (half * 65536)
  | .bf16 | .f16 | .f8 | .f4 => fillLanes 16 8 half
  | .c | .b => v.signExtend 128
  | .x => reg64 (v.signExtend 64)
  | t => fillLanes t.bits t.lanes ((v.signExtend 64).toNat)

/-- A literal in the lanes of a type (R298). -/
def litValue (t : Ty) (v : W64) : W128 :=
  match t with
  | .x => reg64 v
  | .s64 | .n64 => fillLanes 64 2 v.toNat
  | .f32 | .bf16 | .f16 | .f8 | .f4 => fillLanes 32 4 (v.toNat % 2 ^ 32)
  | t => immValue t (v.setWidth 32)

/-! ## Sources -/

/-- The operands a source makes the instruction meet. -/
def srcMeet (x : Src) : List Meet :=
  match x with
  | .reg c => [.src c]
  | _ => []

/-- The value of a source, taken. -/
def State.takeSrc (s : State) (t : Ty) (x : Src) : TagVal × State :=
  match x with
  | .reg c => s.takeCode c
  | .imm v => (⟨immValue t v, false⟩, s)
  | .lit v => (⟨litValue t v, false⟩, s)

/-- One source met and taken, and a destination met. -/
def State.operand1 (s : State) (t : Ty) (x : Src) (more : List Meet) : Res (TagVal × State) := do
  s.meet (srcMeet x ++ more)
  .ok (s.takeSrc t x)

/-- Two sources in order, and further operands met after them. -/
def State.operands2 (s : State) (t : Ty) (x y : Src) (more : List Meet) : Res (TagVal × TagVal × State) := do
  s.meet (srcMeet x ++ srcMeet y ++ more)
  let (v, s1) := s.takeSrc t x
  let (w, s2) := s1.takeSrc t y
  .ok (v, w, s2)

/-- Two sources, then the old destination as a source, then the destination (R323, R349, R387). -/
def State.operands3 (s : State) (t : Ty) (x y : Src) (d : BitVec 6) : Res (TagVal × TagVal × TagVal × State) := do
  s.meet (srcMeet x ++ srcMeet y ++ [.src d, .dst d])
  let (v, s1) := s.takeSrc t x
  let (w, s2) := s1.takeSrc t y
  let (u, s3) := s2.takeCode d
  .ok (v, w, u, s3)

/-- The displacement or number an immediate operand holds; a register operand has none. -/
def srcImm (x : Src) : BitVec 32 :=
  match x with
  | .imm v => v
  | _ => 0

/-- The code of a register source; other sources have none. -/
def srcReg (x : Src) : BitVec 6 :=
  match x with
  | .reg c => c
  | _ => 62

/-- An instruction of one source and one destination: its untagged result. -/
def unary (a : Args) (s : State) (f : W128 → W128) : Host.Outcome State Fault Refusal :=
  conclude s do
    let (x, t) ← s.operand1 a.ty a.s1 [.dst a.d]
    .ok (t.writeD a.d ⟨f x.v, false⟩).advance

/-- An instruction of two sources and one destination: its untagged result. -/
def binary (a : Args) (s : State) (f : W128 → W128 → W128) : Host.Outcome State Fault Refusal :=
  conclude s do
    let (x, y, t) ← s.operands2 a.ty a.s1 a.s2 [.dst a.d]
    .ok (t.writeD a.d ⟨f x.v y.v, false⟩).advance

/-- An instruction that also reads its old destination, after its sources. -/
def ternary (a : Args) (s : State) (f : W128 → W128 → W128 → W128) : Host.Outcome State Fault Refusal :=
  conclude s do
    let (x, y, z, t) ← s.operands3 a.ty a.s1 a.s2 a.d
    .ok (t.writeD a.d ⟨f x.v y.v z.v, false⟩).advance

/-! ## Capabilities (R197) -/

/-- R: loads through it. -/
def capR (c : W128) : Bool := c.getLsbD 127
/-- W: stores through it. -/
def capW (c : W128) : Bool := c.getLsbD 126
/-- X: its cursor may be a jump target. -/
def capX (c : W128) : Bool := c.getLsbD 125
/-- C: capabilities pass with their tags. -/
def capC (c : W128) : Bool := c.getLsbD 124
/-- M: matrix grant. -/
def capM (c : W128) : Bool := c.getLsbD 123
/-- BLOG2. -/
def capBlog2 (c : W128) : Nat := (c.extractLsb' 120 3).toNat
/-- LAYOUT. -/
def capLayout (c : W128) : Nat := (c.extractLsb' 118 2).toNat
/-- TYPE. -/
def capTy (c : W128) : Ty := Ty.ofCode (c.extractLsb' 114 4)
/-- GRAN. -/
def capGran (c : W128) : Nat := (c.extractLsb' 112 2).toNat
/-- LEN. -/
def capLen (c : W128) : Nat := (c.extractLsb' 88 24).toNat
/-- CURSOR. -/
def capCursor (c : W128) : Nat := (c.extractLsb' 0 48).toNat
/-- base = BASE << 8. -/
def capBase (c : W128) : Nat := (c.extractLsb' 48 40).toNat * 256
/-- length = LEN × (256 << (2 × GRAN)). -/
def capLength (c : W128) : Nat := capLen c * 256 * 4 ^ capGran c
/-- top = base + length. -/
def capTop (c : W128) : Nat := capBase c + capLength c
/-- Every byte of [va, va + n) lies within the bounds. -/
def capCovers (c : W128) (va n : Nat) : Bool := capBase c ≤ va && va + n ≤ capTop c

end Sys2Proof.Machine
end

