-- ==== Sys2Proof/Machine/Flags.lean ====
section
/-! DEFINITION. The W7 has no condition flags: a comparison writes lane masks. Here are the masks, and the status words that
sget builds from other state: s.ctx (Table 9-10), s.task (Table 6-6), s.lic (Table 9-7). -/

namespace Sys2Proof.Machine
open Sys2Proof

/-- All ones or zero in a lane (Table 16-3, R358). -/
def laneMask (w : Nat) (b : Bool) : Nat := if b then 2 ^ w - 1 else 0

/-- A context holds a task or handler. -/
def Ctx.busy (x : Ctx) : Bool := x.task.isSome

/-- Bits 0–4 by context. -/
def ctxBits (f : Nat → Bool) : Nat := ((span 0 5).map (fun n => if f n then 2 ^ n else 0)).sum

/-- s.ctx as a context reads it (Table 9-10), from which contexts are parked. -/
def ctxWord (c : Core) (ctx : Nat) (parkedAt : Nat → Bool) : W64 :=
  let busy := ctxBits (fun n => (c.ctx n).busy)
  let parked := ctxBits (fun n => n != ctx && (c.ctx n).busy && parkedAt n)
  BitVec.ofNat 64 (busy * 2 ^ 16 + parked * 2 ^ 8 + ctx)

/-- s.task of a context (Table 6-6). -/
def taskWord (x : Ctx) : W64 :=
  match x.task with
  | none => 0
  | some t => t.stage ++ BitVec.ofNat 6 t.lid ++ t.src ++ (if t.hi then 1#1 else 0#1) ++ 0#3 ++ t.handler ++ t.seq

/-- A queued command needs the licence to run (R414). -/
def MOp.needsLicence (o : MOp) : Bool :=
  match o with
  | .mmac _ _ _ | .mrmt _ _ _ | .take => true
  | _ => false

/-- Commands of a queue that need the licence (Table 9-7). -/
def queueNeeds (q : List MCmd) : Nat := (q.filter (fun m => m.op.needsLicence)).length

/-- STATE of s.lic as a layer sees it: 0 FREE, 1 held here, 2 held by the twin, 3 HANDOVER. -/
def licState (l : Lic) (layer : Nat) : Nat :=
  if l.handover.isSome then 3
  else match l.holder with
    | none => 0
    | some h => if h = layer then 1 else 2

/-- s.lic as a core reads it (Table 9-7, R194). -/
def State.licWord (s : State) (core : Nat) : W64 :=
  let l := (s.column (colOf core)).lic
  let own := queueNeeds (s.core core).mqueue
  let twin := queueNeeds (s.core (twinOf core)).mqueue
  BitVec.ofNat 64 (l.hovers.toNat * 2 ^ 16 + twin * 2 ^ 12 + own * 2 ^ 8 + (l.last.getD 0) * 4 + licState l (placeZ core))

/-- s.chNcfg as read (Table 7-4). -/
def Chan.word (h : Chan) : W64 :=
  (if h.en then 1#1 else 0#1) ++ 0#2 ++ h.count ++ h.head ++ 0#8 ++ h.log2e ++ 0#14 ++ 0#1 ++ h.base ++ 0#4

end Sys2Proof.Machine
end

