-- ==== Sys2Proof/Machine/Translate.lean ====
section
/-! DEFINITION. Where an address leads: the logical field (R17, R18), the virtual windows (R195), the TLB (R214), physical
regions (R201), and what an instruction's access checks before it takes effect (R198, R374, R265). -/

namespace Sys2Proof.Machine
open Sys2Proof

/-! ## The logical field (R17, R18) -/

/-- How many columns a hall row exposes: 15, 14, or up to 15 on grade NONE (R17). -/
def exposedCount (grade : BitVec 8) : Nat := if grade = 0x0B then 14 else 15

/-- The exposed columns' x of a hall row, rising (R17). -/
def State.exposedXs (s : State) (hx y : Nat) : List Nat :=
  match s.mb.badCols with
  | none => []
  | some bad => ((span (16 * hx) 16).filter (fun x => !bad.contains (x * 512 + y))).take (exposedCount s.mb.mapGrade)

/-- A physical column is exposed (R17). -/
def State.exposedCol (s : State) (col : Nat) : Bool := (s.exposedXs (col / 512 / 16) (col % 512)).contains (col / 512)

/-- W of the logical field by grade (R18). -/
def fieldWidth (grade : BitVec 8) : Nat := if grade = 0x0A then 480 else if grade = 0x0B then 448 else 0

/-- The physical column of a logical one (R18). -/
def State.physCol (s : State) (fx fy : Nat) : Option Nat :=
  let per := fieldWidth s.mb.grade / 32
  if per = 0 || fx ≥ 32 * per || fy ≥ 512 then none
  else ((s.exposedXs (fx / per) fy)[fx % per]?).map (fun x => x * 512 + fy)

/-- The physical columns of a region, in the order ly, then lx (R75). -/
def State.regionCols (s : State) (r : LRec) : List Nat :=
  (span 0 r.h.toNat).flatMap (fun ly => (span 0 r.w.toNat).filterMap (fun lx => s.physCol (r.fx.toNat + lx) (r.fy.toNat + ly)))

/-- A router works: not dead and in no rectangle (R138). -/
def State.routerDead (s : State) (p : Nat) : Bool :=
  s.mb.rects.any (fun (z, x0, y0, x1, y1) =>
    placeZ p == z && x0 ≤ placeX p && placeX p ≤ x1 && y0 ≤ placeY p && placeY p ≤ y1)

/-- The hall controller of a hall: the layer-1 core of its exposed column with the lowest logical index (R75). -/
def State.hallCtlCore (s : State) (h : Nat) : Option Nat :=
  let ys := span (h / 32 * 16) 16
  match ys.filterMap (fun y => ((s.exposedXs (h % 32) y).head?).map (fun x => placeOf x y 1)) with
  | [] => none
  | p :: _ => some p

/-- A core is its hall's controller. -/
def State.isHallCtl (s : State) (p : Nat) : Bool := s.hallCtlCore (hallOf p) == some p

/-! ## The role map (R77, R95) -/

/-- The host of a logical target in a launch's map; none for an index outside it, or a routing index mapped to NONE. -/
def Launch.hostOf (l : Launch) (k : Kind) (idx : Nat) : Option Nat :=
  match k with
  | .compute => l.compute[idx]?
  | .pool => l.pool[idx]?
  | .routing => (l.routing[idx]?).getD none

/-- Every core that a launch's map names. -/
def Launch.cores (l : Launch) : List Nat := l.compute ++ l.pool ++ l.routing.filterMap id

/-- Where the state of what a core hosts stands: at the new host once a re-cast has moved it there (R92, R93). -/
def State.nowAt (s : State) (p : Nat) : Nat :=
  match s.recasts.find? (fun r => r.phase == .moved && r.dec.src == p && r.dec.old.isSome) with
  | some r => r.dec.dst
  | none => p

/-- The host of a target as a core has applied the map (R95). -/
def State.hostSeen (s : State) (core lid : Nat) (k : Kind) (idx : Nat) : Option Nat :=
  match (s.core core).stale.find? (fun e => e.kind == k && e.idx == idx) with
  | some e => e.old
  | none => (s.launch lid).hostOf k idx

/-! ## Physical addresses -/

/-- A program's physical address names something: a region it may reach, an exposed column, an offset in range, and zero in
the fields marked zero (R201). -/
def State.paOk (s : State) (pa : Nat) : Bool :=
  match paRegion pa with
  | 0 => pa / 2 ^ 37 = 0 && pa / 2 ^ 17 % 2 = 0 && pa % 2 ^ 17 < Config.sramBytes && s.exposedCol (colOf (paCore pa))
  | 1 => pa / 2 ^ 40 % 256 = 0 && s.exposedCol (paCol pa)
  | 2 => pa % 2 ^ 48 < 3 * 2 ^ 40
  | 3 => true
  | 4 => if pa / 2 ^ 42 % 2 = 0 then pa % 2 ^ 42 < 2 ^ 40 else pa % 2 ^ 42 < 3 * 2 ^ 40
  | _ => false

/-- An address lies in the reserved slice of a DRAM column, of this module or of a peer (R128). -/
def reserved (pa : Nat) : Bool := (paRegion pa = 1 || (paRegion pa = 4 && pa / 2 ^ 42 % 2 = 0)) && 0x35FFFF < pa % 2 ^ 22

/-- A peer port is fitted and up (R40, R213). -/
def State.peerUp (s : State) (port : Nat) : Bool := s.out.peerPorts && s.out.peersUp.getLsbD port && port < 32

/-! ## The TLB (R214) -/

/-- An entry maps a virtual address for a launch. -/
def TlbEntry.maps (e : TlbEntry) (lid va : Nat) : Bool :=
  e.lid == lid && e.vpn == (if e.big then va / 2 ^ 21 else va / 2 ^ 16)

/-- The entry of a core for an address. -/
def Core.tlbFind (c : Core) (lid va : Nat) : Option TlbEntry := c.tlb.find? (fun e => e.maps lid va)

/-- The entry used moves to the front (least recently used replacement). -/
def Core.tlbTouch (c : Core) (lid va : Nat) : Core :=
  match c.tlbFind lid va with
  | none => c
  | some e => { c with tlb := e :: c.tlb.filter (fun f => !f.maps lid va) }

/-- The physical address an entry gives; a page of a peer lies in region 0x4 (Table 10-4, HOMEDEV of Table 10-7), and one that names no
column or second tier of the peer, or has a nonzero field marked zero, leads nowhere. -/
def TlbEntry.phys (e : TlbEntry) (va : Nat) : Nat :=
  let pa := if e.big then e.pa + va % 2 ^ 21 else e.pa + va % 2 ^ 16
  if e.home = 0 then pa
  else if (paRegion pa = 1 || paRegion pa = 2) && pa / 2 ^ 42 % 2 ^ 6 = 0 then
    4 * 2 ^ 48 + (e.home - 1) * 2 ^ 43 + (if paRegion pa = 2 then 2 ^ 42 else 0) + pa % 2 ^ 42
  else 5 * 2 ^ 48

/-! ## Translation of a data access -/

/-- Where an address leads. -/
structure Target where
  pa : Nat
  key : Nat := 0
  /-- device-ordered (Table 10-7) -/
  device : Bool := false
  cached : Bool := false
  /-- window 0xF at the issuing tile's own L (R375) -/
  own : Bool := false
  /-- window 0xF, 0xE or 0xD: the logical target, for re-casts -/
  target : Option (Kind × Nat) := none
  deriving DecidableEq, Repr

/-- The outcome of a translation: an address, out of bounds, a translation fault, or a TLB miss. -/
inductive Xlate where
  | ok (t : Target)
  | oob
  | fault
  | miss
  deriving DecidableEq, Repr

/-- A local SRAM offset that exists and lies in no way of the host's L1 (R195, R384). -/
def Core.sramOk (c : Core) (off : Nat) : Bool :=
  off < Config.sramBytes && !((8 - c.l1Ways) * 0x1000 ≤ off && off < 0x8000)

/-- The logical DRAM column of a window-0xD address lies in the launch's region (R195). -/
def State.regionCol (s : State) (r : LRec) (n : Nat) : Option Nat :=
  let w := fieldWidth s.mb.grade
  if w = 0 then none
  else
    let fx := n % w
    let fy := n / w
    if r.fx.toNat ≤ fx && fx < r.fx.toNat + r.w.toNat && r.fy.toNat ≤ fy && fy < r.fy.toNat + r.h.toNat
    then s.physCol fx fy else none

/-- Translates one byte's address for a core working for a launch (R195, R201, R213). A reserved slice is out of bounds, which comes before
a translation fault (R128, R265). -/
def State.xlate (s : State) (core lid va : Nat) (store : Bool) : Xlate :=
  let l := s.launch lid
  match va / 2 ^ 44 with
  | 0xF =>
    let n := va / 2 ^ 24 % 2 ^ 20
    let off := va % 2 ^ 17
    if n ≥ l.c || va / 2 ^ 17 % 2 ^ 7 ≠ 0 then .oob
    else
      match s.hostSeen core lid .compute n with
      | none => .oob
      | some p => if (s.core p).sramOk off
        then .ok { pa := sramPa p off, own := p == core, target := some (.compute, n) } else .oob
  | 0xE =>
    let off := va % 2 ^ 44
    if off ≥ (s.core core).poolView * Config.sramBytes then .oob
    else
      match s.hostSeen core lid .pool (off / Config.sramBytes) with
      | none => .oob
      | some p => .ok { pa := sramPa p (off % Config.sramBytes), target := some (.pool, off / Config.sramBytes) }
  | 0xD =>
    if va / 2 ^ 22 % 4 ≠ 0 || va % 2 ^ 22 > 0x35FFFF then .oob
    else
      match s.regionCol l.record (va / 2 ^ 24 % 2 ^ 20) with
      | none => .oob
      | some col => .ok { pa := dramPa col (va % 2 ^ 22), cached := true }
  | _ =>
    match (s.core core).tlbFind lid va with
    | none => .miss
    | some e =>
      let pa := e.phys va
      if reserved pa then .oob
      else if (store && !e.w) || !s.paOk pa then .fault
      else .ok { pa := pa, key := e.key, device := e.kind == 1, cached := e.cached && e.kind == 0 && paRegion pa ≤ 2 }

/-! ## The checks of an access (R198, R221, R374) -/

/-- A part of an access that lies in one 64-byte sector: its virtual address, its place in the access, its length. -/
structure Piece where
  va : Nat
  off : Nat
  len : Nat
  deriving DecidableEq, Repr

/-- Splits an access at sector boundaries (R221); addresses wrap at 2^48. -/
def sectorPieces (va off n fuel : Nat) : List Piece :=
  match fuel with
  | 0 => []
  | f + 1 =>
    if n = 0 then []
    else
      let k := Nat.min n (64 - va % 64)
      ⟨va % 2 ^ 48, off, k⟩ :: sectorPieces (va + k) (off + k) (n - k) f

/-- The sector pieces of an access of up to 640 bytes. -/
def piecesOf (va n : Nat) : List Piece := sectorPieces va 0 n 12

/-- What the checks of an access give: its pieces with where they lead, or out of bounds. -/
inductive Access where
  | ok (ps : List (Piece × Target))
  | oob
  deriving DecidableEq, Repr

/-- Translates for the current context: an address whose walk has just failed is a translation fault (R213). -/
def State.xlateCur (s : State) (va : Nat) (store : Bool) : Xlate :=
  match s.xlate s.cur.core s.lid va store with
  | .miss => if s.cx.badWalk = some (va / 65536) then .fault else .miss
  | x => x

/-- Resolves pieces: any piece out of bounds decides first, then the first miss parks or the first fault traps (R265). -/
def State.resolve (s : State) (store : Bool) (ps : List Piece) : Res Access :=
  let xs := ps.map (fun p => (p, s.xlateCur p.va store))
  if xs.any (fun x => x.2 == .oob) then .ok .oob
  else
    match xs.find? (fun x => x.2 == .miss || x.2 == .fault) with
    | some (p, .miss) => .error (.park s (.walk p.va))
    | some (p, _) => trap clsTranslation p.va
    | none => .ok (.ok (xs.filterMap (fun (p, x) => match x with | .ok t => some (p, t) | _ => none)))

/-- Checks an access of `n` bytes at `va` through an operand: permissions, bounds, window limits, translation (R198, R374). -/
def State.checkAccess (s : State) (c : TagVal) (va n : Nat) (needR needW : Bool) : Res Access := do
  trapIf (c.tag && ((needR && !capR c.v) || (needW && !capW c.v))) clsCapability va
  if c.tag && !capCovers c.v va n then .ok .oob
  else s.resolve needW (piecesOf va n)

/-- Every piece lies in the issuing core's own local SRAM (R375). -/
def allOwn (ps : List (Piece × Target)) : Bool := ps.all (fun p => p.2.own)

/-- The TLB entries that an access used become the most recent. -/
def State.touch (s : State) (ps : List (Piece × Target)) : State :=
  let lid := s.lid
  s.modCc (fun c => ps.foldl (fun c p => c.tlbTouch lid p.1.va) c)

/-! ## Code (R213, R215, R338) -/

/-- The 64 KiB unit of a physical address. -/
def unitOf (pa : Nat) : Nat := pa / 65536

/-- The start map of a unit that a launch has scanned (R215). -/
def Launch.startMap? (l : Launch) (unit : Nat) : Option (List Nat) := findAt unit l.scans

/-- A physical address that code may stand at: it exists and is none of a DRAM column's reserved slice, of a peer's neither (R128, R201). -/
def State.codeOk (s : State) (pa : Nat) : Bool := s.paOk pa && !reserved pa

/-- Checks that control may go to an address: executable (else TRANSLATION), scanned (else the scan first), and a start
(else JUMP) (R215, R300, R338). Gives the physical address. -/
def State.checkFetch (s : State) (core lid va : Nat) : Res Nat :=
  if va / 2 ^ 44 ≥ 0xD then trap clsTranslation va
  else
    match (s.core core).tlbFind lid va with
    | none =>
      if va % 2 = 1 then trap clsJump va
      else if s.cx.badWalk = some (va / 65536) then trap clsTranslation va
      else .error (.park s (.walk (BitVec.ofNat 48 va)))
    | some e =>
      if va % 2 = 1 then trap clsJump va
      else if !e.x || !s.codeOk (e.phys va) then trap clsTranslation va
      else
        match (s.launch lid).startMap? (unitOf (e.phys va)) with
        | none => .error (.park s (.scan (unitOf (e.phys va))))
        | some starts => if starts.contains (e.phys va % 65536 / 2) then .ok (e.phys va) else trap clsJump va

/-! ## What a parked context waits for (Table 9-5a) -/

/-- The masked registers of a context that are PENDING, and those that are not. -/
def Ctx.masked (x : Ctx) (m : BitVec 32) (pending : Bool) : List Nat :=
  (span 0 32).filter (fun n => m.getLsbD n && ((x.reg n).state == .pending) == pending)

/-- A condition that ends an idle: a queued message, an entry of an enabled channel, or the latch. -/
def Core.idleOver (c : Core) (ctx : Nat) : Bool :=
  !c.lowQ.isEmpty || c.chans.any (fun h => h.2.en && h.2.count != 0) || (c.ctx ctx).latch

/-- The condition that a parked context waits for holds, or must be met again by presenting its instruction (R179). -/
def State.parkOver (s : State) (core ctx : Nat) (p : Park) : Bool :=
  let c := s.core core
  let x := c.ctx ctx
  match p with
  | .reg k => (s.regAt core ctx k.toNat).state != .pending
  | .shadow k => !c.shadows.any (fun h => h.ctx == ctx && h.d == k && h.store.isNone)
  | .chans need => need.any (fun e => !(c.chan e.1).en) || need.all (fun e => e.2 ≤ (c.chan e.1).count.toNat)
  | .stream n =>
    match x.stream? n with
    | none => true
    | some t => if t.out then !t.full else !t.buf.isEmpty || t.ended || t.failed
  | .allDone m => (x.masked m true).isEmpty
  | .anyDone m => !(x.masked m false).isEmpty
  | .wfe _ _ => x.latch
  | .idle _ _ => c.idleOver ctx
  | .bwait _ _ _ _ => false
  | .wantList => (c.wants.filter (fun w => s.clk < w.expiry)).length < 16
  | .ticket => !c.ticketsFull
  | .matrix => c.mqueue.length < 4
  | .acks sc b => x.relWait.isEmpty && !c.waiting ctx (hallOf core) sc b
  | .loads b => !c.loading ctx b
  | .order => true
  | .walk va =>
    match x.task with
    | some t => (c.tlbFind t.lid va.toNat).isSome || x.badWalk == some (va.toNat / 65536)
      || !(s.hall (hallOf core)).misses.contains (core, ctx)
    | none => true
  | .scan u =>
    match x.task with
    | some t => ((s.launch t.lid).startMap? u).isSome
    | none => true
  | .inject v => getAt 0 v c.slots ≤ s.clk
  | .heldTarget => true
  | .untilClk k => k ≤ s.clk
  | .missTable => true
  | .remap lid gen => !s.net.any (fun p => p.lid == lid && (match p.body with | .invalidate _ _ g _ => g == gen | _ => false))

/-- A context is parked (Table 9-5a): it waits on one of the table's conditions and the condition does not hold. A context that is
held in issue for another reason is not parked. -/
def State.parked (s : State) (core ctx : Nat) : Bool :=
  match ((s.core core).ctx ctx).park with
  | none => false
  | some p =>
    (match p with
      | .reg _ | .chans _ | .stream _ | .allDone _ | .anyDone _ | .wfe _ _ | .idle _ _ | .bwait _ _ _ _ | .wantList | .ticket | .matrix => true
      | _ => false) && !s.parkOver core ctx p

end Sys2Proof.Machine
end

