-- ==== Sys2Proof/Machine/Integer.lean ====
section
/-! DEFINITION. Moves, immediates, integer lanes and bit fields of pages 0 and 1 (spec 16 R311–R326). -/

namespace Sys2Proof.Machine
open Sys2Proof

/-! ## Lane-wise operations (R321) -/

/-- A two-source operation on the lanes of a type; under .x bits [127:64] are zero. -/
def intLanes (t : Ty) (f : Nat → Nat → Nat) (x y : W128) : W128 :=
  let w := t.bits
  ofLanes w ((lanesOf w t.lanes x).zipWith f (lanesOf w t.lanes y))

/-- A one-source operation on the lanes of a type. -/
def intLanes1 (t : Ty) (f : Nat → Nat) (x : W128) : W128 :=
  let w := t.bits
  ofLanes w ((lanesOf w t.lanes x).map f)

/-- Sum, modulo 2^w. -/
def laneAdd (t : Ty) (a b : Nat) : Nat := (a + b) % 2 ^ t.bits
/-- Difference, modulo 2^w. -/
def laneSub (t : Ty) (a b : Nat) : Nat := wrapLane t.bits ((a : Int) - b)
/-- a and not b. -/
def laneAndn (t : Ty) (a b : Nat) : Nat := a &&& (2 ^ t.bits - 1 - b)
/-- a << (b mod w). -/
def laneShl (t : Ty) (a b : Nat) : Nat := a * 2 ^ (b % t.bits) % 2 ^ t.bits
/-- a >> (b mod w), zeros in. -/
def laneShr (t : Ty) (a b : Nat) : Nat := a / 2 ^ (b % t.bits)
/-- a >> (b mod w), copies of the top bit in. -/
def laneSar (t : Ty) (a b : Nat) : Nat := wrapLane t.bits (signedLane t.bits a / (2 ^ (b % t.bits) : Nat))
/-- Low half of the product. -/
def laneMul (t : Ty) (a b : Nat) : Nat := a * b % 2 ^ t.bits
/-- The lesser by the type's signedness. -/
def laneMin (t : Ty) (a b : Nat) : Nat := if laneInt t a ≤ laneInt t b then a else b
/-- The greater by the type's signedness. -/
def laneMax (t : Ty) (a b : Nat) : Nat := if laneInt t a ≤ laneInt t b then b else a
/-- Equal. -/
def laneSeq (t : Ty) (a b : Nat) : Nat := laneMask t.bits (a == b)
/-- Not equal. -/
def laneSne (t : Ty) (a b : Nat) : Nat := laneMask t.bits (a != b)
/-- Less than by signedness. -/
def laneSlt (t : Ty) (a b : Nat) : Nat := laneMask t.bits (laneInt t a < laneInt t b)
/-- Less or equal by signedness. -/
def laneSle (t : Ty) (a b : Nat) : Nat := laneMask t.bits (laneInt t a ≤ laneInt t b)
/-- Leading zeros: w for a zero lane (R322). -/
def laneClz (t : Ty) (a : Nat) : Nat := if a = 0 then t.bits else t.bits - 1 - Nat.log2 a
/-- One bits among the lowest `n`. -/
def countOnes (n a : Nat) : Nat :=
  match n with
  | 0 => 0
  | n + 1 => a % 2 + countOnes n (a / 2)
/-- One bits of a lane (R322). -/
def lanePopc (t : Ty) (a : Nat) : Nat := countOnes t.bits a
/-- Rotate left by b mod w (R326). -/
def laneRot (t : Ty) (a b : Nat) : Nat :=
  let k := b % t.bits
  (a * 2 ^ k + a / 2 ^ (t.bits - k)) % 2 ^ t.bits

/-! ## Division and the high product (R325) -/

/-- The quotient: all ones over zero, the dividend on signed overflow. -/
def laneDiv (t : Ty) (a b : Nat) : Nat :=
  let w := t.bits
  if b = 0 then 2 ^ w - 1
  else if t.signed then wrapLane w ((signedLane w a).tdiv (signedLane w b))
  else a / b

/-- The remainder: the dividend over zero, 0 on signed overflow. -/
def laneRem (t : Ty) (a b : Nat) : Nat :=
  let w := t.bits
  if b = 0 then a
  else if t.signed then wrapLane w ((signedLane w a).tmod (signedLane w b))
  else a % b

/-- The upper w bits of the exact product. -/
def laneMulh (t : Ty) (a b : Nat) : Nat :=
  let w := t.bits
  wrapLane w (laneInt t a * laneInt t b / (2 ^ w : Nat))

/-- Latency of div and rem by lane width (Table 16-4). -/
def divLatency (t : Ty) : Nat :=
  match t.bits with
  | 64 => 36
  | 32 => 20
  | 16 => 12
  | _ => 8

/-- A shadowed two-source operation (R175, R325). -/
def shadowBinary (a : Args) (s : State) (latency : Nat) (f : W128 → W128 → W128) : Host.Outcome State Fault Refusal :=
  conclude s do
    let (x, y, t) ← s.operands2 a.ty a.s1 a.s2 [.dst a.d]
    .ok (t.shadowD latency a ⟨f x.v y.v, false⟩)

/-- A shadowed one-source operation. -/
def shadowUnary (a : Args) (s : State) (latency : Nat) (f : W128 → W128) : Host.Outcome State Fault Refusal :=
  conclude s do
    let (x, t) ← s.operand1 a.ty a.s1 [.dst a.d]
    .ok (t.shadowD latency a ⟨f x.v, false⟩)

/-! ## Select and bit fields (R323, R324) -/

/-- Keeps the low 64 bits under .x. -/
def narrowX (t : Ty) (v : W128) : W128 := if t = .x then reg64 (low64 v) else v

/-- Bitwise select under a mask. -/
def selBits (t : Ty) (x y m : W128) : W128 := narrowX t ((m &&& x) ||| (~~~m &&& y))

/-- W of a bit-field operation. -/
def fieldW (t : Ty) : Nat := if t = .x then 64 else 128

/-- The field of a descriptor, cut at W (R324). -/
def bextBits (t : Ty) (v c : W128) : W128 :=
  let pos := c.toNat % 128
  let len := c.toNat / 128 % 128 + 1
  BitVec.ofNat 128 (v.toNat % 2 ^ fieldW t / 2 ^ pos % 2 ^ len)

/-- The field of a descriptor replaced, below W (R324). -/
def binsBits (t : Ty) (v c old : W128) : W128 :=
  let pos := c.toNat % 128
  let len := Nat.min (c.toNat / 128 % 128 + 1) (fieldW t - pos)
  let mask : W128 := BitVec.ofNat 128 ((2 ^ len - 1) * 2 ^ pos)
  narrowX t ((old &&& ~~~mask) ||| (BitVec.ofNat 128 (v.toNat * 2 ^ pos) &&& mask))

/-! ## Meanings -/

/-- nop (R317). -/
def execNop (_ : Args) (s : State) : Host.Outcome State Fault Refusal := .next s.advance

/-- mov d, s: all 128 bits with the tag; a channel entry is untagged (R318). -/
def execMov (a : Args) (s : State) : Host.Outcome State Fault Refusal :=
  conclude s do
    let (x, t) ← s.operand1 a.ty a.s1 [.dst a.d]
    .ok (t.writeD a.d x).advance

/-- The whole register of code `b` moved to `d`, future included (R181). Onto an output stream a FULL value is pushed at once
and a future when it is filled (assumption log 11). -/
def State.moveReg (s : State) (b d : BitVec 6) : State :=
  let r := s.regAt s.cur.core s.cur.ctx b.toNat
  let t := s.setRegAt s.cur.core s.cur.ctx b.toNat (Reg.poison pzMoved)
  let t := t.displace s.cur.core s.cur.ctx d.toNat
  let t := if r.state = .pending then t.rehome s.cur.core b.toNat r.ticket (t.destOf s.cur.core s.cur.ctx d.toNat) else t
  if r.state = .full && (s.curStream? d.toNat).isSome then t.writeD d ⟨r.value, false⟩
  else t.setRegAt s.cur.core s.cur.ctx d.toNat r

/-- fmov d, s (R181, R319). -/
def execFmov (a : Args) (s : State) : Host.Outcome State Fault Refusal :=
  match a.s1 with
  | .reg b =>
    if b = a.d then .next s.advance
    else if b.toNat < 48 && !(32 ≤ b.toNat && b.toNat < 40) && (s.curStream? b.toNat).isNone then
      conclude s do
        parkIf (s.inShadow b) s (.shadow b)
        s.meet [.dst a.d]
        .ok (s.moveReg b a.d).advance
    else conclude s do
      let (x, t) ← s.operand1 a.ty a.s1 [.dst a.d]
      .ok (t.writeD a.d ⟨x.v, false⟩).advance
  | _ => conclude s do
      let (x, t) ← s.operand1 a.ty a.s1 [.dst a.d]
      .ok (t.writeD a.d ⟨x.v, false⟩).advance

/-- li d, imm (R320). -/
def execLi (a : Args) (s : State) : Host.Outcome State Fault Refusal := unary a s id

/-- add (R321). -/
def execAdd (a : Args) (s : State) : Host.Outcome State Fault Refusal := binary a s (intLanes a.ty (laneAdd a.ty))
/-- sub (R321). -/
def execSub (a : Args) (s : State) : Host.Outcome State Fault Refusal := binary a s (intLanes a.ty (laneSub a.ty))
/-- and (R321). -/
def execAnd (a : Args) (s : State) : Host.Outcome State Fault Refusal := binary a s (intLanes a.ty Nat.land)
/-- or (R321). -/
def execOr (a : Args) (s : State) : Host.Outcome State Fault Refusal := binary a s (intLanes a.ty Nat.lor)
/-- xor (R321). -/
def execXor (a : Args) (s : State) : Host.Outcome State Fault Refusal := binary a s (intLanes a.ty Nat.xor)
/-- andn (R321). -/
def execAndn (a : Args) (s : State) : Host.Outcome State Fault Refusal := binary a s (intLanes a.ty (laneAndn a.ty))
/-- shl (R321). -/
def execShl (a : Args) (s : State) : Host.Outcome State Fault Refusal := binary a s (intLanes a.ty (laneShl a.ty))
/-- shr (R321). -/
def execShr (a : Args) (s : State) : Host.Outcome State Fault Refusal := binary a s (intLanes a.ty (laneShr a.ty))
/-- sar (R321). -/
def execSar (a : Args) (s : State) : Host.Outcome State Fault Refusal := binary a s (intLanes a.ty (laneSar a.ty))
/-- mul (R321). -/
def execMul (a : Args) (s : State) : Host.Outcome State Fault Refusal := binary a s (intLanes a.ty (laneMul a.ty))
/-- min (R321). -/
def execMin (a : Args) (s : State) : Host.Outcome State Fault Refusal := binary a s (intLanes a.ty (laneMin a.ty))
/-- max (R321). -/
def execMax (a : Args) (s : State) : Host.Outcome State Fault Refusal := binary a s (intLanes a.ty (laneMax a.ty))
/-- seq (R321). -/
def execSeq (a : Args) (s : State) : Host.Outcome State Fault Refusal := binary a s (intLanes a.ty (laneSeq a.ty))
/-- sne (R321). -/
def execSne (a : Args) (s : State) : Host.Outcome State Fault Refusal := binary a s (intLanes a.ty (laneSne a.ty))
/-- slt (R321). -/
def execSlt (a : Args) (s : State) : Host.Outcome State Fault Refusal := binary a s (intLanes a.ty (laneSlt a.ty))
/-- sle (R321). -/
def execSle (a : Args) (s : State) : Host.Outcome State Fault Refusal := binary a s (intLanes a.ty (laneSle a.ty))

/-- The mask of sel is the old d, met before s1 and s2 (R323). -/
def execSel (a : Args) (s : State) : Host.Outcome State Fault Refusal :=
  conclude s do
    s.meet ([.src a.d] ++ srcMeet a.s1 ++ srcMeet a.s2 ++ [.dst a.d])
    let (m, t) := s.takeCode a.d
    let (x, t) := t.takeSrc a.ty a.s1
    let (y, t) := t.takeSrc a.ty a.s2
    .ok (t.writeD a.d ⟨selBits a.ty x.v y.v m.v, false⟩).advance

/-- clz (R322). -/
def execClz (a : Args) (s : State) : Host.Outcome State Fault Refusal := unary a s (intLanes1 a.ty (laneClz a.ty))
/-- popc (R322). -/
def execPopc (a : Args) (s : State) : Host.Outcome State Fault Refusal := unary a s (intLanes1 a.ty (lanePopc a.ty))
/-- bext (R324). -/
def execBext (a : Args) (s : State) : Host.Outcome State Fault Refusal := binary a s (bextBits a.ty)
/-- bins meets d as a source first (R324). -/
def execBins (a : Args) (s : State) : Host.Outcome State Fault Refusal :=
  conclude s do
    s.meet ([.src a.d] ++ srcMeet a.s1 ++ srcMeet a.s2 ++ [.dst a.d])
    let (o, t) := s.takeCode a.d
    let (x, t) := t.takeSrc a.ty a.s1
    let (c, t) := t.takeSrc a.ty a.s2
    .ok (t.writeD a.d ⟨binsBits a.ty x.v c.v o.v, false⟩).advance

/-- div (R325). -/
def execDiv (a : Args) (s : State) : Host.Outcome State Fault Refusal :=
  shadowBinary a s (divLatency a.ty) (intLanes a.ty (laneDiv a.ty))
/-- rem (R325). -/
def execRem (a : Args) (s : State) : Host.Outcome State Fault Refusal :=
  shadowBinary a s (divLatency a.ty) (intLanes a.ty (laneRem a.ty))
/-- mulh (R325). -/
def execMulh (a : Args) (s : State) : Host.Outcome State Fault Refusal :=
  shadowBinary a s 4 (intLanes a.ty (laneMulh a.ty))
/-- rot (R326). -/
def execRot (a : Args) (s : State) : Host.Outcome State Fault Refusal := binary a s (intLanes a.ty (laneRot a.ty))

end Sys2Proof.Machine
end

