-- ==== Sys2Proof/Machine/Capability.lean ====
section
/-! DEFINITION. Capability operations and the topology query (spec 16 R327–R334). -/

namespace Sys2Proof.Machine
open Sys2Proof

/-- A capability with its cursor replaced. -/
def withCursor (c : W128) (cur : Nat) : W128 := c.extractLsb' 48 80 ++ BitVec.ofNat 48 cur

/-- The smallest granule exponent whose granules, fewer than 2^24 of them, cover a span (R329). -/
def granFor (sp : Nat) : Option Nat :=
  (span 0 4).find? (fun g => (sp + 256 * 4 ^ g - 1) / (256 * 4 ^ g) < 2 ^ 24)

/-- cadd: the cursor moved modulo 2^48, everything else and the tag kept (R328). -/
def caddValue (c off : TagVal) : TagVal :=
  ⟨withCursor c.v ((((capCursor c.v : Nat) : Int) + (low64 off.v).toInt) % (2 ^ 48 : Nat)).toNat, c.tag⟩

/-- cbnd: bounds from the cursor, of a capability or of the launch root (R327, R329); none when it traps. -/
def cbndValue (c : TagVal) (n : Nat) : Option W128 :=
  let cur := capCursor c.v
  let base := cur / 256 * 256
  let pbase := if c.tag then capBase c.v else 0
  let ptop := if c.tag then capTop c.v else 2 ^ 48
  let sp := cur - base + n
  match granFor sp with
  | none => none
  | some g =>
    let gs := 256 * 4 ^ g
    let k := (sp + gs - 1) / gs
    if base < pbase || base + k * gs > ptop then none
    else
      let perms : BitVec 5 := if c.tag then c.v.extractLsb' 123 5 else 0x1F
      let fmt : BitVec 9 := if c.tag then c.v.extractLsb' 114 9 else 0
      some (perms ++ fmt ++ BitVec.ofNat 2 g ++ BitVec.ofNat 24 k ++ BitVec.ofNat 40 (base / 256) ++ BitVec.ofNat 48 cur)

/-- cprm: permissions ANDed with mask[4:0] (R330). -/
def cprmValue (c m : W128) : W128 := (c.extractLsb' 123 5 &&& m.extractLsb' 0 5) ++ c.extractLsb' 0 123

/-- cfmt: TYPE, LAYOUT and BLOG2 from f (R331). -/
def cfmtValue (c f : W128) : W128 :=
  c.extractLsb' 123 5 ++ f.extractLsb' 6 3 ++ f.extractLsb' 4 2 ++ f.extractLsb' 0 4 ++ c.extractLsb' 0 114

/-- cget (Table 16-5). -/
def cgetValue (c : TagVal) (key : Nat) : W64 :=
  match key with
  | 0 => BitVec.ofNat 64 (capCursor c.v)
  | 1 => BitVec.ofNat 64 (capBase c.v)
  | 2 => BitVec.ofNat 64 (capLength c.v)
  | 3 => (c.v.extractLsb' 123 5).setWidth 64
  | 4 => (c.v.extractLsb' 120 3 ++ c.v.extractLsb' 118 2 ++ c.v.extractLsb' 114 4).setWidth 64
  | 5 => if c.tag then 1 else 0
  | 6 => BitVec.ofNat 64 (capTop c.v)
  | 7 => BitVec.ofInt 64 ((capCursor c.v : Int) - capBase c.v)
  | _ => 0

/-- ctest: tagged, and the n bytes at the cursor lie within the bounds (R333). -/
def ctestValue (c : TagVal) (n : Nat) : W64 :=
  if c.tag && capBase c.v ≤ capCursor c.v && capCursor c.v + n ≤ capTop c.v then BitVec.allOnes 64 else 0

/-- topo (Table 5-2), as this core has applied the role map (R334). -/
def State.topoValue (s : State) (key : Nat) : W64 :=
  let c := s.cc
  let l := s.launch s.lid
  let r := l.record
  let cw := if r.cw = 0 then r.w.toNat else r.cw.toNat
  let pair (hi lo : Nat) : W64 := BitVec.ofNat 64 (hi * 2 ^ 32 + lo)
  match key with
  | 0 => s.mb.grade.setWidth 64
  | 1 => BitVec.ofNat 64 l.c
  | 2 => BitVec.ofNat 64 c.poolView
  | 3 => BitVec.ofNat 64 c.routesView
  | 4 => BitVec.ofNat 64 cw
  | 5 => BitVec.ofNat 64 ((l.c + cw - 1) / cw)
  | 6 => BitVec.ofNat 64 s.tileL
  | 7 => pair (s.tileL / cw) (s.tileL % cw)
  | 8 => pair r.h.toNat r.w.toNat
  | 9 => pair r.fy.toNat r.fx.toNat
  | 10 => BitVec.ofNat 64 r.nstore.toNat
  | 11 => BitVec.ofNat 64 (c.poolView * Config.sramBytes)
  | 12 => BitVec.ofNat 64 s.cur.core
  | 13 => BitVec.ofNat 64 (groupOf s.cur.core)
  | 14 => BitVec.ofNat 64 c.genView
  | _ => 0

/-! ## Meanings -/

/-- cadd (R328). -/
def execCadd (a : Args) (s : State) : Host.Outcome State Fault Refusal :=
  conclude s do
    let (c, off, t) ← s.operands2 a.ty a.s1 a.s2 [.dst a.d]
    .ok (t.writeD a.d (caddValue c off)).advance

/-- cbnd (R329). -/
def execCbnd (a : Args) (s : State) : Host.Outcome State Fault Refusal :=
  conclude s do
    let (c, n, t) ← s.operands2 a.ty a.s1 a.s2 [.dst a.d]
    match cbndValue c (low64 n.v).toNat with
    | none => trap clsCapability (capCursor c.v)
    | some v => .ok (t.writeD a.d ⟨v, true⟩).advance

/-- cprm (R327, R330). -/
def execCprm (a : Args) (s : State) : Host.Outcome State Fault Refusal :=
  conclude s do
    let (c, m, t) ← s.operands2 a.ty a.s1 a.s2 [.dst a.d]
    trapIf (!c.tag) clsCapability (capCursor c.v)
    .ok (t.writeD a.d ⟨cprmValue c.v m.v, true⟩).advance

/-- cfmt (R327, R331). -/
def execCfmt (a : Args) (s : State) : Host.Outcome State Fault Refusal :=
  conclude s do
    let (c, f, t) ← s.operands2 a.ty a.s1 a.s2 [.dst a.d]
    trapIf (!c.tag) clsCapability (capCursor c.v)
    .ok (t.writeD a.d ⟨cfmtValue c.v f.v, true⟩).advance

/-- cget (R332). -/
def execCget (a : Args) (s : State) : Host.Outcome State Fault Refusal :=
  conclude s do
    let (c, k, t) ← s.operands2 a.ty a.s1 a.s2 [.dst a.d]
    .ok (t.writeD a.d ⟨reg64 (cgetValue c (low64 k.v).toNat), false⟩).advance

/-- ctest (R333). -/
def execCtest (a : Args) (s : State) : Host.Outcome State Fault Refusal :=
  conclude s do
    let (c, n, t) ← s.operands2 a.ty a.s1 a.s2 [.dst a.d]
    .ok (t.writeD a.d ⟨reg64 (ctestValue c (low64 n.v).toNat), false⟩).advance

/-- cclr (R333). -/
def execCclr (a : Args) (s : State) : Host.Outcome State Fault Refusal := unary a s id

/-- topo (R334). -/
def execTopo (a : Args) (s : State) : Host.Outcome State Fault Refusal :=
  conclude s do
    s.meet [.dst a.d]
    .ok (s.writeD a.d ⟨reg64 (s.topoValue (srcImm a.s1).toNat), false⟩).advance

end Sys2Proof.Machine
end

