-- ==== Sys2Proof/Machine/Access.lean ====
section
/-! DEFINITION. How a core's accesses leave it: signatures (R227), the L1 (R202–R207), requests to homes (R219, R220), loads in
pieces (R221), releases and acquires (R224–R226, R230). -/

namespace Sys2Proof.Machine
open Sys2Proof

/-! ## Signatures (R227) -/

/-- First bit of a line address. -/
def sigBit1 (la : Nat) : Nat := la % 1024
/-- Second bit of a line address. -/
def sigBit2 (la : Nat) : Nat :=
  (la / 2 ^ 10 % 1024) ^^^ (la / 2 ^ 20 % 1024) ^^^ (la / 2 ^ 30 % 1024) ^^^ (la / 2 ^ 40 % 32)
/-- More than 256 bits set: all ones. -/
def sigSaturate (g : Sig) : Sig := if 256 < countOnes 1024 g.toNat then BitVec.allOnes 1024 else g
/-- Enters a line. -/
def sigEnter (g : Sig) (la : Nat) : Sig :=
  sigSaturate (g ||| BitVec.ofNat 1024 (2 ^ sigBit1 la) ||| BitVec.ofNat 1024 (2 ^ sigBit2 la))
/-- A signature marks a line. -/
def sigMarks (g : Sig) (la : Nat) : Bool := g.getLsbD (sigBit1 la) && g.getLsbD (sigBit2 la)
/-- Union of two signatures. -/
def sigUnion (g h : Sig) : Sig := sigSaturate (g ||| h)

/-- Replaces or adds a LID's home signature; when none is free the least recently written goes (R229). -/
def sigsOr (cap : Nat) (l : List HomeSig) (lid : Nat) (g : Sig) : List HomeSig :=
  let old := match l.find? (fun e => e.lid == lid && !e.gone) with | some e => e.sig | none => 0
  let rest := l.filter (fun e => e.lid != lid)
  let live := rest.filter (fun e => !e.gone)
  let rest := match live with
    | o :: _ => if live.length < cap then rest else rest.map (fun e => if e.lid == o.lid then { e with gone := true } else e)
    | [] => rest
  rest ++ [{ lid := lid, sig := sigUnion old g }]

/-- What an acquire of a LID gets at a home: its entry; without one a saturated signature (R229), but an empty one where the launch has
been resumed and the home has replaced none of it (R231). -/
def sigsGet (l : List HomeSig) (lid : Nat) (fresh : Bool) : Sig :=
  match l.find? (fun e => e.lid == lid) with
  | some e => if e.gone then BitVec.allOnes 1024 else e.sig
  | none => if fresh then 0 else BitVec.allOnes 1024

/-- A home's entry of a LID cleared at the release of a region barrier (R231). -/
def sigsClear (l : List HomeSig) (lid : Nat) : List HomeSig :=
  l.map (fun e => if e.lid == lid && !e.gone then { e with sig := 0 } else e)

/-! ## Homes and routes (R135, R136, R201) -/

/-- A place on a side of the field (R136). -/
def sidePlace (side p z : Nat) : Nat :=
  match side with
  | 0 => placeOf p 0 z
  | 1 => placeOf 511 p z
  | 2 => placeOf p 511 z
  | _ => placeOf 0 p z

/-- The first live router of a side from p on (R136). -/
def State.liveSide (s : State) (side p z fuel : Nat) : Nat :=
  match fuel with
  | 0 => sidePlace side p z
  | f + 1 => if s.routerDead (sidePlace side p z) && p < 511 then s.liveSide side (p + 1) z f else sidePlace side p z

/-- Attachment of a second-tier controller (Table 7-3). -/
def State.edgePlace (s : State) (c : Nat) : Nat := s.liveSide (c / 12) (c % 12 * 42 + 21) 0 512
/-- Attachment of the PCI Express endpoint. -/
def State.hostPlace (s : State) : Nat := s.liveSide 0 255 0 512
/-- Attachment of a peer port. -/
def State.peerPlace (s : State) (n : Nat) : Nat := s.liveSide (n / 8) (n % 8 * 64 + 32) 1 512
/-- Attachment of the management processors. -/
def State.mgmtPlace (s : State) : Nat := s.liveSide 0 256 0 512

/-- Flits a clk that the gallery port of a router carries each way: four where a second-tier controller is attached, else one (R131). -/
def State.galleryRate (s : State) (place : Nat) : Nat := if (span 0 48).any (fun c => s.edgePlace c == place) then 4 else 1

/-- A message that leaves the field by a gallery port. -/
def Packet.leavesField (p : Packet) : Bool := match p.port with | .edge _ | .host | .peer _ | .mgmt => true | _ => false

/-- Flits of a message and of the marker ahead of it. -/
def Packet.allFlits (p : Packet) : Nat := p.markFlits + p.flits

/-- A message from a gallery block: it comes in by the port's rate, after those before it (R131). -/
def State.sendIn (s : State) (p : Packet) : State :=
  let rate := s.galleryRate p.pos
  let b := Nat.max (getAt 0 p.pos s.ports) (p.ready * rate)
  ({ s with ports := putAt p.pos (b + p.allFlits) s.ports }).send { p with face := 7, ready := (b + rate - 1) / rate }

/-- The router and the block where an address is performed. -/
def State.homeOf (s : State) (pa : Nat) : Nat × Port :=
  match paRegion pa with
  | 0 => (paCore pa, .core)
  | 1 => (paCol pa * 2, .stair)
  | 2 => let c := pa % 2 ^ 48 / 2 ^ 36; (s.edgePlace c, .edge c)
  | 3 => (s.hostPlace, .host)
  | _ => let n := pa / 2 ^ 43 % 32; (s.peerPlace n, .peer n)

/-- The hall of an address's home, none outside any hall. -/
def homeHall (pa : Nat) : Option Nat :=
  match paRegion pa with
  | 0 => some (hallOf (paCore pa))
  | 1 => some (hallOf (paCol pa * 2))
  | _ => none

/-- The home is the host or a peer. -/
def homeAway (pa : Nat) : Bool := 3 ≤ paRegion pa

/-- A write-back. -/
def Req.isWriteBack (r : Req) : Bool := r.op == .writeBack

/-- Two requests touch a byte in common. -/
def Req.meets (r q : Req) : Bool := r.pa < q.pa + q.len && q.pa < r.pa + r.len

/-- A request table of `size` entries, `kept` of them reserved for write-backs, has room (R209, R211). -/
def tableRoom (rs : List Req) (size kept : Nat) (r : Req) : Bool :=
  rs.length < size && (r.isWriteBack || (rs.filter (fun q => !q.isWriteBack)).length < size - kept)

/-- A request of the stair enters the table when it has room that is not the mesh's by turn (R208) and none of its core is held ahead of it
for the same bytes; else it is held at its input (R209). -/
def Column.enterOne (clk : Nat) (c : Column) (r : Req) : Column :=
  if tableRoom (c.table.map (fun e => e.req)) 16 4 r && (r.isWriteBack || !c.meshTurn) && !(c.stairQ.any (fun q => q.core == r.core && q.meets r))
  then { c with table := c.table ++ [{ stair := true, at_ := clk, req := r }] }
  else { c with stairQ := c.stairQ ++ [r] }

/-- The requests held at the stair input that find room enter the table, in order. -/
def Column.fromStair (c : Column) (clk : Nat) : Column := c.stairQ.foldl (Column.enterOne clk) { c with stairQ := [] }

/-- A request sent toward its home: up the own column's stair, or on REQ (R219, R220), `later` clk from now. -/
def State.sendReq (s : State) (r : Req) (target : Option (Kind × Nat)) (later : Nat := 0) : State :=
  if paRegion r.pa = 1 && paCol r.pa = colOf r.core then
    s.modColumn (colOf r.core) (fun c => c.enterOne s.clk r)
  else
    let (dest, port) := s.homeOf r.pa
    s.send { vn := .req, kind := 0, lid := r.lid, src := r.core, dest := dest, final := dest, port := port
             target := target, body := .access r, pos := r.core, born := s.clk, ready := s.clk + later + s.delay r.core 4 }

/-! ## The L1 -/

/-- The lines of a set. -/
def Core.setLines (c : Core) (la : Nat) : List Line := c.l1.filter (fun l => l.la % 32 == la % 32)
/-- The line of an address. -/
def Core.line? (c : Core) (la : Nat) : Option Line := c.l1.find? (fun l => l.la == la)
/-- Replaces a line. -/
def Core.putLine (c : Core) (l : Line) : Core := { c with l1 := l :: c.l1.filter (fun m => m.la != l.la) }
/-- Drops a line. -/
def Core.dropLine (c : Core) (la : Nat) : Core := { c with l1 := c.l1.filter (fun m => m.la != la) }

/-- A byte of a line. -/
def Line.byte (l : Line) (i : Nat) : Byte := l.data.extractLsb' (8 * i) 8
/-- Both nibbles of a byte are valid. -/
def Line.validByte (l : Line) (i : Nat) : Bool := l.valid.getLsbD (2 * i) && l.valid.getLsbD (2 * i + 1)
/-- Bytes of a line. -/
def Line.bytes (l : Line) (off n : Nat) : List Byte := (span off n).map l.byte
/-- Every byte of a part is valid. -/
def Line.covers (l : Line) (off n : Nat) : Bool := (span off n).all l.validByte

/-- A byte written into a line under a nibble mask; dirty when it is a store. -/
def Line.setByte (l : Line) (i : Nat) (b : Byte) (mask : BitVec 2) (dirty : Bool) : Line :=
  let m : BitVec 256 := mask.setWidth 256 <<< (2 * i)
  let v := mixByte mask (l.byte i) b
  { l with
    data := (l.data &&& ~~~((0xFF : BitVec 1024) <<< (8 * i))) ||| (v.setWidth 1024 <<< (8 * i))
    valid := l.valid ||| m
    dirty := if dirty then l.dirty ||| m else l.dirty }

/-- Bytes of a line under a nibble mask. -/
def Line.storeBytes (l : Line) (off : Nat) (bs : List Byte) (mask : List (BitVec 2)) : Line :=
  match bs with
  | [] => l
  | b :: r => Line.storeBytes (l.setByte off b (mask.headD 3) true) (off + 1) r mask.tail

/-- A store into a line (R205): the tags of the granules touched are cleared, but an aligned .c store to local SRAM or a DRAM column
keeps its own (R199). -/
def Line.store (l : Line) (off : Nat) (bs : List Byte) (mask : List (BitVec 2)) (tag : Option Bool) : Line :=
  let gs := touched off bs mask
  let clear : BitVec 8 := BitVec.ofNat 8 ((span 0 8).foldl (fun n g => if gs.contains g then n + 2 ^ g else n) 0)
  let set : BitVec 8 := if tag = some true && off % 16 = 0 && paRegion (l.la * 128) ≤ 1 then BitVec.ofNat 8 (2 ^ (off / 16)) else 0
  { (l.storeBytes off bs mask) with gtags := (l.gtags &&& ~~~clear) ||| set }

/-- A granule of a line holds no valid part yet. -/
def Line.emptyGranule (l : Line) (g : Nat) : Bool := l.valid.extractLsb' (32 * g) 32 == 0

/-- The tag of an aligned granule that a line holds. -/
def Line.tagAt (l : Line) (pa : Nat) : Bool := pa % 16 = 0 && l.gtags.getLsbD (pa % 128 / 16)

/-- A fill of a sector brings the tags of granules that hold no valid part: each is as its home has it. -/
def Line.fillTags (l : Line) (sector : Nat) (ts : BitVec 4) : Line :=
  { l with gtags := (span 0 4).foldl (fun (v : BitVec 8) i =>
      let bit := BitVec.ofNat 8 (2 ^ (4 * sector + i))
      if l.emptyGranule (4 * sector + i) then (if ts.getLsbD i then v ||| bit else v &&& ~~~bit) else v) l.gtags }

/-- A fill writes only the parts not yet valid (R206). -/
def Line.fillBytes (l : Line) (off : Nat) (bs : List Byte) : Line :=
  match bs with
  | [] => l
  | b :: r =>
    let m : BitVec 2 := ~~~(l.valid.extractLsb' (2 * off) 2)
    Line.fillBytes (l.setByte off b m false) (off + 1) r

/-- The write-backs of a line's dirty parts, one write a sector under nibble masks (R207). -/
def Line.writeBacks (l : Line) (core ctx lid tile id : Nat) : List Req :=
  (span 0 2).filterMap (fun k =>
    let m := l.dirty.extractLsb' (128 * k) 128
    if m = 0 then none
    else some { op := .writeBack, core := core, ctx := ctx, lid := lid, l := tile, pa := l.la * 128 + 64 * k, len := 64
                data := l.bytes (64 * k) 64
                mask := (span 0 64).map (fun i => m.extractLsb' (2 * i) 2), gtags := l.gtags.extractLsb' (4 * k) 4
                key := l.key, id := id + k, whole := if l.whole.getLsbD k then some (id + k, 0) else none })

/-- An outstanding access (R219). -/
def outOf (r : Req) (device : Bool) : Out :=
  { id := r.id, ctx := r.ctx, hall := homeHall r.pa, away := homeAway r.pa
    load := (match r.op with | .load => true | .amo _ _ _ _ => true | _ => false)
    stores := (match r.op with | .store | .writeBack => true | .amo _ _ _ _ => true | _ => false), device := device, pa := r.pa, len := r.len }

/-- Sends a request that the core waits to have acknowledged. -/
def State.sendTracked (s : State) (r : Req) (device : Bool) (target : Option (Kind × Nat)) (later : Nat := 0) : State :=
  (s.modCore r.core (fun c => { c with outs := c.outs ++ [outOf r device] })).sendReq r target later

/-- A write-back goes through the write-back buffer, which one entry leaves in each clk of the core (R207, assumption log 63). -/
def State.sendWriteBack (s : State) (r : Req) : State :=
  let t := Nat.max s.clk (s.core r.core).wbNext + s.delay r.core 1
  (s.modCore r.core (fun c => { c with wbNext := t })).sendTracked r false none (t - s.clk)

/-- Entries of the write-back buffer that have not left it. -/
def State.wbHeld (s : State) (core : Nat) : Nat := ((s.core core).wbNext - s.clk + s.delay core 1 - 1) / s.delay core 1

/-- The lid and tile a core's own accesses carry. -/
def Core.who (c : Core) : Nat × Nat :=
  match c.role with
  | .host lid _ l => (lid, l)
  | _ => (0, 0)

/-- A line whose parts under a mask are clean. -/
def Line.clean (l : Line) (m : BitVec 256) : Line :=
  let d := l.dirty &&& ~~~m
  let stays (k : Nat) : BitVec 2 := if d.extractLsb' (128 * k) 128 = 0 then 0 else BitVec.ofNat 2 (2 ^ k)
  { l with dirty := d, whole := l.whole &&& (stays 0 ||| stays 1) }

/-- Writes back the dirty parts of a line that a mask names; the line stays valid, and they are clean. The write-backs belong to the
whole L1: every context's later release waits for them (R383). -/
def State.cleanParts (s : State) (core la : Nat) (m : BitVec 256) : State :=
  match (s.core core).line? la with
  | none => s
  | some l =>
    if l.dirty &&& m = 0 then s
    else
      let (lid, tile) := (s.core core).who
      let id := (s.core core).nextId
      let s := s.modCore core (fun c =>
        { (c.putLine (l.clean m)) with nextId := id + 2, acc := sigEnter c.acc la })
      (({ l with dirty := l.dirty &&& m } : Line).writeBacks core ctxAny lid tile id).foldl (fun s r => s.sendWriteBack r) s

/-- Writes back a line's dirty parts; the line stays valid and clean. -/
def State.cleanLine (s : State) (core la : Nat) : State := s.cleanParts core la (BitVec.allOnes 256)

/-- Writes back and drops a line; a line with a fill pending goes when its fill arrives (R230). -/
def State.flushLine (s : State) (core la : Nat) : State :=
  let s := s.cleanLine core la
  s.modCore core (fun c =>
    match c.line? la with
    | some l => if l.fill then c.putLine { l with doomed := true } else c.dropLine la
    | none => c)

/-- Flushes every line that a test names. -/
def State.flushLines (s : State) (core : Nat) (p : Nat → Bool) : State :=
  (((s.core core).l1.map (fun l => l.la)).filter p).foldl (fun s la => s.flushLine core la) s

/-- Cleans every line that a test names. -/
def State.cleanLines (s : State) (core : Nat) (p : Nat → Bool) : State :=
  (((s.core core).l1.map (fun l => l.la)).filter p).foldl (fun s la => s.cleanLine core la) s

/-- Before an uncached access, the sectors it touches leave the issuing core's L1 (R204, R220): the sector's dirty parts are written
back, and it is invalid, its tags with it. -/
def State.flushSector (s : State) (core pa : Nat) : State :=
  match (s.core core).line? (pa / 128) with
  | none => s
  | some l =>
    let k := pa / 64 % 2
    if l.valid.extractLsb' (128 * k) 128 = 0 then s
    else
      let keep : BitVec 256 := if k = 0 then (BitVec.allOnes 128 ++ 0#128) else (0#128 ++ BitVec.allOnes 128)
      let s := s.cleanParts core (pa / 128) (~~~keep)
      s.modCore core (fun c =>
        match c.line? (pa / 128) with
        | some m => c.putLine { m with valid := m.valid &&& keep, dirty := m.dirty &&& keep
                                       gtags := m.gtags &&& (if k = 0 then 0xF0 else 0x0F) }
        | none => c)

/-- Sectors of a line that are dirty. -/
def Line.dirtySectors (l : Line) : Nat := (if l.dirty.extractLsb' 0 128 = 0 then 0 else 1) + (if l.dirty.extractLsb' 128 128 = 0 then 0 else 1)

/-- Makes room for a line in its set: none where every way has a fill pending (R202, R206), or where the write-back buffer of four has
no room for the line that leaves (R207). -/
def State.makeRoom (s : State) (core la : Nat) : Option State :=
  let c := s.core core
  if (c.setLines la).length < c.l1Ways then some s
  else
    let old := ((c.setLines la).filter (fun l => !l.fill)).foldl (fun (b : Option Line) l =>
      match b with | none => some l | some m => if l.age < m.age then some l else some m) none
    match old with
    | none => none
    | some l =>
      if l.dirtySectors != 0 && 4 < s.wbHeld core + l.dirtySectors then none
      else some ((s.cleanLine core l.la).modCore core (fun c => c.dropLine l.la))

/-- A fresh age for a line just used. -/
def Core.nextAge (c : Core) : Nat := c.l1.foldl (fun m l => Nat.max m (l.age + 1)) 1

/-- The line of an address, allocated if it is not there; none when it must wait. -/
def State.allocLine (s : State) (core la key : Nat) : Option State :=
  match (s.core core).line? la with
  | some _ => some s
  | none =>
    match s.makeRoom core la with
    | none => none
    | some s => some (s.modCore core (fun c => c.putLine { la := la, key := key, age := c.nextAge }))

/-- A store into the L1 (R205): the line is written and entered into ACC. -/
def State.storeL1 (s : State) (core pa key : Nat) (bs : List Byte) (mask : List (BitVec 2)) (tag : Option Bool) : Option State :=
  match s.allocLine core (pa / 128) key with
  | none => none
  | some s => some (s.modCore core (fun c =>
      match c.line? (pa / 128) with
      | some l => { (c.putLine { (l.store (pa % 128) bs mask tag) with age := c.nextAge }) with acc := sigEnter c.acc (pa / 128) }
      | none => c))

/-- A delivery inside the core: a response that reaches it at a clk. -/
def State.selfRespond (s : State) (core delay : Nat) (r : Rsp) : State :=
  s.send { vn := .rsp, kind := 1, src := core, dest := core, final := core, body := .response r, pos := core, inner := true
           born := s.clk, ready := s.clk + s.delay core delay }

/-- A producer's delivery to a register of a core, `delay` of its clk from now (R176). -/
def State.deliverLater (s : State) (core delay : Nat) (t : BitVec 16) (v : TagVal) (poison : Option (BitVec 8))
    (sig : Option Sig) : State :=
  s.selfRespond core delay { op := .store, ticket := some t, fill := v, poison := poison, sig := sig }

/-- Asks for both sectors of a line (R206). -/
def State.askFill (s : State) (core ctx la key : Nat) (target : Option (Kind × Nat)) : State :=
  let (lid, tile) := (s.core core).who
  (span 0 2).foldl (fun s k => s.sendReq
    { op := .lineFill, core := core, ctx := ctx, lid := lid, l := tile, pa := la * 128 + 64 * k, len := 64, key := key } target) s

/-- A load's piece through the L1: a hit fills 4 clk later (R205), a miss joins or takes a miss entry (R206); none when the
request must be held. -/
def State.loadL1 (s : State) (core ctx join off pa len key : Nat) : Option State :=
  let la := pa / 128
  let w : Waiter := ⟨join, off, pa, len⟩
  let wait (s : State) : Option State :=
    if (s.core core).misses.any (fun m => m.la == la) then
      some (s.modCore core (fun c => { c with misses := c.misses.map (fun m =>
        if m.la == la then { m with waiters := m.waiters ++ [w] } else m) }))
    else if 8 ≤ (s.core core).misses.length then none
    else
      match s.allocLine core la key with
      | none => none
      | some s =>
        let s := s.modCore core (fun c =>
          match c.line? la with
          | some l => { (c.putLine { l with fill := true, age := c.nextAge }) with misses := c.misses ++ [⟨la, 2, [w]⟩] }
          | none => c)
        some (s.askFill core ctx la key none)
  match (s.core core).line? la with
  | some l =>
    -- a line that a signature has marked serves no later load (R225, R230)
    if l.doomed then none
    else if l.covers (pa % 128) len then
      let s := s.modCore core (fun c => c.putLine { l with age := c.nextAge })
      some (s.selfRespond core 4
        { op := .load, ctx := ctx, join := join, off := off, pa := pa, data := l.bytes (pa % 128) len, tag := l.tagAt pa })
    else wait s
  | none => wait s

/-! ## Loads and stores of a context -/

/-- Accesses of the context wait: an acquire not yet in effect (R225), or an earlier device-ordered access (R376). -/
def State.gateAccess (s : State) (device : Bool) : Res Unit := do
  parkIf (!s.cx.acquires.isEmpty) s .order
  parkIf (device && s.cc.outs.any (fun o => o.ctx == s.cur.ctx && o.device)) s .order

/-- A dirty line is written back by a release of a scope (Table 11-1). -/
def lineInScope (sc : Scope) (hall la : Nat) : Bool :=
  match sc with
  | .core => false
  | .hall => homeHall (la * 128) == some hall
  | _ => true

/-- A pending fence.rel holds the context's later stores, messages, engine commands, twin-window writes and sev until the
accesses it names are acknowledged (R226). -/
def State.gateSignal (s : State) : Res Unit :=
  match s.fenceHolds with
  | none => .ok ()
  | some (sc, b) => .error (.park s (.acks sc b))

/-- Steps 1 and 2 of a release (R224): it waits for the accesses that the scope names, writes the named dirty sectors back,
and waits for those. When it goes on, the state is as step 3 finds it. -/
def State.release (s : State) (sc : Scope) : Res State :=
  let h := hallOf s.cur.core
  match s.cx.relBound with
  | none =>
    let b := s.cc.nextId
    if s.cc.waiting s.cur.ctx h sc b then .error (.park s (.acks sc b))
    else
      let dirty := s.cc.l1.any (fun l => l.dirty != 0 && lineInScope sc h l.la)
      if dirty then
        let t := s.cleanLines s.cur.core (fun la => lineInScope sc h la)
        let b := t.cc.nextId
        .error (.park (t.modCx (fun x => { x with relBound := some b })) (.acks sc b))
      else .ok s
  | some b =>
    if s.cc.waiting s.cur.ctx h sc b then .error (.park s (.acks sc b))
    else .ok (s.modCx (fun x => { x with relBound := none }))

/-- The signature a release of a scope publishes: none at core scope or when it is empty (R224, R228). -/
def Core.published (c : Core) (sc : Scope) : Option Sig := if sc = .core || c.acc = 0 then none else some c.acc

/-- A signature applied to a core's L1 (R230). -/
def State.applySig (s : State) (core : Nat) (g : Sig) : State :=
  (s.flushLines core (fun la => sigMarks g la)).modCore core (fun c => { c with acc := sigUnion c.acc g })

/-- The whole L1 invalidated, dirty parts written back (R226). -/
def State.invalidateL1 (s : State) (core : Nat) : State := s.flushLines core (fun _ => true)

/-- Records a release's signature at an own-SRAM home (R229). -/
def State.homeSigOr (s : State) (core lid : Nat) (g : Option Sig) : State :=
  match g with
  | none => s
  | some g => s.modCore core (fun c => { c with sigs := sigsOr 4 c.sigs lid g })

/-- Watches on the sectors that `n` bytes touch fire: each sends its event (R395, R397). -/
def fireWatches (ws : List Watch) (pa n : Nat) : List Watch × List Watch :=
  ws.partition (fun w => n != 0 && pa / 64 ≤ w.sector && w.sector ≤ (pa + n - 1) / 64)

/-- A message of the machine's own from a place to a place (Table 7-1); it has reached the first router 4 clk later (R140). -/
def State.post (s : State) (vn : VN) (kind lid src dest : Nat) (port : Port) (target : Option (Kind × Nat)) (body : Body) : State :=
  s.send { vn := vn, kind := kind, lid := lid, src := src, dest := dest, final := dest, port := port, target := target
           body := body, pos := src, born := s.clk, ready := s.clk + s.delay src 4 }

/-- A message that a hall controller sends from its router. It does not wait there behind others that the controller sends in the same clk
(R477, assumption log 97). -/
def State.ctlPost (s : State) (vn : VN) (kind lid src dest : Nat) (port : Port) (target : Option (Kind × Nat)) (body : Body) : State :=
  s.send { vn := vn, kind := kind, lid := lid, src := src, dest := dest, final := dest, port := port, target := target, face := 32 + s.sent
           body := body, pos := src, born := s.clk, ready := s.clk + s.delay src 4 }

/-- A message that the home of an address sends: by the local port of its core, by the stair of its column or by a gallery port. -/
def State.sendFrom (s : State) (pa : Nat) (p : Packet) : State :=
  match paRegion pa with
  | 0 => s.send p
  | 1 => s.send { p with face := 6 }
  | _ => s.sendIn p

/-- An event for contexts of the core that sends it: it stays in the core and sets the latches 3 clk later (DEDUCED, assumption log 78). -/
def State.eventInside (s : State) (core lid : Nat) (ctx : Option Nat) : State :=
  s.send { vn := .hi, kind := 6, lid := lid, src := core, dest := core, final := core, body := .event ctx, pos := core, inner := true
           born := s.clk, ready := s.clk + s.delay core 3 }

/-- An event sent from the home of an address to a core (R395). -/
def State.sendEvent (s : State) (pa dest lid : Nat) (ctx : Option Nat) : State :=
  let src := (s.homeOf pa).1
  if paRegion pa = 0 && src = dest then s.eventInside dest lid ctx
  else s.sendFrom pa { vn := .hi, kind := 6, lid := lid, src := src, dest := dest, final := dest, body := .event ctx, pos := src
                       born := s.clk, ready := s.clk + s.delay src 4 }

/-- The watch entries of an address's home. -/
def State.watchesAt (s : State) (pa : Nat) : List Watch :=
  match paRegion pa with
  | 0 => (s.core (paCore pa)).watches
  | 1 => (s.column (paCol pa)).watches
  | 2 => (s.edge (pa % 2 ^ 48 / 2 ^ 36)).watches
  | 3 => []
  | _ => (s.edge (64 + pa / 2 ^ 43 % 32)).watches

/-- Sets them. -/
def State.setWatches (s : State) (pa : Nat) (ws : List Watch) : State :=
  match paRegion pa with
  | 0 => s.modCore (paCore pa) (fun c => { c with watches := ws })
  | 1 => s.modColumn (paCol pa) (fun c => { c with watches := ws })
  | 2 => s.modEdge (pa % 2 ^ 48 / 2 ^ 36) (fun e => { e with watches := ws })
  | 3 => s
  | _ => s.modEdge (64 + pa / 2 ^ 43 % 32) (fun e => { e with watches := ws })

/-- Fires the watches that a write at its home meets. -/
def State.fireAt (s : State) (pa n : Nat) : State :=
  let (hit, rest) := fireWatches (s.watchesAt pa) pa n
  if hit.isEmpty then s
  else hit.foldl (fun s w => s.sendEvent pa w.core w.lid (some w.ctx)) (s.setWatches pa rest)

/-- Blocks of a pool slot written since it was granted (R88). -/
def Core.noteWritten (c : Core) (pa n : Nat) : Core :=
  match c.role with
  | .host _ .pool _ => { c with written := (granules (pa % 2 ^ 18) n).foldl (fun l g => tagPut (g / 256) l) c.written }
  | _ => c

/-- The blocks of a pool slot that a write at its home touches are noted (R88). -/
def State.noteWrite (s : State) (pa n : Nat) : State :=
  if paRegion pa = 0 then s.modCore (paCore pa) (fun c => c.noteWritten pa n) else s

/-- A write performed at a home outside the second tier: bytes, tag, watches. -/
def State.storeHome (s : State) (pa : Nat) (bs : List Byte) (mask : List (BitVec 2)) (tag : Option Bool) : State :=
  ((s.noteWrite pa bs.length).store pa bs mask tag).fireAt pa bs.length

/-- Sends to a re-cast target are held until its markers return (R95). -/
def State.gateTarget (s : State) (t : Option (Kind × Nat)) : Res Unit :=
  parkIf (match t with
    | none => false
    | some (k, i) => s.cc.holds.any (fun h => h.kind == k && h.idx == i)) s .heldTarget

/-- No piece goes to a held target. -/
def State.gateTargets (s : State) (ps : List (Piece × Target)) : Res Unit :=
  match ps with
  | [] => .ok ()
  | p :: r => do
    s.gateTarget (if p.2.own then none else p.2.target)
    s.gateTargets r

/-- One request for each sector that pieces of a gather touch, over the bytes from the first to the last of them (R214, R381). -/
def coalesce (ps : List (Piece × Target)) : List (Piece × Target) :=
  ps.foldl (fun (rs : List (Piece × Target)) p =>
    if rs.any (fun r => r.2.pa / 64 == p.2.pa / 64) then
      rs.map (fun r =>
        if r.2.pa / 64 == p.2.pa / 64 then
          let lo := Nat.min r.2.pa p.2.pa
          let hi := Nat.max (r.2.pa + r.1.len) (p.2.pa + p.1.len)
          ({ r.1 with len := hi - lo }, { r.2 with pa := lo })
        else r)
    else rs ++ [p]) []

/-- A load's pieces that the L1 takes (R204): cached ones of a load that is no acquire. -/
def Target.inL1 (g : Target) (acq : Bool) (ways : Nat) : Bool := g.cached && !acq && 0 < ways

/-- Bytes entered at an offset. -/
def bufPut (buf : List (Nat × Byte)) (off : Nat) (bs : List Byte) : List (Nat × Byte) :=
  match bs with
  | [] => buf
  | b :: r => bufPut (putAt off b buf) (off + 1) r

/-- The bytes of local pieces, read in the issue clk (R219); a damaged sector fails the load (R210). -/
def State.localPart (s : State) (buf : List (Nat × Byte)) (ps : List (Piece × Target)) : List (Nat × Byte) :=
  ps.foldl (fun b p => bufPut b p.1.off (Memory.readN s.mem p.2.pa p.1.len)) buf

/-- A load of pieces that are not all local: a join, a ticket, the local pieces read at once, and every other piece through the L1 or
to its home (R219, R375), the lanes of a gather coalesced (R381). Nothing is sent when any piece must be held. An acquire goes to its
home, and gets the home signature when its scope has one. -/
def State.sendLoad (s : State) (d : BitVec 6) (fmt : LoadFmt) (acq getSig : Bool) (ps : List (Piece × Target)) : Res State := do
  let device := ps.any (fun p => p.2.device)
  s.gateAccess device
  s.gateTargets ps
  parkIf s.cc.ticketsFull s .ticket
  let (t, s1) := s.touch ps |>.takeTicket 0x0 d
  let id := s1.cc.nextId
  let core := s.cur.core
  let ctx := s.cur.ctx
  let near := ps.filter (fun p => p.2.own)
  let far := ps.filter (fun p => !p.2.own)
  let lanes := match fmt with | .lanes _ => true | _ => false
  let hits := far.filter (fun p => p.2.inL1 acq s1.cc.l1Ways)
  let rest := far.filter (fun p => !p.2.inL1 acq s1.cc.l1Ways)
  let sent := if lanes then coalesce rest else rest
  let s2 := s1.modCc (fun c => { c with
    nextId := id + 1
    joins := c.joins ++ [{ id := id, ctx := ctx, ticket := some t, left := hits.length + sent.length, fmt := fmt, acq := acq
                           buf := s.localPart [] near, failed := near.any (fun p => s.damaged p.2.pa)
                           parts := if lanes then rest.map (fun p => (p.1.off, p.2.pa, p.1.len)) else [] }]
    outs := c.outs ++ (hits ++ sent).map (fun p => { id := id, ctx := ctx, hall := homeHall p.2.pa, away := homeAway p.2.pa, load := true
                                                     device := p.2.device, pa := p.2.pa, len := p.1.len }) })
  let s2 := if acq then s2.modCx (fun x => { x with acquires := x.acquires ++ [id] }) else s2
  let (lid, tile) := s2.cc.who
  (hits ++ sent).foldl (fun (r : Res State) p => do
    let st ← r
    if p.2.inL1 acq st.cc.l1Ways then
      match st.loadL1 core ctx id p.1.off p.2.pa p.1.len p.2.key with
      | some u => .ok u
      | none => .error (.park s .missTable)
    else
      .ok ((st.flushSector core p.2.pa).sendReq
        { op := .load, core := core, ctx := ctx, lid := lid, l := tile, pa := p.2.pa, len := p.1.len, key := p.2.key
          join := id, off := p.1.off, id := id, acq := getSig } p.2.target)) (.ok s2)

/-- The sector of an address, in the L1, holds part of a store of several sectors (R65). -/
def Core.markWhole (c : Core) (pa : Nat) : Core :=
  match c.line? (pa / 128) with
  | some l => c.putLine { l with whole := l.whole ||| BitVec.ofNat 2 (2 ^ (pa / 64 % 2)) }
  | none => c

/-- A store of bytes in pieces that are not all local, or local at issue: into the L1, to the home, or performed in its issue
clk (R219, R375), where a damaged sector raises MEMORY (R264). `rel` is the signature a release carries; a release goes to its home. Local
pieces of a shadowed store are left out: they are performed 3 clk later. -/
def State.sendStore (s : State) (bs : List Byte) (mask : List (BitVec 2)) (tag : Option Bool) (rel : Bool) (sig : Option Sig)
    (shadowed : Bool) (ps : List (Piece × Target)) : Res State := do
  s.gateAccess (ps.any (fun p => p.2.device))
  s.gateTargets ps
  let core := s.cur.core
  let (lid, tile) := s.cc.who
  ps.foldl (fun (r : Res State) p => do
    let st ← r
    let part := (bs.drop p.1.off).take p.1.len
    let pmask := (mask.drop p.1.off).take p.1.len
    if p.2.own then
      .ok (if shadowed then st
           else if st.damaged p.2.pa then st.faultAsync lid clsMemory tile core (BitVec.ofNat 64 p.2.pa)
           else (st.storeHome p.2.pa part pmask tag).homeSigOr core lid sig)
    else if p.2.inL1 rel st.cc.l1Ways then
      match st.storeL1 core p.2.pa p.2.key part pmask tag with
      | some u => .ok (if ps.length ≤ 1 then u else u.modCore core (fun c => c.markWhole p.2.pa))
      | none => .error (.park s .missTable)
    else
      let st := st.flushSector core p.2.pa
      let id := st.cc.nextId
      let st := st.modCc (fun c => { c with nextId := id + 1, acc := sigEnter c.acc (p.2.pa / 128) })
      .ok (st.sendTracked
        { op := .store, core := core, ctx := s.cur.ctx, lid := lid, l := tile, pa := p.2.pa, len := p.1.len, data := part, mask := pmask
          tag := tag, key := p.2.key, id := id, rel := sig
          whole := if ps.length ≤ 1 then none else some (s.cc.nextId, ps.length) } p.2.device p.2.target)) (.ok (s.touch ps))

end Sys2Proof.Machine
end

