-- ==== Sys2Proof/Machine/Format.lean ====
section
/-! DEFINITION. Number formats (spec 12): decoding, the rounding modes, encoding with overflow and saturation, conversions, and
exact arithmetic on the decoded values. A finite value is a sign, a magnitude and a power of two. -/

namespace Sys2Proof.Machine
open Sys2Proof

/-- A decoded number: NaN, an infinity, or (-1)^neg * m * 2^e. -/
inductive FVal where
  | nan
  | inf (neg : Bool)
  | fin (neg : Bool) (m : Nat) (e : Int)
  deriving DecidableEq, Repr

/-- A format: its width, precision, the exponent of its least magnitude bit, its largest finite magnitude code, and whether
it has a sign, infinities and the IEEE layout (R239, R242). -/
structure Fmt where
  width : Nat
  p : Nat
  qmin : Int
  maxCode : Nat
  nan : Nat
  inf : Bool
  sgn : Bool
  ieee : Bool
  deriving DecidableEq, Repr

/-- .f32 (Table 12-1). -/
def fmtF32 : Fmt := ⟨32, 24, -149, 0x7F7FFFFF, 0x7FC00000, true, true, true⟩
/-- .bf16. -/
def fmtBf16 : Fmt := ⟨16, 8, -133, 0x7F7F, 0x7FC0, true, true, true⟩
/-- .f16. -/
def fmtF16 : Fmt := ⟨16, 11, -24, 0x7BFF, 0x7E00, true, true, true⟩

/-- A member of a narrow family of `k` bits and precision `p` (R242, R243, Table 12-2). -/
def fmtNarrow (k p : Nat) (sgn inf : Bool) : Fmt :=
  let w := if sgn then k - p else k - p + 1
  let bias := 2 ^ (w - 1)
  let top := if sgn then 2 ^ (k - 1) - 1 else 2 ^ k - 2
  { width := k, p := p, qmin := 2 - (bias : Int) - p, maxCode := if inf then top - 1 else top
    nan := if sgn then 2 ^ (k - 1) else 2 ^ k - 1, inf := inf, sgn := sgn, ieee := false }

/-- The binary8 member of s.fmc (Table 9-8). -/
def fmtF8 (fmc : BitVec 14) : Fmt :=
  fmtNarrow 8 (Nat.min (fmc.extractLsb' 0 3).toNat 6 + 1) (fmc.getLsbD 3) (fmc.getLsbD 4)
/-- The binary4 member of s.fmc. -/
def fmtF4 (fmc : BitVec 14) : Fmt :=
  fmtNarrow 4 (Nat.min (fmc.extractLsb' 5 2).toNat 2 + 1) (fmc.getLsbD 7) (fmc.getLsbD 8)

/-- The format of a float type. -/
def fmtOf (fmc : BitVec 14) (t : Ty) : Fmt :=
  match t with
  | .bf16 => fmtBf16
  | .f16 => fmtF16
  | .f8 => fmtF8 fmc
  | .f4 => fmtF4 fmc
  | _ => fmtF32

/-- The rules that an instruction reads from s.fmc: mode, saturation, flushing (R246). -/
structure Rules where
  rnd : Nat := 0
  sat : Bool := false
  ftz : Bool := false
  deriving DecidableEq, Repr

/-- Round to nearest even, nothing else. -/
def rulesRne : Rules := {}
/-- The rules of s.fmc; stochastic rounding, where it is absent, is RNE (R247). -/
def rulesOf (fmc : BitVec 14) (stochastic : Bool) : Rules :=
  let r := (fmc.extractLsb' 9 3).toNat
  { rnd := if r = 7 || (r = 6 && !stochastic) then 0 else r, sat := fmc.getLsbD 12, ftz := fmc.getLsbD 13 }
/-- Reductions and dots round by RNE under mode 6 (R253). -/
def Rules.noDraw (r : Rules) : Rules := if r.rnd = 6 then { r with rnd := 0 } else r

/-! ## The generator (R247) -/

/-- One step of xorshift32. -/
def xorshift (x : BitVec 32) : BitVec 32 :=
  let x := x ^^^ (x <<< 13)
  let x := x ^^^ (x >>> 17)
  x ^^^ (x <<< 5)

/-- `n` draws and the seed after them. -/
def drawMany (n : Nat) (seed : BitVec 32) : List (BitVec 32) × BitVec 32 :=
  match n with
  | 0 => ([], seed)
  | k + 1 =>
    let x := xorshift seed
    let (r, t) := drawMany k x
    (x :: r, t)

/-! ## Rounding (R245) -/

/-- Whether a magnitude rounds up: lo is odd or not, and the rest is r / 2^k of the last place (Table 12-5). -/
def roundsUp (rnd : Nat) (draw : BitVec 32) (neg loOdd : Bool) (r k : Nat) : Bool :=
  if r = 0 then false
  else match rnd with
  | 1 => false
  | 2 => neg
  | 3 => !neg
  | 4 => 2 ^ k ≤ 2 * r
  | 5 => !loOdd
  | 6 => 2 ^ 32 ≤ r * 2 ^ 32 / 2 ^ k + draw.toNat
  | _ => 2 ^ k < 2 * r || (2 ^ k = 2 * r && loOdd)

/-- The magnitude code of m * 2^e rounded, as if exponents had no upper limit. -/
def roundCode (f : Fmt) (rnd : Nat) (draw : BitVec 32) (neg : Bool) (m : Nat) (e : Int) : Nat :=
  if m = 0 then 0
  else
    let q := max f.qmin (e + Nat.log2 m - (f.p - 1 : Nat))
    let up := (e - q).toNat
    let k := (q - e).toNat
    let n := m * 2 ^ up / 2 ^ k
    let r := m * 2 ^ up % 2 ^ k
    let lo := if n < 2 ^ (f.p - 1) then n else (q - f.qmin + 1).toNat * 2 ^ (f.p - 1) + (n - 2 ^ (f.p - 1))
    if roundsUp rnd draw neg (lo % 2 = 1) r k then lo + 1 else lo

/-- A magnitude code with its sign; a negative nonzero value of an unsigned member is 0 or NaN (R248 step 5). -/
def Fmt.withSign (f : Fmt) (sat neg : Bool) (c : Nat) : Nat :=
  if !neg then c
  else if c = 0 then (if f.ieee then 2 ^ (f.width - 1) else 0)
  else if f.sgn then 2 ^ (f.width - 1) + c
  else if sat then 0
  else f.nan

/-- SAT governs a result of this format (R249). -/
def Fmt.saturates (f : Fmt) (r : Rules) : Bool := r.sat && f.width != 32

/-- An exact value encoded: rounding, flushing, overflow, infinities, signs (R248–R250, Table 12-7). -/
def encodeVal (f : Fmt) (r : Rules) (draw : BitVec 32) (v : FVal) : Nat :=
  let sat := f.saturates r
  match v with
  | .nan => f.nan
  | .inf neg => if sat then f.withSign sat neg f.maxCode else if f.inf then f.withSign sat neg (f.maxCode + 1) else f.nan
  | .fin neg m e =>
    let c := roundCode f r.rnd draw neg m e
    let c := if r.ftz && f.ieee && c < 2 ^ (f.p - 1) then 0 else c
    if c ≤ f.maxCode then f.withSign sat neg c
    else if sat then f.withSign sat neg f.maxCode
    else if !f.inf then f.nan
    else
      let big := match r.rnd with
        | 1 => f.maxCode
        | 5 => f.maxCode
        | 2 => if neg then f.maxCode + 1 else f.maxCode
        | 3 => if neg then f.maxCode else f.maxCode + 1
        | _ => f.maxCode + 1
      f.withSign sat neg big

/-! ## Decoding -/

/-- Sign and magnitude code. -/
def Fmt.parts (f : Fmt) (c : Nat) : Bool × Nat :=
  if f.sgn then (c / 2 ^ (f.width - 1) % 2 = 1, c % 2 ^ (f.width - 1)) else (false, c % 2 ^ f.width)

/-- A code is NaN. -/
def Fmt.isNan (f : Fmt) (c : Nat) : Bool := if f.ieee then f.maxCode + 1 < (f.parts c).2 else c % 2 ^ f.width == f.nan

/-- A code's value (R239, R242). -/
def Fmt.decode (f : Fmt) (c : Nat) : FVal :=
  let (neg, m) := f.parts c
  if f.isNan c then .nan
  else if f.inf && m = f.maxCode + 1 then .inf neg
  else
    let h := 2 ^ (f.p - 1)
    if m < h then .fin neg m f.qmin else .fin neg (h + m % h) (f.qmin + (m / h : Nat) - 1)

/-- A code with a subnormal IEEE input flushed (R241). -/
def Fmt.flush (f : Fmt) (ftz : Bool) (c : Nat) : Nat :=
  if ftz && f.ieee && (f.parts c).2 < 2 ^ (f.p - 1) then c - (f.parts c).2 else c

/-- A lane's value as an instruction of pages 2 and 3 reads it (R350 step 1). -/
def Fmt.input (f : Fmt) (ftz : Bool) (c : Nat) : FVal := f.decode (f.flush ftz c)

/-! ## Exact arithmetic -/

/-- The sign of a number that is not NaN. -/
def FVal.neg : FVal → Bool
  | .nan => false
  | .inf n => n
  | .fin n _ _ => n

/-- The sign inverted. -/
def FVal.negate : FVal → FVal
  | .nan => .nan
  | .inf n => .inf (!n)
  | .fin n m e => .fin (!n) m e

/-- A finite value as a multiple of 2^k, for k no greater than its exponent. -/
def scaled (neg : Bool) (m : Nat) (e k : Int) : Int :=
  let x : Int := (m * 2 ^ (e - k).toNat : Nat)
  if neg then -x else x

/-- The exact sum; an exact cancellation is -0 when `rdn` (R350 step 5). -/
def FVal.add (rdn : Bool) (a b : FVal) : FVal :=
  match a, b with
  | .nan, _ => .nan
  | _, .nan => .nan
  | .inf x, .inf y => if x = y then .inf x else .nan
  | .inf x, _ => .inf x
  | _, .inf y => .inf y
  | .fin x m e, .fin y n g =>
    if m = 0 && n = 0 then .fin (if x = y then x else rdn) 0 0
    else
      let k := min e g
      let t := scaled x m e k + scaled y n g k
      if t = 0 then .fin rdn 0 0 else .fin (t < 0) t.natAbs k

/-- The exact product. -/
def FVal.mul (a b : FVal) : FVal :=
  match a, b with
  | .nan, _ => .nan
  | _, .nan => .nan
  | .inf x, .inf y => .inf (x != y)
  | .inf x, .fin y n _ => if n = 0 then .nan else .inf (x != y)
  | .fin x m _, .inf y => if m = 0 then .nan else .inf (x != y)
  | .fin x m e, .fin y n g => .fin (x != y) (m * n) (e + g)

/-- Bits of quotients and roots beyond those any format rounds at; one more bit holds whether anything is left below. -/
def extraBits : Nat := 320

/-- The quotient, exact down to a last bit that is set when it is not exact. -/
def FVal.div (a b : FVal) : FVal :=
  match a, b with
  | .nan, _ => .nan
  | _, .nan => .nan
  | .inf _, .inf _ => .nan
  | .inf x, .fin y _ _ => .inf (x != y)
  | .fin x _ _, .inf y => .fin (x != y) 0 0
  | .fin x m e, .fin y n g =>
    if n = 0 then (if m = 0 then .nan else .inf (x != y))
    else
      let t := m * 2 ^ extraBits
      .fin (x != y) (t / n * 2 + (if t % n = 0 then 0 else 1)) (e - g - extraBits - 1)

/-- Integer square root by bits, from bit `k - 1` down. -/
def rootBits (n k r : Nat) : Nat :=
  match k with
  | 0 => r
  | j + 1 => if (r + 2 ^ j) ^ 2 ≤ n then rootBits n j (r + 2 ^ j) else rootBits n j r

/-- Integer square root. -/
def isqrt (n : Nat) : Nat := rootBits n (Nat.log2 n / 2 + 1) 0

/-- The square root, exact down to a last bit that is set when it is not exact (R354). -/
def FVal.sqrt (a : FVal) : FVal :=
  match a with
  | .nan => .nan
  | .inf n => if n then .nan else .inf false
  | .fin n m e =>
    if m = 0 then .fin n 0 0
    else if n then .nan
    else
      let odd : Nat := if e % 2 = 0 then 0 else 1
      let t := m * 2 ^ odd * 4 ^ extraBits
      let r := isqrt t
      .fin false (r * 2 + (if r * r = t then 0 else 1)) ((e - odd) / 2 - extraBits - 1)

/-- a < b, for numbers that are not NaN; zeros are equal. -/
def FVal.lt (a b : FVal) : Bool :=
  match a, b with
  | .nan, _ => false
  | _, .nan => false
  | .inf x, .inf y => x && !y
  | .inf x, _ => x
  | _, .inf y => !y
  | .fin x m e, .fin y n g => let k := min e g; scaled x m e k < scaled y n g k

/-- NaN. -/
def FVal.isNan : FVal → Bool
  | .nan => true
  | _ => false

/-! ## Approximations (R355) -/

/-- Rounded to 12 significant bits by RNE, with no bound on the exponent. -/
def FVal.to12 (v : FVal) : FVal :=
  match v with
  | .fin n m e =>
    if m < 4096 then v
    else
      let k := Nat.log2 m - 11
      let lo := m / 2 ^ k
      .fin n (if roundsUp 0 0 false (lo % 2 = 1) (m % 2 ^ k) k then lo + 1 else lo) (e + k)
  | v => v

/-- Fraction bits of the fixed-point series. -/
def seriesBits : Nat := 256

/-- Sum of z^(2k+1) / (2k+1), the inverse hyperbolic tangent of z = n / d, from the k-th term on, in fixed point. -/
def atanhTerms (pow n d k fuel : Nat) : Nat :=
  match fuel with
  | 0 => 0
  | f + 1 => pow / (2 * k + 1) + atanhTerms (pow * (n * n) / (d * d)) n d (k + 1) f

/-- ln((d + n) / (d - n)) for n / d at most 1/3. -/
def lnRatio (n d : Nat) : Nat := 2 * atanhTerms (2 ^ seriesBits * n / d) n d 0 90

/-- ln 2. -/
def ln2Fix : Nat := lnRatio 1 3

/-- exp of y in fixed point, from the k-th term on. -/
def expTerms (term y k fuel : Nat) : Nat :=
  match fuel with
  | 0 => 0
  | f + 1 => term + expTerms (term * y / 2 ^ seriesBits / (k + 1)) y (k + 1) f

/-- 2^x for a fraction 0 ≤ x < 1 in fixed point. -/
def exp2Fix (x : Nat) : Nat :=
  if x = 0 then 2 ^ seriesBits else expTerms (2 ^ seriesBits) (x * ln2Fix / 2 ^ seriesBits) 0 80

/-- log2 of 1 ≤ m / 2^k < 2 in fixed point. -/
def log2Fix (m k : Nat) : Nat := if m = 2 ^ k then 0 else lnRatio (m - 2 ^ k) (m + 2 ^ k) * 2 ^ seriesBits / ln2Fix

/-- 1/a (Table 17-6). -/
def FVal.rcp (a : FVal) : FVal :=
  match a with
  | .inf n => .fin n 0 0
  | a => (FVal.div (.fin false 1 0) a).to12

/-- 1/√a. -/
def FVal.rsq (a : FVal) : FVal :=
  match a with
  | .nan => .nan
  | .inf n => if n then .nan else .fin false 0 0
  | .fin n m e =>
    if m = 0 then .inf n
    else if n then .nan
    else
      -- 1/√(m·2^e) = √(2^(2k) / m') · 2^(-k - e'/2), with m' of even exponent
      let odd : Nat := if e % 2 = 0 then 0 else 1
      let d := m * 2 ^ odd
      let t := 4 ^ extraBits / d
      let r := isqrt t
      let exact := r * r * d = 4 ^ extraBits
      (FVal.fin false (r * 2 + (if exact then 0 else 1)) (-(e - odd) / 2 - extraBits - 1)).to12

/-- 2^a; exponents beyond ±4096 act alike in every format. -/
def FVal.exp2 (a : FVal) : FVal :=
  match a with
  | .nan => .nan
  | .inf n => if n then .fin false 0 0 else .inf false
  | .fin n m e =>
    let big := 0 < e + Nat.log2 m - 12 && m ≠ 0
    if big then .fin false 1 (if n then -5000 else 5000)
    else
      let fix : Nat := if 0 ≤ e + seriesBits then m * 2 ^ (e + seriesBits).toNat else m / 2 ^ (-(e + seriesBits)).toNat
      let x : Int := if n then -(fix : Int) else fix
      let whole := x / (2 ^ seriesBits : Nat)
      let frac := (x % (2 ^ seriesBits : Nat)).toNat
      (FVal.fin false (exp2Fix frac) (whole - seriesBits)).to12

/-- log2 a. -/
def FVal.log2 (a : FVal) : FVal :=
  match a with
  | .nan => .nan
  | .inf n => if n then .nan else .inf false
  | .fin n m e =>
    if m = 0 then .inf true
    else if n then .nan
    else
      let k := Nat.log2 m
      let t : Int := (e + k) * (2 ^ seriesBits : Nat) + log2Fix m k
      (FVal.fin (t < 0) t.natAbs (-(seriesBits : Int))).to12

/-! ## Conversions (R248–R251, R365) -/

/-- A type's number in a lane is an integer. -/
def isIntTy (t : Ty) : Bool :=
  match t with
  | .f32 | .bf16 | .f16 | .f8 | .f4 => false
  | _ => true

/-- The integer range of a type. -/
def intRange (t : Ty) : Int × Int :=
  if t.signed then (-(2 ^ (t.bits - 1) : Nat), (2 ^ (t.bits - 1) : Nat) - 1) else (0, (2 ^ t.bits : Nat) - 1)

/-- An integer saturated to a type's range, as a lane. -/
def saturateInt (t : Ty) (x : Int) : Nat :=
  let (lo, hi) := intRange t
  wrapLane t.bits (max lo (min hi x))

/-- A value rounded to an integer, then saturated; NaN gives 0 (R251). -/
def toInt (t : Ty) (r : Rules) (draw : BitVec 32) (v : FVal) : Nat :=
  match v with
  | .nan => 0
  | .inf n => saturateInt t (if n then (intRange t).1 else (intRange t).2)
  | .fin n m e =>
    let k := (-e).toNat
    let x := m * 2 ^ e.toNat
    let lo := x / 2 ^ k
    let up := if roundsUp r.rnd draw n (lo % 2 = 1) (x % 2 ^ k) k then lo + 1 else lo
    saturateInt t (if n then -(up : Int) else up)

/-- An integer as an exact value; zero is +0 (R250). -/
def ofInt (x : Int) : FVal := .fin (x < 0) x.natAbs 0

/-- The largest finite value. -/
def Fmt.largest (f : Fmt) : FVal := f.decode f.maxCode

/-- Every value of the source type is representable in the target, so the conversion takes no draw (R250, R365). -/
def exactPair (fmc : BitVec 14) (src dst : Ty) : Bool :=
  if isIntTy dst then isIntTy src
  else
    let g := fmtOf fmc dst
    if isIntTy src then
      let n := if src.signed then src.bits - 1 else src.bits
      (g.sgn || !src.signed) && n ≤ g.p && !(FVal.lt g.largest (ofInt ((2 ^ n : Nat) - 1)))
    else
      let f := fmtOf fmc src
      (g.sgn || !f.sgn) && f.p ≤ g.p && g.qmin ≤ f.qmin && !(FVal.lt g.largest f.largest) && (g.inf || !f.inf)

/-- One element converted; a conversion that draws is given its draw. -/
def convert (fmc : BitVec 14) (r : Rules) (draw : BitVec 32) (src dst : Ty) (c : Nat) : Nat :=
  if isIntTy src then
    let x := laneInt src c
    if isIntTy dst then (if src.bits < dst.bits then (x % 2 ^ dst.bits).toNat else saturateInt dst x) else encodeVal (fmtOf fmc dst) r draw (ofInt x)
  else
    let v := (fmtOf fmc src).input r.ftz c
    if isIntTy dst then toInt dst r draw v else encodeVal (fmtOf fmc dst) r draw v

/-- A sum in .f32 rounded by RNE (R262). -/
def addF32 (a b : Nat) : Nat := encodeVal fmtF32 rulesRne 0 (FVal.add false (fmtF32.decode a) (fmtF32.decode b))

/-- vmax and max.f32 of two codes: the other one for a NaN, NaN for two, -0 below +0 (R356). -/
def maxCode (f : Fmt) (a b : Nat) : Nat :=
  let x := f.decode a
  let y := f.decode b
  if x.isNan && y.isNan then f.nan
  else if x.isNan then b
  else if y.isNan then a
  else if FVal.lt x y then b
  else if FVal.lt y x then a
  else if x.neg then b else a

/-- vmin and min.f32 of two codes (R356). -/
def minCode (f : Fmt) (a b : Nat) : Nat :=
  let x := f.decode a
  let y := f.decode b
  if x.isNan && y.isNan then f.nan
  else if x.isNan then b
  else if y.isNan then a
  else if FVal.lt x y then a
  else if FVal.lt y x then b
  else if x.neg then a else b

/-- The greater magnitude, sign cleared; NaN if either is (R357). -/
def amaxCode (f : Fmt) (a b : Nat) : Nat :=
  if f.isNan a || f.isNan b then f.nan else Nat.max (f.parts a).2 (f.parts b).2

end Sys2Proof.Machine
end

