-- ==== Sys2Proof/Machine/Loads.lean ====
section
/-! DEFINITION. How bytes become a register (R377, R379, R381), where an element lies through a capability (R200), and how a
load, local or not, is issued (R375, R378). -/

namespace Sys2Proof.Machine
open Sys2Proof

/-! ## Element layout (R200) -/

/-- The place of an element after the layout's swap. -/
def layoutIndex (cap : W128) (e : Nat) : Nat :=
  if capLayout cap = 1 then e / 256 * 256 + e % 16 * 16 + e / 16 % 16 else e

/-- The bit offset of an element from base. -/
def elemBit (cap : W128) (e : Nat) : Nat :=
  let size := (capTy cap).bits
  let p := layoutIndex cap e
  let b := capBlog2 cap
  if b = 0 then p * size
  else
    let n := 2 ^ b
    let blk := p / n
    let gbytes := 16 + 16 * n * size / 8
    8 * (blk / 16 * gbytes + 16) + (blk % 16 * n + p % n) * size

/-- The byte offset of the scale of an element's block; none without block scales. -/
def scaleByteOff (cap : W128) (e : Nat) : Option Nat :=
  let b := capBlog2 cap
  if b = 0 then none
  else
    let blk := layoutIndex cap e / 2 ^ b
    some (blk / 16 * (16 + 16 * 2 ^ b * (capTy cap).bits / 8) + blk % 16)

/-- The byte offsets of an element's code. -/
def elemBytes (cap : W128) (e : Nat) : List Nat := span (elemBit cap e / 8) (Nat.max 1 ((capTy cap).bits / 8))

/-- A capability that ldf, stf or a converting copy may read elements through (R200). -/
def layoutOk (cap : W128) : Bool :=
  capLayout cap < 2 && (capBlog2 cap = 0 || (capTy cap).isFloat)

/-! ## Buffers -/

/-- A byte of a load's buffer. -/
def bufByte (buf : List (Nat × Byte)) (off : Nat) : Byte := getAt 0 off buf
/-- A number of `n` bytes. -/
def bufNat (buf : List (Nat × Byte)) (off n : Nat) : Nat := bytesNat ((span off n).map (bufByte buf))

/-- An element's code from a buffer keyed by byte offset from base. -/
def elemCode (cap : W128) (buf : List (Nat × Byte)) (e : Nat) : Nat :=
  let n := (capTy cap).bits
  let b := elemBit cap e
  if n = 4 then (bufByte buf (b / 8)).toNat / 2 ^ (b % 8) % 16 else bufNat buf (b / 8) (n / 8)

/-- An element's value: its code decoded, times its block's factor (R244, R379). -/
def elemValue (fmc : BitVec 14) (cap : W128) (buf : List (Nat × Byte)) (e : Nat) : FVal :=
  let v := (fmtOf fmc (capTy cap)).decode (elemCode cap buf e)
  match scaleByteOff cap e with
  | none => v
  | some o =>
    let k := (bufByte buf o).toNat
    if k = 255 then .nan
    else match v with
      | .fin n m x => .fin n m (x + k - 127)
      | v => v

/-- The register value of an item of a type (R377). -/
def itemValue (t : Ty) (n : Nat) : W128 :=
  match t with
  | .b | .c => BitVec.ofNat 128 n
  | t => reg64 (BitVec.ofInt 64 (laneInt t n))

/-- What a load writes from its bytes and the granule's tag. -/
def LoadFmt.result (f : LoadFmt) (buf : List (Nat × Byte)) (tag : Bool) : TagVal :=
  match f with
  | .item t keep => ⟨itemValue t (bufNat buf 0 (t.bits / 8)), keep && tag⟩
  | .lanes _ => ⟨BitVec.ofNat 128 (bufNat buf 0 16), false⟩
  | .hart => {}
  | .conv t cap e0 k fmc draws =>
    let g := fmtOf fmc t
    let r := rulesOf fmc true
    ⟨ofLanes t.bits ((span 0 k).map (fun i => encodeVal g r (draws.getD i 0) (elemValue fmc cap buf (e0 + i)))), false⟩

/-! ## Issuing a load -/

/-- The bytes of pieces that all lie in the issuing core's own local SRAM. -/
def State.ownBytes (s : State) (ps : List (Piece × Target)) : List (Nat × Byte) :=
  s.localPart [] ps

/-- The tag of the granule a .c load reads. -/
def State.firstTag (s : State) (ps : List (Piece × Target)) : Bool :=
  match ps with
  | p :: _ => s.tagOf p.2.pa
  | [] => false

/-- A scope under which an acquire applies a signature (Table 11-1). -/
def scopeSigned (sc : Scope) : Bool := sc != .core

/-- The home signature a local acquire gets (R229, R378). -/
def State.ownSig (s : State) : Sig := sigsGet s.cc.sigs s.lid (s.launch s.lid).sigsFresh

/-- A load whose pieces have been checked: local ones land 3 clk later, others make d PENDING (R375), and are in flight until they are
answered where they carry L > 0 (R301). -/
def State.issueLoad (s : State) (a : Args) (fmt : LoadFmt) (acq : Option Scope) (ps : List (Piece × Target)) : Res State :=
  if allOwn ps then do
    s.gateAccess false
    let v := fmt.result (s.ownBytes ps) (s.firstTag ps)
    let id := s.cc.nextId
    match acq with
    | none => .ok (s.issueShadow 3 a.look { ctx := s.cur.ctx, d := a.d, val := v, reads := ps.map (fun p => p.2.pa)
                                            ready := 0, pc := 0, look := 0 })
    | some sc =>
      let t := (s.modCc (fun c => { c with nextId := id + 1 })).modCx (fun x => { x with acquires := x.acquires ++ [id] })
      .ok (t.issueShadow 3 a.look { ctx := s.cur.ctx, d := a.d, val := v, reads := ps.map (fun p => p.2.pa)
                                    ready := 0, pc := 0, look := 0, acq := some id, sig := if scopeSigned sc then some s.ownSig else none })
  else do
    let t ← s.sendLoad a.d fmt acq.isSome (match acq with | some sc => scopeSigned sc | none => false) ps
    .ok (if a.look = 0 then t.advance
         else (t.advanceWith false).modCc (fun c => { c with
           shadows := c.shadows ++ [{ ctx := s.cur.ctx, d := 62, val := {}, ready := 0, pc := s.cx.pc, look := a.look.toNat, away := some s.cc.nextId }] }))

/-- The sources of an instruction popped: what taking them does to channels and streams (R187, R188). -/
def State.popSrcs (s : State) (xs : List Src) : State := xs.foldl (fun s x => (s.takeSrc .x x).2) s

/-- A failed bounds check of a value-returning access: its destination is POISONED BOUNDS in the issue clk (R374). -/
def State.poisonBounds (s : State) (d : BitVec 6) : State :=
  (s.setRegAt s.cur.core s.cur.ctx d.toNat (Reg.poison pzBounds)).advance

/-- The address of an operand: its cursor, or its plain address (R198). -/
def addrOf (c : TagVal) : Nat := capCursor c.v

/-- Sector runs of a rising list of byte offsets: start and length (R221). -/
def sectorRuns (base : Nat) (offs : List Nat) : List (Nat × Nat) :=
  (offs.foldl (fun (rs : List (Nat × Nat)) o =>
    match rs with
    | (st, n) :: r => if (base + st) / 64 = (base + o) / 64 then (st, Nat.max n (o - st + 1)) :: r else (o, 1) :: rs
    | [] => [(o, 1)]) []).reverse

/-- The byte offsets that elements touch, rising, with or without their scales. -/
def elemOffsets (cap : W128) (scales : Bool) (es : List Nat) : List Nat :=
  es.foldl (fun l e =>
    let l := (elemBytes cap e).foldl (fun l o => tagPut o l) l
    match scaleByteOff cap e with
    | some o => if scales then tagPut o l else l
    | none => l) []

/-- Pieces of the byte runs at offsets from base, keyed by offset. -/
def runPieces (base : Nat) (runs : List (Nat × Nat)) : List Piece :=
  runs.map (fun r => ⟨(base + r.1) % 2 ^ 48, r.1, r.2⟩)

/-- The checks of ldf, stf and mbld-like element accesses: a tagged capability with the permission and a legal format
(R379, R380), then bounds over every byte touched (R374). -/
def State.checkElems (s : State) (c : TagVal) (needR needW : Bool) (offs : List Nat) : Res Access := do
  trapIf (!c.tag || (needR && !capR c.v) || (needW && !capW c.v) || !(capTy c.v).isFloat || !layoutOk c.v)
    clsCapability (addrOf c)
  if offs.any (fun o => capLength c.v ≤ o) then .ok .oob
  else s.resolve needW (runPieces (capBase c.v) (sectorRuns (capBase c.v) offs))

/-- s.fmc as ldf, stf and a converting copy latch it: no flushing (R246, Table 12-6), and RNE for an absent mode 6. -/
def State.latchFmc (s : State) : BitVec 14 :=
  let f := s.cc.fmc &&& 0x1FFF
  if (f.extractLsb' 9 3).toNat = 6 && !s.out.stochastic then f &&& 0x11FF else f

/-- The draws of ldf and stf: one a lane under mode 6, none for an exact pair without block scales (R379). -/
def State.elemDraws (s : State) (src dst : Ty) (cap : W128) (k : Nat) : List (BitVec 32) × State :=
  let fmc := s.latchFmc
  if (fmc.extractLsb' 9 3).toNat = 6 && !(exactPair fmc src dst && capBlog2 cap = 0) then
    let (ds, seed) := drawMany k s.cc.seed
    (ds, s.modCc (fun c => { c with seed := seed }))
  else ([], s)

/-- Lanes that a count selects (R379). -/
def laneCount (t : Ty) (cnt : BitVec 6) : Nat := if cnt = 0 then t.lanes else cnt.toNat

/-- Pieces of the lanes of a gather or scatter (R381). -/
def lanePieces (t : Ty) (base : Nat) (ix : W128) : List Piece :=
  let w := t.bits
  (span 0 (128 / w)).flatMap (fun i =>
    let va := (((base : Int) + signedLane w (laneAt w i ix) * (w / 8 : Nat)) % (2 ^ 48 : Nat)).toNat
    (piecesOf va (w / 8)).map (fun p => { p with off := p.off + i * (w / 8) }))

/-- Every lane is aligned to its width. -/
def lanesAligned (t : Ty) (base : Nat) (ix : W128) : Bool :=
  (lanePieces t base ix).all (fun p => p.off % (t.bits / 8) != 0 || p.va % (t.bits / 8) == 0)

end Sys2Proof.Machine
end

