-- ==== Sys2Proof/Machine/MemInstr.lean ====
section
/-! DEFINITION. Loads, stores, format-decoding and indexed forms, and cache control, page 4 (spec 18 R374–R384). -/

namespace Sys2Proof.Machine
open Sys2Proof

/-! ## ld and st (R377, R378) -/

/-- ld. -/
def execLd (ord : Ord) (sc : Scope) (a : Args) (s : State) : Host.Outcome State Fault Refusal :=
  conclude s do
    let (c, _) ← s.operand1 a.ty a.s1 [.dst a.d]
    let r ← s.checkAccess c (addrOf c) (a.ty.bits / 8) true false
    match r with
    | .oob => .ok ((s.popSrcs [a.s1]).poisonBounds a.d)
    | .ok ps =>
      let keep := a.ty == .c && c.tag && capC c.v
      let t ← s.issueLoad a (.item a.ty keep) (if ord = .plain then none else some sc) ps
      .ok (t.popSrcs [a.s1])

/-- A store's order: a release performs steps 1 and 2 first; its signature goes with it (R224, R378). -/
def State.beforeStore (s : State) (rel : Bool) (sc : Scope) : Res (State × Option Sig) := do
  s.gateSignal
  if rel then
    let t ← s.release sc
    .ok (t, t.cc.published sc)
  else .ok (s, none)

/-- The local parts of a shadowed store of the current context, issued at `pc`: each is performed 3 clk later (R375). -/
def State.shadowStores (s : State) (look : BitVec 4) (bs : List Byte) (tag : Option Bool) (sig : Option Sig) (pc : VAddr)
    (ps : List (Piece × Target)) : State :=
  ps.foldl (fun (t : State) p => t.modCc (fun c => { c with
    shadows := c.shadows ++ [{ ctx := s.cur.ctx, d := 62, val := {}, ready := s.clk + s.delay s.cur.core 3, pc := pc
                               store := some (p.2.pa, (bs.drop p.1.off).take p.1.len, tag), rel := sig, look := look.toNat }] })) s

/-- The parts of a shadowed store of the current context that have been sent to other homes, issued at `pc`: in flight until each is
acknowledged (R301). -/
def State.awayStores (s : State) (look : BitVec 4) (pc : VAddr) (ids : List Nat) : State :=
  ids.foldl (fun (t : State) id => t.modCc (fun c => { c with
    shadows := c.shadows ++ [{ ctx := s.cur.ctx, d := 62, val := {}, ready := 0, pc := pc, look := look.toNat, away := some id }] })) s

/-- The numbers of the current context's stores that have been sent since a state. -/
def State.sentSince (t s : State) : List Nat :=
  (t.cc.outs.filter (fun o => o.ctx == s.cur.ctx && o.stores && s.cc.nextId ≤ o.id)).map (fun o => o.id)

/-- A store that is performed at issue meets no uncorrectable soft error in the core's own SRAM (R264). -/
def State.needSound (s : State) (look : BitVec 4) (ps : List (Piece × Target)) : Res Unit :=
  match ps.find? (fun p => p.2.own && s.damaged p.2.pa) with
  | some p => trapIf (look = 0) clsMemory p.2.pa
  | none => .ok ()

/-- A checked store: its local parts in the issue clk, or 3 clk later when it is shadowed with L > 0; the others sent (R375). With L > 0 it
is in flight until every part has been performed or acknowledged (R301). -/
def State.issueStore (s : State) (look : BitVec 4) (bs : List Byte) (mask : List (BitVec 2)) (tag : Option Bool) (rel : Bool)
    (sig : Option Sig) (ps : List (Piece × Target)) : Res State := do
  let near := if look = 0 then [] else ps.filter (fun p => p.2.own)
  let t ← s.sendStore bs mask tag rel sig (look != 0) ps
  let ids := if look = 0 then [] else t.sentSince s
  .ok (if near.isEmpty && ids.isEmpty then t.advance
       else ((t.advanceWith false).shadowStores look bs tag sig s.cx.pc near).awayStores look s.cx.pc ids)

/-- st. -/
def execSt (ord : Ord) (sc : Scope) (a : Args) (s : State) : Host.Outcome State Fault Refusal :=
  conclude s do
    let (c, v, _) ← s.operands2 a.ty a.s1 a.s2 []
    let n := a.ty.bits / 8
    let r ← s.checkAccess c (addrOf c) n false true
    match r with
    | .oob => trap clsBounds (addrOf c)
    | .ok ps =>
      let keep := a.ty == .c && v.tag && c.tag && capC c.v && addrOf c % 16 == 0
      s.needSound a.look ps
      let (s, sig) ← s.beforeStore (ord != .plain) sc
      let t ← s.issueStore a.look (natBytes n v.v.toNat) [] (some keep) (ord != .plain) sig ps
      .ok (t.popSrcs [a.s1, a.s2])

/-! ## ldf and stf (R379, R380) -/

/-- ldf. -/
def execLdf (cnt : BitVec 6) (a : Args) (s : State) : Host.Outcome State Fault Refusal :=
  conclude s do
    let (c, e, _) ← s.operands2 .x a.s1 a.s2 [.dst a.d]
    let k := laneCount a.ty cnt
    let e0 := (low64 e.v).toNat
    let r ← s.checkElems c true false (elemOffsets c.v true (span e0 k))
    match r with
    | .oob => .ok ((s.popSrcs [a.s1, a.s2]).poisonBounds a.d)
    | .ok ps =>
      let (ds, t) := s.elemDraws (capTy c.v) a.ty c.v k
      match t.issueLoad a (.conv a.ty c.v e0 k s.latchFmc ds) none ps with
      | .ok t => .ok (t.popSrcs [a.s1, a.s2])
      | .error (.park _ p) => .error (.park s p)
      | .error e => .error e

/-- The bytes of element codes with their nibble masks, keyed by byte offset. -/
def elemWrites (cap : W128) (es : List (Nat × Nat)) : List (Nat × (Byte × BitVec 2)) :=
  es.foldl (fun l (e, code) =>
    let b := elemBit cap e
    if (capTy cap).bits = 4 then
      let (old, m) := getAt ((0 : Byte), (0 : BitVec 2)) (b / 8) l
      if b % 8 = 0 then putAt (b / 8) (mixByte 1 old (BitVec.ofNat 8 code), m ||| 1) l
      else putAt (b / 8) (mixByte 2 old (BitVec.ofNat 8 (code * 16)), m ||| 2) l
    else
      (natBytes ((capTy cap).bits / 8) code).foldl
        (fun (q : Nat × List (Nat × (Byte × BitVec 2))) x => (q.1 + 1, putAt q.1 (x, 3) q.2)) (b / 8, l) |>.2) []

/-- Masked writes laid out run by run: the pieces over one list of bytes and masks, untouched gaps under empty masks. -/
def layRuns (base : Nat) (ws : List (Nat × (Byte × BitVec 2))) : List Piece × List Byte × List (BitVec 2) :=
  (sectorRuns base (ws.map (fun w => w.1))).foldl (fun (ps, bs, ms) (st, n) =>
    let cell := (span st n).map (fun o => getAt ((0 : Byte), (0 : BitVec 2)) o ws)
    (ps ++ [⟨(base + st) % 2 ^ 48, bs.length, n⟩], bs ++ cell.map (fun x => x.1), ms ++ cell.map (fun x => x.2))) ([], [], [])

/-- stf. -/
def execStf (ord : Ord) (sc : Scope) (cnt : BitVec 6) (a : Args) (s : State) : Host.Outcome State Fault Refusal :=
  conclude s do
    s.meet ([.src a.d] ++ srcMeet a.s1 ++ srcMeet a.s2)
    let (c, s1) := s.takeCode a.d
    let (v, s2) := s1.takeSrc a.ty a.s1
    let (e, _) := s2.takeSrc .x a.s2
    let k := laneCount a.ty cnt
    let e0 := (low64 e.v).toNat
    let r ← s.checkElems c false true (elemOffsets c.v false (span e0 k))
    match r with
    | .oob => trap clsBounds (addrOf c)
    | .ok _ =>
      let (ds, t) := s.elemDraws a.ty (capTy c.v) c.v k
      let fmc := s.latchFmc
      let codes := (span 0 k).map (fun i =>
        (e0 + i, convert fmc (rulesOf fmc true) (ds.getD i 0) a.ty (capTy c.v) (laneAt a.ty.bits i v.v)))
      let (ps, bs, ms) := layRuns (capBase c.v) (elemWrites c.v codes)
      let r ← s.resolve true ps
      match r with
      | .oob => trap clsBounds (addrOf c)
      | .ok ps =>
        let (s, sig) ← s.beforeStore (ord != .plain) sc
        let u ← s.issueStore 0 bs ms (some false) (ord != .plain) sig ps
        .ok ((u.popSrcs [.reg a.d, a.s1, a.s2]).modCc (fun k => { k with seed := t.cc.seed }))

/-! ## ldg and stg (R381) -/

/-- The checks of a gather or scatter: permission, every lane's bounds, translation, alignment. -/
def State.checkLanes (s : State) (t : Ty) (c : TagVal) (ix : W128) (needR needW : Bool) : Res Access := do
  let base := addrOf c
  let ps := lanePieces t base ix
  let first := match ps with | p :: _ => p.va | [] => base
  trapIf (c.tag && ((needR && !capR c.v) || (needW && !capW c.v))) clsCapability first
  if c.tag && ps.any (fun p => !capCovers c.v p.va p.len) then .ok .oob
  else
    let r ← s.resolve needW ps
    match r with
    | .oob => .ok .oob
    | .ok qs => do
      trapIf (!lanesAligned t base ix) clsCommand 1
      .ok (.ok qs)

/-- The address of the first lane that fails a bounds check. -/
def State.badLane (s : State) (t : Ty) (c : TagVal) (ix : W128) : Nat :=
  match (lanePieces t (addrOf c) ix).find? (fun p =>
      (c.tag && !capCovers c.v p.va p.len) || s.xlateCur p.va true == .oob) with
  | some p => p.va
  | none => addrOf c

/-- ldg. -/
def execLdg (a : Args) (s : State) : Host.Outcome State Fault Refusal :=
  conclude s do
    let (c, ix, _) ← s.operands2 a.ty a.s1 a.s2 [.dst a.d]
    let r ← s.checkLanes a.ty c ix.v true false
    match r with
    | .oob => .ok ((s.popSrcs [a.s1, a.s2]).poisonBounds a.d)
    | .ok ps =>
      let t ← s.issueLoad a (.lanes a.ty) none ps
      .ok (t.popSrcs [a.s1, a.s2])

/-- stg. -/
def execStg (a : Args) (s : State) : Host.Outcome State Fault Refusal :=
  conclude s do
    s.meet ([.src a.d] ++ srcMeet a.s1 ++ srcMeet a.s2)
    let (c, s1) := s.takeCode a.d
    let (v, s2) := s1.takeSrc a.ty a.s1
    let (ix, _) := s2.takeSrc a.ty a.s2
    let r ← s.checkLanes a.ty c ix.v false true
    match r with
    | .oob => trap clsBounds (s.badLane a.ty c ix.v)
    | .ok ps =>
      s.needSound a.look ps
      s.gateSignal
      let t ← s.issueStore a.look (natBytes 16 v.v.toNat) [] (some false) false none ps
      .ok (t.popSrcs [.reg a.d, a.s1, a.s2])

/-! ## Cache control (R382–R384) -/

/-- pref: it never traps but by POISON_USE, and does nothing where a fails a check or the line would not be cached. -/
def execPref (a : Args) (s : State) : Host.Outcome State Fault Refusal :=
  conclude s do
    let (c, t) ← s.operand1 a.ty a.s1 []
    let va := addrOf c
    if c.tag && (!capR c.v || !capCovers c.v va 1) then .ok t.advance
    else
      match s.xlateCur va false with
      | .miss => .error (.park s (.walk (BitVec.ofNat 48 va)))
      | .ok g =>
        let u := if g.cached && 0 < t.cc.l1Ways then
            let la := g.pa / 128
            if (t.cc.misses.any (fun m => m.la == la)) || 8 ≤ t.cc.misses.length then t
            else if (match t.cc.line? la with | some l => l.covers 0 128 | none => false) then t
            else match t.allocLine t.cur.core la g.key with
              | none => t
              | some t => (t.modCc (fun k => match k.line? la with
                  | some l => { (k.putLine { l with fill := true, age := k.nextAge }) with misses := k.misses ++ [⟨la, 2, []⟩] }
                  | none => k)).askFill t.cur.core t.cur.ctx la g.key none
          else t
        .ok u.advance
      | _ => .ok t.advance

/-- cwb and cinv: one line, or every line for z (R383). -/
def onLine (a : Args) (s : State) (one : State → Nat → State) (all : State → State) : Host.Outcome State Fault Refusal :=
  if a.s1 = .reg 62 then conclude s (.ok (all s).advance)
  else
    conclude s do
      let (c, t) ← s.operand1 a.ty a.s1 []
      let va := addrOf c
      match s.xlateCur va false with
      | .miss => .error (.park s (.walk (BitVec.ofNat 48 va)))
      | .ok g => .ok (if g.cached then one t (g.pa / 128) else t).advance
      | _ => .ok t.advance

/-- cwb. -/
def execCwb (a : Args) (s : State) : Host.Outcome State Fault Refusal :=
  onLine a s (fun t la => t.cleanLine t.cur.core la) (fun t => t.cleanLines t.cur.core (fun _ => true))

/-- cinv. -/
def execCinv (a : Args) (s : State) : Host.Outcome State Fault Refusal :=
  onLine a s (fun t la => t.flushLine t.cur.core la) (fun t => t.invalidateL1 t.cur.core)

/-- A range of memory written with zero, and its tags cleared. -/
def State.zeroRange (s : State) (pa n : Nat) : State :=
  { s with mem := s.mem.filter (fun c => !(pa ≤ c.1 && c.1 < pa + n))
           tags := s.tags.filter (fun g => !(pa ≤ 16 * g && 16 * g < pa + n)) }

/-- The lines that leave when the L1 shrinks to `n` ways: in each set all but the `n` most recently used (assumption log 12). -/
def Core.leaving (c : Core) (n : Nat) : List Line :=
  c.l1.filter (fun l => n ≤ ((c.setLines l.la).filter (fun m => l.age < m.age)).length)

/-- lmways (R202, R203, R384). -/
def execLmways (a : Args) (s : State) : Host.Outcome State Fault Refusal :=
  let n := Nat.min (srcImm a.s1).toNat 8
  let old := s.cc.l1Ways
  let out := s.cc.leaving n
  conclude s do
    parkIf (out.any (fun l => l.fill)) s .missTable
    let t := out.foldl (fun (t : State) l => t.flushLine t.cur.core l.la) s
    let t := if n < old then t.zeroRange (sramPa t.cur.core ((8 - old) * 0x1000)) ((old - n) * 0x1000)
             else t.zeroRange (sramPa t.cur.core ((8 - n) * 0x1000)) ((n - old) * 0x1000)
    .ok (t.modCc (fun c => { c with l1Ways := n })).advance

end Sys2Proof.Machine
end

