-- ==== Sys2Proof/Machine/Atomic.lean ====
section
/-! DEFINITION. Atomics and fences (spec 18 R385–R389, spec 11 R224–R226). -/

namespace Sys2Proof.Machine
open Sys2Proof

/-- The item of an atomic that its home writes (Table 18-5), by the op of Table 18-2. -/
def amoNew (op : Nat) (t : Ty) (old v cmp : Nat) : Nat :=
  let w := t.bits
  let x := v % 2 ^ w
  match op with
  | 0 => (old + x) % 2 ^ w
  | 1 => old &&& x
  | 2 => old ||| x
  | 3 => old ^^^ x
  | 4 => if laneInt t old ≤ laneInt t x then old else x
  | 5 => if laneInt t old ≤ laneInt t x then x else old
  | 6 => x
  | 7 => if old = cmp % 2 ^ w then x else old
  | _ => addF32 old x

/-- An atomic on bytes: the old item and the bytes written (R385). -/
def amoBytes (op : Nat) (t : Ty) (v cmp : W128) (bs : List Byte) : W128 × List Byte :=
  let old := bytesNat bs
  (BitVec.ofNat 128 old, natBytes (t.bits / 8) (amoNew op t old v.toNat cmp.toNat))

/-- A checked atomic issued: at its home in this clk when it is local, and sent otherwise (R385). -/
def State.issueAmo (s : State) (a : Args) (op : Nat) (v cmp : W128) (acq : Bool) (sc : Scope) (sig : Option Sig) (p : Target) :
    Res State := do
  s.gateAccess p.device
  s.gateTarget (if p.own then none else p.target)
  let wants := a.d != 62
  parkIf (wants && s.cc.ticketsFull) s .ticket
  let core := s.cur.core
  let ctx := s.cur.ctx
  let id := s.cc.nextId
  let (lid, tile) := s.cc.who
  let (ticket, t) := if wants then (fun q => (some q.1, q.2)) (s.takeTicket 0x0 a.d) else (none, s)
  let t := t.modCc (fun c => { c with nextId := id + 1 })
  let t := if acq then t.modCx (fun x => { x with acquires := x.acquires ++ [id] }) else t
  if p.own then
    let (old, bs) := amoBytes op a.ty v cmp (Memory.readN s.mem p.pa (a.ty.bits / 8))
    let bad := s.damaged p.pa
    let t := if bad then (if wants then t else t.faultAsync lid clsMemory tile core (BitVec.ofNat 64 p.pa))
             else (t.storeHome p.pa bs [] none).homeSigOr core lid sig
    let got := if acq && scopeSigned sc then some t.ownSig else none
    .ok (t.selfRespond core 3 { op := .amo op a.ty v cmp, ctx := ctx, id := id, pa := p.pa, ticket := ticket
                                fill := ⟨old, false⟩, sig := got, acq := acq, failed := bad })
  else
    let t := (t.flushSector core p.pa).modCc (fun c => { c with acc := sigEnter c.acc (p.pa / 128) })
    .ok (t.sendTracked { op := .amo op a.ty v cmp, core := core, ctx := ctx, lid := lid, l := tile, pa := p.pa
                         len := a.ty.bits / 8, key := p.key, id := id, ticket := ticket, rel := sig
                         acq := acq && scopeSigned sc } p.device p.target)

/-- The atomics (R385–R388). -/
def amo (op : Nat) (ord : Ord) (sc : Scope) (a : Args) (s : State) : Host.Outcome State Fault Refusal :=
  conclude s do
    let cas := op == 7
    s.meet (srcMeet a.s1 ++ srcMeet a.s2 ++ (if cas then [.src a.d] else []) ++ [.dst a.d])
    let (c, s1) := s.takeSrc a.ty a.s1
    let (v, s2) := s1.takeSrc a.ty a.s2
    let cmp := if cas then (s2.takeCode a.d).1.v else 0
    let va := addrOf c
    let n := a.ty.bits / 8
    let r ← s.checkAccess c va n true true
    match r with
    | .oob => if a.d = 62 then trap clsBounds va else .ok ((s.popSrcs [a.s1, a.s2]).poisonBounds a.d)
    | .ok ps => do
      trapIf (va % n != 0) clsCommand 1
      trapIf (ps.any (fun p => paRegion p.2.pa == 3)) clsCommand 2
      let rel := ord == .rel || ord == .ar
      let (s, sig) ← s.beforeStore rel sc
      match ps with
      | p :: _ =>
        let t ← (s.touch ps).issueAmo a op v.v cmp (ord == .acq || ord == .ar) sc sig p.2
        .ok (t.popSrcs [a.s1, a.s2]).advance
      | [] => .ok s.advance

/-- amoadd. -/
def execAmoadd (ord : Ord) (sc : Scope) (a : Args) (s : State) : Host.Outcome State Fault Refusal := amo 0 ord sc a s
/-- amoand. -/
def execAmoand (ord : Ord) (sc : Scope) (a : Args) (s : State) : Host.Outcome State Fault Refusal := amo 1 ord sc a s
/-- amoor. -/
def execAmoor (ord : Ord) (sc : Scope) (a : Args) (s : State) : Host.Outcome State Fault Refusal := amo 2 ord sc a s
/-- amoxor. -/
def execAmoxor (ord : Ord) (sc : Scope) (a : Args) (s : State) : Host.Outcome State Fault Refusal := amo 3 ord sc a s
/-- amomin. -/
def execAmomin (ord : Ord) (sc : Scope) (a : Args) (s : State) : Host.Outcome State Fault Refusal := amo 4 ord sc a s
/-- amomax. -/
def execAmomax (ord : Ord) (sc : Scope) (a : Args) (s : State) : Host.Outcome State Fault Refusal := amo 5 ord sc a s
/-- amoswp. -/
def execAmoswp (ord : Ord) (sc : Scope) (a : Args) (s : State) : Host.Outcome State Fault Refusal := amo 6 ord sc a s
/-- amocas: compare is the old d, met as a source (R387). -/
def execAmocas (ord : Ord) (sc : Scope) (a : Args) (s : State) : Host.Outcome State Fault Refusal := amo 7 ord sc a s
/-- amofadd (R388). -/
def execAmofadd (ord : Ord) (sc : Scope) (a : Args) (s : State) : Host.Outcome State Fault Refusal := amo 8 ord sc a s

/-! ## Fences (R226, R389) -/

/-- Step 2 of a fence.rel of a context (R226): the scope's dirty sectors are written back, and later signals wait for them too. -/
def State.fenceWrite (s : State) (core ctx : Nat) (sc : Scope) : State :=
  let h := hallOf core
  let t := s.cleanLines core (fun la => lineInScope sc h la)
  t.modCore core (fun c => c.modCtx ctx (fun x =>
    { x with relFence := (x.relFence.filter (fun f => c.waiting ctx h f.1 f.2)) ++ [(sc, c.nextId)] }))

/-- Each fence.rel of a context still in step 1 whose named accesses are all acknowledged goes on to step 2, also where its task has ended
meanwhile (R226). -/
def State.fenceStep (s : State) (core ctx : Nat) : State :=
  let c := s.core core
  let (stay, go) := (c.ctx ctx).relWait.partition (fun f => c.waiting ctx (hallOf core) f.1 f.2)
  if go.isEmpty then s
  else go.foldl (fun (s : State) f => s.fenceWrite core ctx f.1)
    (s.modCore core (fun c => c.modCtx ctx (fun x => { x with relWait := stay })))

/-- The fences of a core's contexts after an access of it has been acknowledged or has returned. -/
def State.fenceSteps (s : State) (core : Nat) : State := (span 0 5).foldl (fun (s : State) x => s.fenceStep core x) s

/-- fence.rel: step 1 waits for the accesses the scope names, then step 2 follows (R226). -/
def State.fenceRel (s : State) (sc : Scope) : State :=
  (s.modCx (fun x => { x with relWait := x.relWait ++ [(sc, s.cc.nextId)] })).fenceStep s.cur.core s.cur.ctx

/-- fence.acq: earlier loads have returned, then the whole L1 is invalidated unless the scope is core (R226). -/
def State.fenceAcq (s : State) (sc : Scope) : Res State := do
  let b := s.cc.nextId
  parkIf (s.cc.loading s.cur.ctx b) s (.loads b)
  .ok (if sc = .core then s else s.invalidateL1 s.cur.core)

/-- fence. A fence.rel issues at once, also while an acquire is pending: it is no memory access (R225, R226). -/
def execFence (k : FenceKind) (sc : Scope) (_ : Args) (s : State) : Host.Outcome State Fault Refusal :=
  conclude s do
    match k with
    | .rel => .ok (s.fenceRel sc).advance
    | .acq => do
      s.gateAccess false
      let t ← s.fenceAcq sc
      .ok t.advance
    | .full => do
      let t ← s.release sc
      t.gateAccess false
      let u ← t.fenceAcq sc
      .ok u.advance

end Sys2Proof.Machine
end

