-- ==== Sys2Proof/Machine/Crypto.lean ====
section
/-! DEFINITION. The algorithms that spec 03 names and does not define: SHA-256, HMAC-SHA-256 and ECDSA over P-256 (R45, R46, R48,
R53), as FIPS 180-4, FIPS 198-1 and FIPS 186-5 give them (assumption log 13, PRESUMED). -/

namespace Sys2Proof.Machine
open Sys2Proof

/-! ## SHA-256 -/

/-- The largest r below 2 ^ bits, from a part already found, whose k-th power is at most n. -/
def rootFrom (k n : Nat) (bits found : Nat) : Nat :=
  match bits with
  | 0 => found
  | b + 1 => if (found + 2 ^ b) ^ k ≤ n then rootFrom k n b (found + 2 ^ b) else rootFrom k n b found

/-- The primes below 312, of which there are 64. -/
def smallPrimes : List Nat := (span 2 310).filter (fun n => [2, 3, 5, 7, 11, 13, 17].all (fun d => n % d != 0 || n == d))

/-- The first 32 bits after the point of a prime's k-th root, from which the standard takes its constants. -/
def rootWord (k p : Nat) : Nat := rootFrom k (p * 2 ^ (32 * k)) 37 0 % 2 ^ 32

/-- The round constants: of the cube roots. -/
def shaKeys : List Nat := smallPrimes.map (rootWord 3)

/-- The initial hash words: of the square roots of the first eight. -/
def shaInit : List Nat := (smallPrimes.take 8).map (rootWord 2)

/-- A word rotated right. -/
def rotr (n : Nat) (x : BitVec 32) : BitVec 32 := x.rotateRight n

/-- The message schedule's next words. -/
def shaSchedule (w : List (BitVec 32)) (fuel : Nat) : List (BitVec 32) :=
  match fuel with
  | 0 => w
  | f + 1 =>
    let n := w.length
    let x := w.getD (n - 15) 0
    let y := w.getD (n - 2) 0
    let s0 := rotr 7 x ^^^ rotr 18 x ^^^ (x >>> 3)
    let s1 := rotr 17 y ^^^ rotr 19 y ^^^ (y >>> 10)
    shaSchedule (w ++ [w.getD (n - 16) 0 + s0 + w.getD (n - 7) 0 + s1]) f

/-- One round on the eight working variables. -/
def shaRound (v : List (BitVec 32)) (kw : BitVec 32 × Nat) : List (BitVec 32) :=
  match v with
  | [a, b, c, d, e, f, g, h] =>
    let t1 := h + (rotr 6 e ^^^ rotr 11 e ^^^ rotr 25 e) + ((e &&& f) ^^^ (~~~e &&& g)) + BitVec.ofNat 32 kw.2 + kw.1
    let t2 := (rotr 2 a ^^^ rotr 13 a ^^^ rotr 22 a) + ((a &&& b) ^^^ (a &&& c) ^^^ (b &&& c))
    [t1 + t2, a, b, c, d + t1, e, f, g]
  | l => l

/-- Words of a block, highest byte first. -/
def bigWords (bs : List Byte) : List (BitVec 32) :=
  match bs with
  | a :: b :: c :: d :: r => (a ++ b ++ c ++ d) :: bigWords r
  | _ => []

/-- A block compressed. -/
def shaBlock (h : List (BitVec 32)) (block : List Byte) : List (BitVec 32) :=
  let w := shaSchedule (bigWords block) 48
  let v := (w.zip shaKeys).foldl shaRound h
  (h.zip v).map (fun e => e.1 + e.2)

/-- The blocks of 64 bytes, one after another. -/
def shaBlocks (h : List (BitVec 32)) (bs : List Byte) (fuel : Nat) : List (BitVec 32) :=
  match fuel with
  | 0 => h
  | f + 1 => if bs.isEmpty then h else shaBlocks (shaBlock h (bs.take 64)) (bs.drop 64) f

/-- The padding of a message of n bytes. -/
def shaPad (n : Nat) : List Byte := 0x80 :: List.replicate ((119 - n % 64) % 64) 0 ++ (natBytes 8 (8 * n)).reverse

/-- SHA-256: the digest's 32 bytes, in the order of the standard. -/
def sha256 (bs : List Byte) : List Byte :=
  let m := bs ++ shaPad bs.length
  (shaBlocks (shaInit.map (BitVec.ofNat 32)) m (m.length / 64)).flatMap (fun w => (natBytes 4 w.toNat).reverse)

/-- A digest as a 256-bit value whose lowest byte is the digest's first (R4). -/
def digest (bs : List Byte) : BitVec 256 := BitVec.ofNat 256 (bytesNat (sha256 bs))

/-- A digest as the integer of the standards, first byte highest. -/
def digestInt (bs : List Byte) : Nat := bytesNat (sha256 bs).reverse

/-- HMAC-SHA-256 with a key of 32 bytes. -/
def hmac256 (key msg : List Byte) : List Byte :=
  let k := key ++ List.replicate (64 - key.length) 0
  sha256 (k.map (fun b => b ^^^ 0x5c) ++ sha256 (k.map (fun b => b ^^^ 0x36) ++ msg))

/-! ## P-256 -/

/-- The field's prime. -/
def ecP : Nat := 2 ^ 256 - 2 ^ 224 + 2 ^ 192 + 2 ^ 96 - 1
/-- The group order. -/
def ecN : Nat := 0xffffffff00000000ffffffffffffffffbce6faada7179e84f3b9cac2fc632551
/-- The curve's coefficient b. -/
def ecB : Nat := 0x5ac635d8aa3a93e7b3ebbd55769886bc651d06b0cc53b0f63bce3c3e27d2604b
/-- The base point's x. -/
def ecGx : Nat := 0x6b17d1f2e12c4247f8bce6e563a440f277037d812deb33a0f4a13945d898c296
/-- The base point's y. -/
def ecGy : Nat := 0x4fe342e2fe1a7f9b8ee7eb4a7c0f9e162bce33576b315ececbb6406837bf51f5

/-- A power modulo m, by the bits of the exponent from the lowest. -/
def powMod (m x e fuel : Nat) : Nat :=
  match fuel with
  | 0 => 1
  | f + 1 => if e = 0 then 1 else let r := powMod m (x * x % m) (e / 2) f; if e % 2 = 1 then r * x % m else r

/-- The inverse modulo a prime. -/
def invMod (m x : Nat) : Nat := powMod m (x % m) (m - 2) 256

/-- A point, or none for the neutral element. -/
abbrev EcPoint := Option (Nat × Nat)

/-- The sum of two points. -/
def ecAdd (a b : EcPoint) : EcPoint :=
  match a, b with
  | none, q => q
  | p, none => p
  | some (x1, y1), some (x2, y2) =>
    if x1 = x2 && (y1 + y2) % ecP = 0 then none
    else
      let l := if x1 = x2 then (3 * x1 * x1 + ecP - 3) * invMod ecP (2 * y1) % ecP
               else (y2 + ecP - y1) * invMod ecP (x2 + ecP - x1) % ecP
      let x := (l * l + 2 * ecP - x1 - x2) % ecP
      some (x, (l * (x1 + ecP - x) + ecP - y1) % ecP)

/-- A multiple of a point. -/
def ecMul (k : Nat) (p : EcPoint) (fuel : Nat) : EcPoint :=
  match fuel with
  | 0 => none
  | f + 1 => if k = 0 then none else let q := ecMul (k / 2) (ecAdd p p) f; if k % 2 = 1 then ecAdd p q else q

/-- A multiple of the base point. -/
def ecBase (k : Nat) : EcPoint := ecMul k (some (ecGx, ecGy)) 256

/-- The public key of a private key, X in the low half, Y in the high half. -/
def publicKey (d : Nat) : BitVec 512 :=
  match ecBase d with
  | some (x, y) => BitVec.ofNat 256 y ++ BitVec.ofNat 256 x
  | none => 0

/-- The bytes of a public key: X then Y, each lowest byte first (R4, R53). -/
def keyBytes (k : BitVec 512) : List Byte := natBytes 64 k.toNat

/-- An ECDSA signature of a hash under a nonce from 1 to n - 1: its two halves, none where one of them is zero. -/
def ecdsaTry (d z k : Nat) : Option (Nat × Nat) :=
  match ecBase k with
  | some (x, _) =>
    let r := x % ecN
    let t := invMod ecN k * (z + r * d) % ecN
    if r = 0 || t = 0 then none else some (r, t)
  | none => none

/-- An ECDSA signature of a hash under a free value: the nonce is the first that serves of those from the value on. At most eight nonces of a
hash and a key fail: those of the points with one of four x. -/
def ecdsaSign (d z free : Nat) : Nat × Nat := ((span 0 9).findSome? (fun i => ecdsaTry d z ((free + i) % (ecN - 1) + 1))).getD (0, 0)

/-- A point on the curve. -/
def onCurve (x y : Nat) : Bool := x < ecP && y < ecP && y * y % ecP == (x * x * x + (ecP - 3) * x + ecB) % ecP

/-- A signature verifies under a public key. -/
def ecdsaVerify (key : BitVec 512) (z : Nat) (sig : Nat × Nat) : Bool :=
  let x := (key.extractLsb' 0 256).toNat
  let y := (key.extractLsb' 256 256).toNat
  let (r, t) := sig
  let w := invMod ecN t
  0 < r && r < ecN && 0 < t && t < ecN && onCurve x y &&
    (match ecAdd (ecBase (z * w % ecN)) (ecMul (r * w % ecN) (some (x, y)) 256) with
      | some (u, _) => u % ecN == r
      | none => false)

end Sys2Proof.Machine
end

