-- ==== Sys2Proof/Machine/Control.lean ====
section
/-! DEFINITION. Control transfers, counted loops, breaks and the system registers (spec 16 R335–R346, spec 09 R192–R194). -/

namespace Sys2Proof.Machine
open Sys2Proof

/-! ## Transfers -/

/-- The target of a displacement in halfwords (R300). -/
def State.targetOf (s : State) (disp : BitVec 32) : VAddr := s.cx.pc + (disp.signExtend 48) * 2

/-- A direct target outside the instruction's unit is checked when control reaches it (R300). -/
def State.directTarget (s : State) (disp : BitVec 32) : Res VAddr :=
  let t := s.targetOf disp
  if t.toNat / 65536 = s.cx.pc.toNat / 65536 then .ok t
  else do
    let _ ← s.checkFetch s.cur.core s.lid t.toNat
    .ok t

/-- Pops the loops that a taken transfer from `pc` to `t` leaves (R342). -/
def leaveLoops (pc t : VAddr) (ls : List Loop) : List Loop :=
  match ls with
  | [] => []
  | e :: r =>
    if e.first.toNat ≤ pc.toNat && pc.toNat ≤ e.last.toNat && !(e.first.toNat ≤ t.toNat && t.toNat ≤ e.last.toNat)
    then leaveLoops pc t r else e :: r

/-- A taken branch or jump. -/
def State.jump (s : State) (t : VAddr) : State :=
  (s.modCx (fun x => { x with loops := leaveLoops x.pc t x.loops })).goto t

/-- A conditional branch: `u` is the state with the sources taken, and a target that must be walked or scanned first leaves them
untaken (R179). -/
def State.branchIf (s u : State) (taken : Bool) (disp : BitVec 32) : Res State :=
  if taken then do
    let t ← s.directTarget disp
    .ok (u.jump t)
  else .ok u.advance

/-- The target of an indirect jump (R338). -/
def State.indirectTarget (s : State) (c : TagVal) : Res VAddr := do
  trapIf (c.tag && !capX c.v) clsCapability (capCursor c.v)
  trapIf (c.tag && !capCovers c.v (capCursor c.v) 2) clsBounds (capCursor c.v)
  let _ ← s.checkFetch s.cur.core s.lid (capCursor c.v)
  .ok (BitVec.ofNat 48 (capCursor c.v))

/-- The link that a call writes (R337). -/
def State.link (s : State) : TagVal := ⟨s.cx.npc.setWidth 128, false⟩

/-- A branch on one source. -/
def branch1 (a : Args) (s : State) (p : W128 → Bool) : Host.Outcome State Fault Refusal :=
  conclude s do
    let (x, t) ← s.operand1 a.ty a.s1 []
    s.branchIf t (p x.v) (srcImm a.s2)

/-- A branch on two sources, by the signedness of the type (R336). -/
def branch2 (a : Args) (s : State) (p : Int → Int → Bool) : Host.Outcome State Fault Refusal :=
  conclude s do
    let (x, y, t) ← s.operands2 a.ty a.s1 a.s2 []
    let n (v : W128) : Int := if a.ty = .n64 then ((low64 v).toNat : Int) else (low64 v).toInt
    s.branchIf t (p (n x.v) (n y.v)) (srcImm a.s3)

/-- b (R335). -/
def execB (a : Args) (s : State) : Host.Outcome State Fault Refusal := conclude s (s.branchIf s true (srcImm a.s1))
/-- bz (R335). -/
def execBz (a : Args) (s : State) : Host.Outcome State Fault Refusal := branch1 a s (fun v => v == 0)
/-- bnz (R335). -/
def execBnz (a : Args) (s : State) : Host.Outcome State Fault Refusal := branch1 a s (fun v => v != 0)
/-- blt (R336). -/
def execBlt (a : Args) (s : State) : Host.Outcome State Fault Refusal := branch2 a s (fun x y => x < y)
/-- bge (R336). -/
def execBge (a : Args) (s : State) : Host.Outcome State Fault Refusal := branch2 a s (fun x y => y ≤ x)

/-- call: it never pops a loop (R337, R342). -/
def execCall (a : Args) (s : State) : Host.Outcome State Fault Refusal :=
  conclude s do
    s.meet [.dst a.d]
    let t ← s.directTarget (srcImm a.s1)
    .ok ((s.writeD a.d s.link).goto t)

/-- callr: the target is read before the link is written (R337). -/
def execCallr (a : Args) (s : State) : Host.Outcome State Fault Refusal :=
  conclude s do
    let (c, u) ← s.operand1 a.ty a.s1 [.dst a.d]
    let t ← s.indirectTarget c
    .ok ((u.writeD a.d s.link).goto t)

/-- jr (R337). -/
def execJr (a : Args) (s : State) : Host.Outcome State Fault Refusal :=
  conclude s do
    let (c, u) ← s.operand1 a.ty a.s1 []
    let t ← s.indirectTarget c
    .ok (u.jump t)

/-! ## Counted loops (R339, R340) -/

/-- The least start of a list above an offset. -/
def nextStart (off : Nat) (starts : List Nat) : Option Nat :=
  starts.foldl (fun (b : Option Nat) x => if x ≤ off then b else match b with
    | none => some x
    | some y => some (Nat.min x y)) none

/-- The next start after an address of the running code (R340); past the unit's last start it is the next unit. -/
def State.startAfter (s : State) (va : VAddr) : VAddr :=
  let unit := (s.cc.tlbFind s.lid va.toNat).map (fun e => unitOf (e.phys va.toNat))
  let starts := ((unit.bind (s.launch s.lid).startMap?).getD [])
  let base := va.toNat / 65536 * 65536
  match nextStart (va.toNat % 65536 / 2) starts with
  | some h => BitVec.ofNat 48 (base + 2 * h)
  | none => BitVec.ofNat 48 (base + 65536)

/-- loop (R340). -/
def execLoopN (a : Args) (s : State) : Host.Outcome State Fault Refusal :=
  conclude s do
    let (x, t) ← s.operand1 a.ty a.s1 []
    let n := low64 x.v
    let next := t.cx.npc
    let last := t.targetOf (srcImm a.s2)
    trapIf (last.toNat < next.toNat || last.toNat / 4096 != t.cx.pc.toNat / 4096) clsCommand 1
    trapIf (match t.cx.loops with | [] => false | e :: _ => e.last == t.cx.pc) clsCommand 3
    if n = 0 then .ok (t.goto (t.startAfter last))
    else do
      trapIf (4 ≤ t.cx.loops.length) clsCommand 2
      .ok (t.modCx (fun x => { x with loops := ⟨next, last, n⟩ :: x.loops })).advance

/-! ## Breaks (R272–R274, R344) -/

/-- While a launch is halted its tasks' limits do not count: `since` then holds the clk already counted (R273). -/
def State.swapSince (s : State) (lid : Nat) : State :=
  (s.launch lid).compute.foldl (fun (s : State) p =>
    s.modCore p (fun c => { c with ctxs := c.ctxs.map (fun (x : Nat × Ctx) =>
      (x.1, { x.2 with task := x.2.task.map (fun t => { t with since := s.ownClk p - t.since }) })) })) s

/-- Halts a launch (R273): limits stop counting, and its cores stop at their next instruction boundary. -/
def State.haltLaunch (s : State) (lid : Nat) : State :=
  match s.launch? lid with
  | none => s
  | some l =>
    let t := if l.halted.isSome then s else (s.swapSince lid).modLaunch lid (fun l => { l with halted := some s.clk })
    { t with cmd := { t.cmd with dbgHalt := true } }

/-- The halts of brk take effect once their clk has ended. -/
def State.settleBrks (s : State) : State :=
  s.launches.foldl (fun (s : State) e =>
    match (s.launch e.1).brkAt with
    | some c => if s.clk ≤ c then s else (s.haltLaunch e.1).modLaunch e.1 (fun l => { l with brkAt := none })
    | none => s) s

/-- The halt ends. -/
def State.resumeLaunch (s : State) (lid : Nat) : State :=
  if (s.launch lid).halted.isNone then s else (s.swapSince lid).modLaunch lid (fun l => { l with halted := none })

/-- A debug session covers a launch (R272). -/
def State.armedFor (s : State) (lid : Nat) : Bool := s.cmd.dbgArmed && s.cmd.dbgLid.toNat == lid

/-- brk: the halt takes effect as the clk ends, at which a fault of the launch in the same clk comes first (R344, Table 16-6). -/
def execBrk (_ : Args) (s : State) : Host.Outcome State Fault Refusal :=
  conclude s (if s.armedFor s.lid then .ok (s.advance.modLaunch s.lid (fun l => { l with brkAt := some s.clk })) else trap clsBreak 0)

/-! ## System registers (R192–R194, R345, R346) -/

/-- A system register as the current context reads it: every address of Table 9-6, and zero at an unassigned one (R192). -/
def State.sregRead (s : State) (n : Nat) : W64 :=
  let c := s.cc
  match n with
  | 0x000 => c.fmc.setWidth 64
  | 0x001 => c.seed.setWidth 64
  | 0x002 => c.tlimit.setWidth 64
  | 0x008 => BitVec.ofNat 64 (s.ownClk s.cur.core - (s.group (groupOf s.cur.core)).base)
  | 0x009 => s.time
  | 0x00A => c.lat
  | 0x010 => ctxWord c s.cur.ctx (s.parked s.cur.core)
  | 0x011 => taskWord s.cx
  | 0x012 => s.licWord s.cur.core
  | 0x013 => c.notice
  | n => if 0x020 ≤ n && n ≤ 0x027 then (c.chan (n - 0x020)).word else 0

/-- A write of s.chNcfg (R142): while EN stays 1 it changes no field. -/
def Chan.configure (h : Chan) (v : W64) : Chan :=
  let en := v.getLsbD 63
  let l := (v.extractLsb' 32 4).toNat
  let log2e := BitVec.ofNat 4 (if l < 3 then 3 else if 8 < l then 8 else l)
  let base := v.extractLsb' 4 13
  if h.en && en then h
  else
    let n : Chan := { en := en, count := 0, head := if en then 0 else h.head, log2e := log2e, base := base }
    if en && Config.sramBytes < n.baseOff + 16 * n.size then { n with en := false } else n

/-- The limit that a write of s.tlimit stores (R119). -/
def clampLimit (v tlim : BitVec 32) : BitVec 32 := if v = 0 then 1 else if tlim.toNat < v.toNat then tlim else v

/-- Writes a system register of Table 9-6; read-only and unassigned ones ignore it (R192, R346). -/
def State.sregWrite (s : State) (n : Nat) (v : W64) : State :=
  let lo : BitVec 32 := v.setWidth 32
  match n with
  | 0x000 => s.modCc (fun c => { c with fmc := v.setWidth 14 })
  | 0x001 => s.modCc (fun c => { c with seed := if lo = 0 then 1 else lo })
  | 0x002 => s.modCc (fun c => { c with tlimit := clampLimit lo (s.launch s.lid).record.tlim })
  | n => if 0x020 ≤ n && n ≤ 0x027
    then s.modCc (fun c => { c with chans := putAt (n - 0x020) ((c.chan (n - 0x020)).configure v) c.chans }) else s

/-- The system-register address of a count (R345). -/
def sregAddr (x : Src) : Nat := (srcImm x).toNat % 4096

/-- sget (R345). -/
def execSget (a : Args) (s : State) : Host.Outcome State Fault Refusal :=
  conclude s do
    s.meet [.dst a.d]
    .ok (s.writeD a.d ⟨reg64 (s.sregRead (sregAddr a.s1)), false⟩).advance

/-- sset (R346). -/
def execSset (a : Args) (s : State) : Host.Outcome State Fault Refusal :=
  conclude s do
    let (x, t) ← s.operand1 a.ty a.s1 []
    .ok (t.sregWrite (sregAddr a.s2) (low64 x.v)).advance

end Sys2Proof.Machine
end

