-- ==== Sys2Proof/Machine/Vector.lean ====
section
/-! DEFINITION. The vector unit, page 2 (spec 17 R348–R364). -/

namespace Sys2Proof.Machine
open Sys2Proof

/-! ## Forming a result (R350) -/

/-- The rules the current core's s.fmc gives (R246). -/
def State.rules (s : State) : Rules := rulesOf s.cc.fmc s.out.stochastic

/-- One draw for each of `n` destination lanes under stochastic rounding, and the seed after them (R247). -/
def State.lanesDraw (s : State) (n : Nat) : List (BitVec 32) × State :=
  if s.rules.rnd = 6 then
    let (ds, seed) := drawMany n s.cc.seed
    (ds, s.modCc (fun c => { c with seed := seed }))
  else (List.replicate n 0, s)

/-- Writes a result now, or a latency later when it is shadowed (R351). -/
def State.produce (s : State) (latency : Option Nat) (a : Args) (v : W128) : State :=
  match latency with
  | none => (s.writeD a.d ⟨v, false⟩).advance
  | some n => s.shadowD n a ⟨v, false⟩

/-- The lanes of a register decoded as a type's values (R350 step 1). -/
def valuesOf (g : Fmt) (ftz : Bool) (t : Ty) (v : W128) : List FVal := (lanesOf t.bits t.lanes v).map (g.input ftz)

/-- Encodes one exact result for each lane (R350 steps 3–5). -/
def State.roundLanes (s : State) (t : Ty) (vs : List FVal) : W128 × State :=
  let g := fmtOf s.cc.fmc t
  let r := s.rules
  let (ds, u) := s.lanesDraw t.lanes
  (ofLanes t.bits (ds.zipWith (fun d v => encodeVal g r d v) vs), u)

/-- A computed one-source instruction. -/
def arith1 (a : Args) (s : State) (latency : Option Nat) (f : FVal → FVal) : Host.Outcome State Fault Refusal :=
  conclude s do
    let (x, t) ← s.operand1 a.ty a.s1 [.dst a.d]
    let g := fmtOf s.cc.fmc a.ty
    let (v, t) := t.roundLanes a.ty ((valuesOf g s.rules.ftz a.ty x.v).map f)
    .ok (t.produce latency a v)

/-- A computed two-source instruction. -/
def arith2 (a : Args) (s : State) (latency : Option Nat) (f : FVal → FVal → FVal) : Host.Outcome State Fault Refusal :=
  conclude s do
    let (x, y, t) ← s.operands2 a.ty a.s1 a.s2 [.dst a.d]
    let g := fmtOf s.cc.fmc a.ty
    let z := s.rules.ftz
    let (v, t) := t.roundLanes a.ty ((valuesOf g z a.ty x.v).zipWith f (valuesOf g z a.ty y.v))
    .ok (t.produce latency a v)

/-- A fused instruction: c from the old destination (R353). -/
def arith3 (a : Args) (s : State) (f : FVal → FVal → FVal → FVal) : Host.Outcome State Fault Refusal :=
  conclude s do
    let (x, y, c, t) ← s.operands3 a.ty a.s1 a.s2 a.d
    let g := fmtOf s.cc.fmc a.ty
    let z := s.rules.ftz
    let ab := (valuesOf g z a.ty x.v).zip (valuesOf g z a.ty y.v)
    let (v, t) := t.roundLanes a.ty (ab.zipWith (fun p c => f p.1 p.2 c) (valuesOf g z a.ty c.v))
    .ok (t.produce none a v)

/-- A two-source instruction that picks among its flushed lanes with no rounding (R356–R358). -/
def pick2 (a : Args) (s : State) (f : Fmt → Nat → Nat → Nat) : Host.Outcome State Fault Refusal :=
  let g := fmtOf s.cc.fmc a.ty
  let z := s.rules.ftz
  binary a s (intLanes a.ty (fun x y => f g (g.flush z x) (g.flush z y)))

/-- Exact cancellations are -0 (R350 step 5). -/
def State.rdn (s : State) : Bool := s.rules.rnd == 2

/-- vdiv and vsqrt share the divider of their core: held until it frees (R351). -/
def State.holdDivider (s : State) : Res Unit := parkIf (s.clk < s.cc.divBusy) s (.untilClk s.cc.divBusy)

/-- Latency of vdiv and vsqrt (Table 17-4). -/
def vdivLatency (t : Ty) : Nat := if t.bits = 16 then 16 else 24

/-- An instruction that takes the divider. -/
def onDivider (a : Args) (s : State) (go : State → Host.Outcome State Fault Refusal) : Host.Outcome State Fault Refusal :=
  match s.holdDivider with
  | .error e => conclude s (.error e)
  | .ok _ => go (s.modCc (fun c => { c with divBusy := s.clk + s.delay s.cur.core (vdivLatency a.ty) }))

/-! ## Lane arithmetic (R353–R355) -/

/-- vadd. -/
def execVadd (a : Args) (s : State) : Host.Outcome State Fault Refusal := arith2 a s none (FVal.add s.rdn)
/-- vsub. -/
def execVsub (a : Args) (s : State) : Host.Outcome State Fault Refusal :=
  arith2 a s none (fun x y => FVal.add s.rdn x y.negate)
/-- vmul. -/
def execVmul (a : Args) (s : State) : Host.Outcome State Fault Refusal := arith2 a s none FVal.mul
/-- vfma: c + a × b, rounded once. -/
def execVfma (a : Args) (s : State) : Host.Outcome State Fault Refusal :=
  arith3 a s (fun x y c => FVal.add s.rdn c (x.mul y))
/-- vfms: c − a × b, rounded once. -/
def execVfms (a : Args) (s : State) : Host.Outcome State Fault Refusal :=
  arith3 a s (fun x y c => FVal.add s.rdn c (x.mul y).negate)
/-- vdiv, by the operand values at its issue; a trap or a park leaves the divider free. -/
def execVdiv (a : Args) (s : State) : Host.Outcome State Fault Refusal :=
  match s.operands2 a.ty a.s1 a.s2 [.dst a.d] with
  | .error e => conclude s (s.holdDivider.bind (fun _ => .error e))
  | .ok _ => onDivider a s (fun t => arith2 a t (some (vdivLatency a.ty)) FVal.div)
/-- vsqrt (R354). -/
def execVsqrt (a : Args) (s : State) : Host.Outcome State Fault Refusal :=
  match s.operand1 a.ty a.s1 [.dst a.d] with
  | .error e => conclude s (s.holdDivider.bind (fun _ => .error e))
  | .ok _ => onDivider a s (fun t => arith1 a t (some (vdivLatency a.ty)) FVal.sqrt)
/-- vrcp (R355). -/
def execVrcp (a : Args) (s : State) : Host.Outcome State Fault Refusal := arith1 a s (some 8) FVal.rcp
/-- vrsq. -/
def execVrsq (a : Args) (s : State) : Host.Outcome State Fault Refusal := arith1 a s (some 8) FVal.rsq
/-- vexp2. -/
def execVexp2 (a : Args) (s : State) : Host.Outcome State Fault Refusal := arith1 a s (some 8) FVal.exp2
/-- vlog2. -/
def execVlog2 (a : Args) (s : State) : Host.Outcome State Fault Refusal := arith1 a s (some 8) FVal.log2

/-! ## Compares, select and signs (R356–R360) -/

/-- vmin (R356). -/
def execVmin (a : Args) (s : State) : Host.Outcome State Fault Refusal := pick2 a s minCode
/-- vmax. -/
def execVmax (a : Args) (s : State) : Host.Outcome State Fault Refusal := pick2 a s maxCode
/-- vamax (R357). -/
def execVamax (a : Args) (s : State) : Host.Outcome State Fault Refusal := pick2 a s amaxCode

/-- The condition of vcmp on two values (R358). -/
def vcond (cc : VCond) (x y : FVal) : Bool :=
  let un := x.isNan || y.isNan
  let lt := FVal.lt x y
  let gt := FVal.lt y x
  match cc with
  | .eq => !un && !lt && !gt
  | .ne => un || lt || gt
  | .lt => lt
  | .le => !un && !gt
  | .gt => gt
  | .ge => !un && !lt
  | .un => un
  | .ord => !un

/-- vcmp: a lane mask (R358). -/
def execVcmp (cc : VCond) (a : Args) (s : State) : Host.Outcome State Fault Refusal :=
  pick2 a s (fun g x y => laneMask a.ty.bits (vcond cc (g.decode x) (g.decode y)))

/-- Lanes of x where the mask's lane has its top bit set, of y elsewhere (R359). -/
def selLanes (t : Ty) (x y m : W128) : W128 :=
  let w := t.bits
  ofLanes w ((span 0 t.lanes).map (fun i => if laneAt w i m / 2 ^ (w - 1) = 1 then laneAt w i x else laneAt w i y))

/-- vsel (R359). -/
def execVsel (a : Args) (s : State) : Host.Outcome State Fault Refusal := ternary a s (selLanes a.ty)

/-- vabs of a lane (R360). -/
def vabsLane (g : Fmt) (ftz : Bool) (c : Nat) : Nat :=
  if g.ieee then (g.flush ftz c) % 2 ^ (g.width - 1)
  else if g.sgn && !g.isNan c then c % 2 ^ (g.width - 1)
  else c

/-- vneg of a lane (R360). -/
def vnegLane (g : Fmt) (r : Rules) (c : Nat) : Nat :=
  if g.ieee then (g.flush r.ftz c + 2 ^ (g.width - 1)) % 2 ^ g.width
  else if g.isNan c || c = 0 then c
  else if g.sgn then (c + 2 ^ (g.width - 1)) % 2 ^ g.width
  else if g.saturates r then 0
  else g.nan

/-- vabs. -/
def execVabs (a : Args) (s : State) : Host.Outcome State Fault Refusal :=
  unary a s (intLanes1 a.ty (vabsLane (fmtOf s.cc.fmc a.ty) s.rules.ftz))
/-- vneg. -/
def execVneg (a : Args) (s : State) : Host.Outcome State Fault Refusal :=
  unary a s (intLanes1 a.ty (vnegLane (fmtOf s.cc.fmc a.ty) s.rules))

/-! ## Reductions and dots (R252, R253, R361, R362) -/

/-- One level of the pairwise tree. -/
def treeLevel (f : Nat → Nat → Nat) (l : List Nat) : List Nat :=
  match l with
  | x :: y :: r => f x y :: treeLevel f r
  | l => l

/-- The pairwise tree (R252). -/
def tree (f : Nat → Nat → Nat) (fuel : Nat) (l : List Nat) : Nat :=
  match fuel with
  | 0 => l.headD 0
  | n + 1 => match l with
    | [x] => x
    | l => tree f n (treeLevel f l)

/-- A sum in .f32 under rules, flushed as an input and as a result. -/
def addUnder (r : Rules) (x y : Nat) : Nat :=
  encodeVal fmtF32 r 0 (FVal.add (r.rnd == 2) (fmtF32.decode x) (fmtF32.decode y))

/-- The step of vred (R361). -/
def redStep (op : RedOp) (r : Rules) (x y : Nat) : Nat :=
  match op with
  | .add => addUnder r x y
  | .max => maxCode fmtF32 x y
  | .min => minCode fmtF32 x y
  | .amax => amaxCode fmtF32 x y

/-- Lanes flushed and widened to .f32 codes; every such widening is exact (R250). -/
def widened (g : Fmt) (ftz : Bool) (t : Ty) (v : W128) : List Nat :=
  (valuesOf g ftz t v).map (encodeVal fmtF32 rulesRne 0)

/-- vred (R361). -/
def execVred (op : RedOp) (a : Args) (s : State) : Host.Outcome State Fault Refusal :=
  let g := fmtOf s.cc.fmc a.ty
  let r := s.rules.noDraw
  shadowUnary a s 6 (fun x => BitVec.ofNat 128 (tree (redStep op r) 6 (widened g r.ftz a.ty x)))

/-- The dot of two registers onto an accumulator (R362). -/
def dotValue (fmc : BitVec 14) (r : Rules) (t : Ty) (x y acc : W128) : W128 :=
  let g := fmtOf fmc t
  let ps := (valuesOf g r.ftz t x).zipWith (fun p q => encodeVal fmtF32 r 0 (p.mul q)) (valuesOf g r.ftz t y)
  BitVec.ofNat 128 (addUnder r (fmtF32.flush r.ftz (laneAt 32 0 acc)) (tree (addUnder r) 6 ps))

/-- vdot (R362). -/
def execVdot (a : Args) (s : State) : Host.Outcome State Fault Refusal :=
  conclude s do
    let (x, y, c, t) ← s.operands3 a.ty a.s1 a.s2 a.d
    .ok (t.shadowD 6 a ⟨dotValue s.cc.fmc s.rules.noDraw a.ty x.v y.v c.v, false⟩)

/-! ## Lane moves (R363, R364) -/

/-- vshuf: indices wrap (R363). -/
def shufLanes (t : Ty) (x k : W128) : W128 :=
  let w := t.bits
  ofLanes w ((span 0 t.lanes).map (fun i => laneAt w (laneAt w i k % t.lanes) x))

/-- vshuf. -/
def execVshuf (a : Args) (s : State) : Host.Outcome State Fault Refusal := binary a s (shufLanes a.ty)
/-- vbcast. -/
def execVbcast (i : BitVec 5) (a : Args) (s : State) : Host.Outcome State Fault Refusal :=
  unary a s (fun x => fillLanes a.ty.bits a.ty.lanes (laneAt a.ty.bits i.toNat x))
/-- vext. -/
def execVext (i : BitVec 5) (a : Args) (s : State) : Host.Outcome State Fault Refusal :=
  unary a s (fun x => BitVec.ofNat 128 (laneAt a.ty.bits i.toNat x))

/-- Lane `i` of `old` replaced. -/
def setLane (t : Ty) (i x : Nat) (old : W128) : W128 :=
  ofLanes t.bits ((lanesOf t.bits t.lanes old).set i x)

/-- A one-source instruction that reads its old destination after the source (R349). -/
def merge1 (a : Args) (s : State) (f : W128 → W128 → W128) : Host.Outcome State Fault Refusal :=
  conclude s do
    s.meet (srcMeet a.s1 ++ [.src a.d, .dst a.d])
    let (x, t) := s.takeSrc a.ty a.s1
    let (o, t) := t.takeCode a.d
    .ok (t.writeD a.d ⟨f x.v o.v, false⟩).advance

/-- vins. -/
def execVins (i : BitVec 5) (a : Args) (s : State) : Host.Outcome State Fault Refusal :=
  merge1 a s (fun x o => setLane a.ty i.toNat (laneAt a.ty.bits 0 x) o)

end Sys2Proof.Machine
end

