-- ==== Sys2Proof/Machine/Convert.lean ====
section
/-! DEFINITION. Conversions, block scaling and classification, page 3 (spec 17 R365–R370). -/

namespace Sys2Proof.Machine
open Sys2Proof

/-- Draws for `n` converted elements: none for an exact or an integer pair (R365). -/
def State.convertDraw (s : State) (src dst : Ty) (n : Nat) : List (BitVec 32) × State :=
  if exactPair s.cc.fmc src dst || (isIntTy src && isIntTy dst) then (List.replicate n 0, s) else s.lanesDraw n

/-- Elements converted in order (R365). -/
def State.convertAll (s : State) (src dst : Ty) (cs : List Nat) : List Nat × State :=
  let (ds, t) := s.convertDraw src dst cs.length
  (ds.zipWith (fun d c => convert s.cc.fmc s.rules d src dst c) cs, t)

/-- The lanes `k` to `k + n - 1` of width `w` replaced. -/
def replaceLanes (w k : Nat) (xs : List Nat) (old : W128) : W128 :=
  let n := xs.length
  ofLanes w ((span 0 (128 / w)).map (fun i => if k ≤ i && i < k + n then xs.getD (i - k) 0 else laneAt w i old))

/-- vcvt (R366): a narrowing one merges into its old destination. -/
def execVcvt (src : Ty) (part : BitVec 3) (a : Args) (s : State) : Host.Outcome State Fault Refusal :=
  let ws := src.bits
  let wd := a.ty.bits
  let n := 128 / Nat.max ws wd
  let p := part.toNat
  if wd < ws then
    conclude s do
      s.meet (srcMeet a.s1 ++ [.src a.d, .dst a.d])
      let (x, t) := s.takeSrc a.ty a.s1
      let (o, t) := t.takeCode a.d
      let (ys, t) := t.convertAll src a.ty (lanesOf ws n x.v)
      .ok (t.writeD a.d ⟨replaceLanes wd (p * n) ys o.v, false⟩).advance
  else
    conclude s do
      let (x, t) ← s.operand1 a.ty a.s1 [.dst a.d]
      let (ys, t) := t.convertAll src a.ty ((span (p * n) n).map (fun i => laneAt ws i x.v))
      .ok (t.writeD a.d ⟨ofLanes wd ys, false⟩).advance

/-- vpack (R367). -/
def execVpack (src : Ty) (a : Args) (s : State) : Host.Outcome State Fault Refusal :=
  conclude s do
    let (x, y, t) ← s.operands2 a.ty a.s1 a.s2 [.dst a.d]
    let n := 128 / src.bits
    let (zs, t) := t.convertAll src a.ty (lanesOf src.bits n x.v ++ lanesOf src.bits n y.v)
    .ok (t.writeD a.d ⟨ofLanes a.ty.bits zs, false⟩).advance

/-- vunpk (R367). -/
def execVunpk (src : Ty) (hi : Bool) (a : Args) (s : State) : Host.Outcome State Fault Refusal :=
  conclude s do
    let (x, t) ← s.operand1 a.ty a.s1 [.dst a.d]
    let n := 128 / a.ty.bits
    let k := if hi then n else 0
    let (zs, t) := t.convertAll src a.ty ((span k n).map (fun i => laneAt src.bits i x.v))
    .ok (t.writeD a.d ⟨ofLanes a.ty.bits zs, false⟩).advance

/-- A value times 2^k. -/
def FVal.scale (k : Int) (v : FVal) : FVal :=
  match v with
  | .fin n m e => .fin n m (e + k)
  | v => v

/-- The raw low byte of vscl's src2 (R368). -/
def scaleByte (x : Src) (v : W128) : Nat :=
  match x with
  | .imm w => w.toNat % 256
  | .lit w => w.toNat % 256
  | .reg _ => v.toNat % 256

/-- vscl (R368). -/
def execVscl (inv : Bool) (a : Args) (s : State) : Host.Outcome State Fault Refusal :=
  conclude s do
    let (x, y, t) ← s.operands2 a.ty a.s1 a.s2 [.dst a.d]
    let k := scaleByte a.s2 y.v
    let by_ : Int := if inv then 127 - (k : Int) else (k : Int) - 127
    let g := fmtOf s.cc.fmc a.ty
    let (v, t) := t.roundLanes a.ty ((valuesOf g s.rules.ftz a.ty x.v).map
      (fun e => if k = 255 then .nan else e.scale by_))
    .ok (t.writeD a.d ⟨v, false⟩).advance

/-- floor(log2) of a finite nonzero value. -/
def FVal.exponent (v : FVal) : Int :=
  match v with
  | .fin _ m e => e + Nat.log2 m
  | _ => 0

/-- vqnt's scale for a magnitude (R369). -/
def quantScale (g : Fmt) (m : FVal) : Nat :=
  match m with
  | .fin _ 0 _ => 127
  | .fin _ n e =>
    let lf := g.largest
    let b := m.exponent - lf.exponent + 127
    let b := if FVal.lt lf (.fin false n (e + 127 - b)) then b + 1 else b
    (max 0 (min b 254)).toNat
  | _ => 255

/-- vqnt (R369). -/
def execVqnt (a : Args) (s : State) : Host.Outcome State Fault Refusal :=
  unary a s (fun x => BitVec.ofNat 128
    (quantScale (fmtOf s.cc.fmc a.ty) (fmtF32.input s.rules.ftz (laneAt 32 0 x))))

/-- The class of an encoding (Table 17-7). -/
def classOf (g : Fmt) (c : Nat) : Nat :=
  let (neg, m) := g.parts c
  if g.isNan c then (if g.ieee && m / 2 ^ (g.p - 2) % 2 = 0 then 9 else 8)
  else if g.inf && m = g.maxCode + 1 then (if neg then 0 else 7)
  else if m = 0 then (if neg then 3 else 4)
  else if m < 2 ^ (g.p - 1) then (if neg then 2 else 5)
  else (if neg then 1 else 6)

/-- fclass (R370). -/
def execFclass (a : Args) (s : State) : Host.Outcome State Fault Refusal :=
  unary a s (intLanes1 a.ty (classOf (fmtOf s.cc.fmc a.ty)))

end Sys2Proof.Machine
end

