-- ==== Sys2Proof/WellFormed.lean ====
section
/-! DEFINITION. Well-formed instructions: those whose words the scanner accepts one by one (Table 15-4). The checks that span
several instructions (windows, displacements, blocks) belong to the scan of a unit (Machine/Walk.lean). -/

namespace Sys2Proof

/-- No check of one instruction refuses it (R305, Table 15-4). Rows without an encoding pass. -/
def Instr.wellFormed (i : Instr) : Bool := i.check.isNone

end Sys2Proof
end

