-- ==== Sys2Proof/Decode.lean ====
section
/-! DEFINITION. The decoder of R299, total on any halfwords and refusing by the names of Table 15-4, and the encoder from the
same tables. -/

namespace Sys2Proof

/-! ## Chains (R290–R293) -/

/-- The fields of a chain and its base word: what the prefixes and the base word hold before operands are mapped. -/
structure Chain where
  page : Nat := 0
  op : Nat
  look : BitVec 4 := 0
  m0 : BitVec 4 := 0
  m1 : BitVec 12 := 0
  xr : Bool := false
  /-- TYPE of the XR word -/
  ty : BitVec 4 := 0
  /-- AH:A, BH:B and C -/
  fa : BitVec 6
  fb : BitVec 6
  fc : BitVec 6 := 0
  nxi : BitVec 2 := 0
  /-- the XI chunks, joined highest first -/
  imm : BitVec 24 := 0
  deriving DecidableEq, Repr

/-- The first halfword when its bits [15:12] are `k`, and the rest. -/
def takeWord (k : BitVec 4) (ws : List Half) : Option Half × List Half :=
  match ws with
  | h :: r => if h.extractLsb' 12 4 = k then (some h, r) else (none, ws)
  | [] => (none, [])

/-- A halfword is a prefix when its bits [15:14] are 0b11 (R290). -/
def isPrefixWord (h : Half) : Bool := h.extractLsb' 14 2 == 3#2

/-- The chunks' count and joined value. -/
def joinChunks (x1 x2 : Option Half) : BitVec 2 × BitVec 24 :=
  match x1, x2 with
  | some a, some b => (2, a.extractLsb' 0 12 ++ b.extractLsb' 0 12)
  | some a, none => (1, (a.extractLsb' 0 12).setWidth 24)
  | _, _ => (0, 0)

/-- The fields of the words found. -/
def chainOf (xp xm xr x1 x2 : Option Half) (base : Half) : Chain :=
  let p := xp.getD 0
  let r := xr.getD 0
  let c := joinChunks x1 x2
  { page := if xp.isSome then (p.extractLsb' 8 4).toNat else 0
    op := (base.extractLsb' 10 6).toNat
    look := p.extractLsb' 4 4
    m0 := p.extractLsb' 0 4
    m1 := (xm.getD 0).extractLsb' 0 12
    xr := xr.isSome
    ty := r.extractLsb' 0 4
    fa := r.extractLsb' 5 1 ++ base.extractLsb' 5 5
    fb := r.extractLsb' 4 1 ++ base.extractLsb' 0 5
    fc := r.extractLsb' 6 6
    nxi := c.1
    imm := c.2 }

/-- Reads a chain and its base word (R292, R293, R299). -/
def readChain (ws : List Half) : Except Reject (Chain × List Half) :=
  let (xp, w1) := takeWord 0xE ws
  let (xm, w2) := takeWord 0xF w1
  let (xr, w3) := takeWord 0xC w2
  let (x1, w4) := takeWord 0xD w3
  let (x2, w5) := takeWord 0xD w4
  match w5 with
  | [] => .error .endOfChain
  | base :: rest =>
    let c := chainOf xp xm xr x1 x2 base
    if isPrefixWord base then .error .chain
    else if xp.isSome && (c.page == 0 || c.page > 8) then .error .page
    else if xm.isSome && xp.isNone then .error .page
    else if xm.isSome && c.m1 == 0 then .error .modifiers
    else .ok (c, rest)

/-- The words of a chain (R291, R292). -/
def writeChain (c : Chain) : List Half :=
  (if c.page = 0 then [] else [0xE#4 ++ BitVec.ofNat 4 c.page ++ c.look ++ c.m0]) ++
  (if c.m1 = 0 then [] else [0xF#4 ++ c.m1]) ++
  (if c.xr then [0xC#4 ++ c.fc ++ c.fa.extractLsb' 5 1 ++ c.fb.extractLsb' 5 1 ++ c.ty] else []) ++
  (if c.nxi = 2 then [0xD#4 ++ c.imm.extractLsb' 12 12] else []) ++
  (if c.nxi = 0 then [] else [0xD#4 ++ c.imm.extractLsb' 0 12]) ++
  [BitVec.ofNat 6 c.op ++ c.fa.extractLsb' 0 5 ++ c.fb.extractLsb' 0 5]

/-! ## Operands (R294–R298) -/

/-- The raw immediate of a chain: B, BH:B, or the chunks with B when there is no XR (R297). -/
def rawImm (c : Chain) : Nat :=
  if c.nxi = 0 then c.fb.toNat
  else if c.xr then c.imm.toNat
  else c.imm.toNat * 32 + c.fb.toNat % 32

/-- A register or literal operand; the literals follow in operand order (R298). -/
def readSrc (wide : Bool) (code : BitVec 6) (ws : List Half) : Except Reject (Src × List Half) :=
  if code = 63 then
    match wide, ws with
    | true, a :: b :: c :: d :: r => .ok (.lit (d ++ c ++ b ++ a), r)
    | false, a :: b :: r => .ok (.lit ((b ++ a).setWidth 64), r)
    | _, _ => .error .endOfChain
  else .ok (.reg code, ws)

/-- The last source: an immediate when XI stands. -/
def readLast (wide : Bool) (c : Chain) (code : BitVec 6) (ws : List Half) : Except Reject (Src × List Half) :=
  if c.nxi = 0 then readSrc wide code ws else .ok (.imm (immExtend false c.xr c.nxi.toNat (rawImm c)), ws)

/-- A B-immediate, or the literal of li under XR without XI (R313, R320). -/
def readBimm (sh : Shape) (k : Codes) (wide : Bool) (c : Chain) (ws : List Half) : Except Reject (Src × List Half) :=
  if k = .only && c.xr && c.nxi = 0 then readSrc wide c.fb ws
  else .ok (.imm (immExtend sh.count c.xr c.nxi.toNat (rawImm c)), ws)

/-- The operands of a chain by its slot's shape (Table 15-3). Fields that map to no operand are compared afterwards. -/
def readArgs (sh : Shape) (page : Nat) (c : Chain) (ws : List Half) : Except Reject (Args × List Half) :=
  let ty := if c.xr then Ty.ofCode c.ty else pageDefault page
  let wide := ty.wideLit
  let a : Args := { xr := c.xr, nxi := c.nxi, look := c.look, ty := ty }
  match sh.form with
  | .n => .ok (a, ws)
  | .d => .ok ({ a with d := c.fa }, ws)
  | .s => do
    let (s, ws) ← readSrc wide c.fa ws
    .ok ({ a with s1 := s }, ws)
  | .i => do
    let (s, ws) ← readBimm sh sh.c1 wide c ws
    .ok ({ a with s1 := s }, ws)
  | .di => do
    let (s, ws) ← readBimm sh sh.c1 wide c ws
    .ok ({ a with d := c.fa, s1 := s }, ws)
  | .si => do
    let (s, ws) ← readSrc wide c.fa ws
    let (t, ws) ← readBimm sh sh.c2 wide c ws
    .ok ({ a with s1 := s, s2 := t }, ws)
  | .ds => do
    let (s, ws) ← readSrc wide c.fb ws
    .ok ({ a with d := c.fa, s1 := s }, ws)
  | .dss => do
    let (s, ws) ← readSrc wide (if c.xr then c.fb else c.fa) ws
    let (t, ws) ← readLast wide c (if c.xr then c.fc else c.fb) ws
    .ok ({ a with d := c.fa, s1 := s, s2 := t }, ws)
  | .ss => do
    let (s, ws) ← readSrc wide c.fa ws
    let (t, ws) ← readLast wide c c.fb ws
    .ok ({ a with s1 := s, s2 := t }, ws)
  | .br => do
    let (s, ws) ← readSrc wide c.fa ws
    let (t, ws) ← readSrc wide c.fb ws
    let (u, ws) ← readLast wide c c.fc ws
    .ok ({ a with s1 := s, s2 := t, s3 := u }, ws)
  | .sss => do
    let (s, ws) ← readSrc wide c.fb ws
    let (t, ws) ← readLast wide c c.fc ws
    .ok ({ a with d := c.fa, s1 := s, s2 := t }, ws)

/-- The code of a register or literal operand; an immediate leaves its field to the immediate. -/
def srcCode (s : Src) : BitVec 6 :=
  match s with
  | .reg c => c
  | .lit _ => 63
  | .imm _ => 0

/-- The XI chunks of an immediate (R297). -/
def immChunks (a : Args) (s : Src) : BitVec 24 :=
  match s with
  | .imm v =>
    match a.nxi.toNat, a.xr with
    | 0, _ => 0
    | 1, true => (v.extractLsb' 0 12).setWidth 24
    | 1, false => (v.extractLsb' 5 12).setWidth 24
    | _, true => v.extractLsb' 0 24
    | _, false => v.extractLsb' 5 24
  | _ => 0

/-- The B field of an immediate: its low bits unless XR and XI stand together. -/
def immB (a : Args) (s : Src) : BitVec 6 :=
  match s with
  | .imm v => if a.nxi = 0 then (if a.xr then v.extractLsb' 0 6 else (v.extractLsb' 0 5).setWidth 6)
    else if a.xr then 0 else (v.extractLsb' 0 5).setWidth 6
  | s => srcCode s

/-- The fields AH:A, BH:B, C and the chunks of an instruction's operands (Table 15-3). -/
def writeFields (sh : Shape) (a : Args) : BitVec 6 × BitVec 6 × BitVec 6 × BitVec 24 :=
  match sh.form with
  | .n => (0, 0, 0, 0)
  | .d => (a.d, 0, 0, 0)
  | .s => (srcCode a.s1, 0, 0, 0)
  | .i => (0, immB a a.s1, 0, immChunks a a.s1)
  | .di => (a.d, immB a a.s1, 0, immChunks a a.s1)
  | .si => (srcCode a.s1, immB a a.s2, 0, immChunks a a.s2)
  | .ds => (a.d, srcCode a.s1, 0, 0)
  | .dss => if a.xr then (a.d, srcCode a.s1, srcCode a.s2, immChunks a a.s2)
    else (a.d, immB a a.s2, 0, immChunks a a.s2)
  | .ss => (srcCode a.s1, immB a a.s2, 0, immChunks a a.s2)
  | .sss => (a.d, srcCode a.s1, srcCode a.s2, immChunks a a.s2)
  | .br => (srcCode a.s1, srcCode a.s2, srcCode a.s3, immChunks a a.s3)

/-- The halfwords of a literal, low first (R298). -/
def litWords (wide : Bool) (s : Src) : List Half :=
  match s with
  | .lit v => [v.extractLsb' 0 16, v.extractLsb' 16 16] ++
      (if wide then [v.extractLsb' 32 16, v.extractLsb' 48 16] else [])
  | _ => []

/-- The chain of a slot. -/
def slotChain (sh : Shape) (s : Slot) : Chain :=
  let f := writeFields sh s.args
  { page := s.page, op := s.op, look := s.args.look, m0 := s.m0, m1 := s.m1, xr := s.args.xr
    ty := if s.args.xr then s.args.ty.code else 0
    fa := f.1, fb := f.2.1, fc := f.2.2.1, nxi := s.args.nxi, imm := f.2.2.2 }

/-! ## Decoding and encoding -/

/-- The words of an instruction; a row without an encoding has none. -/
def encode (i : Instr) : List Half :=
  match i.slot with
  | none => []
  | some s =>
    match shapeOf s.page s.op with
    | none => []
    | some sh => writeChain (slotChain sh s) ++ litWords s.args.ty.wideLit s.args.s1 ++ litWords s.args.ty.wideLit s.args.s2

/-- Reads one instruction and gives the words that follow it (R299), with every check of Table 15-4 that concerns one
instruction. -/
def decodeRest (ws : List Half) : Except Reject (Instr × List Half) := do
  let (c, rest) ← readChain ws
  match shapeOf c.page c.op with
  | none => .error .slot
  | some sh =>
    let (a, rest) ← readArgs sh c.page c rest
    match build c.page c.op c.m0 c.m1 a with
    | none => .error .slot
    | some i =>
      if i.slot ≠ some ⟨c.page, c.op, c.m0, c.m1, a⟩ then .error .modifiers
      else
        match i.check with
        | some r => .error r
        | none =>
          if slotChain sh ⟨c.page, c.op, c.m0, c.m1, a⟩ ≠ c then
            .error (if c.nxi = 0 then .operandFields else .immediate)
          else .ok (i, rest)

/-- Reads one instruction and how many halfwords it has (R299). -/
def decode (ws : List Half) : Except Reject (Instr × Nat) :=
  match decodeRest ws with
  | .ok (i, rest) => .ok (i, ws.length - rest.length)
  | .error r => .error r

/-- The halfwords of an opcode-table word (assumption log 5): the table writes the first halfword of a two-word row in the
high half, so a high half that is a prefix comes first; twelve halfwords in all, the rest zero. -/
def tableHalves (nbits w : Nat) : List Half :=
  let lo := BitVec.ofNat 16 w
  let hi := BitVec.ofNat 16 (w / 65536)
  let zeros := List.replicate 10 (0 : Half)
  if nbits ≤ 16 then lo :: 0 :: zeros
  else if isPrefixWord hi then hi :: lo :: zeros
  else lo :: hi :: zeros

/-- What the decoder reads from an opcode-table word. -/
def decodeTableWord (nbits w : Nat) : Option Instr :=
  match decode (tableHalves nbits w) with
  | .ok (i, _) => some i
  | .error _ => none

end Sys2Proof
end

