-- ==== Sys2Proof/Machine/Home.lean ====
section
/-! DEFINITION. What a home does with an access (R10, R33, R216, R219, R229, R385, R397), and the second tier's lines, keys
and zero marks. -/

namespace Sys2Proof.Machine
open Sys2Proof

/-! ## The second tier (R33) -/

/-- The key index in effect: none but 0 where second-tier encryption is absent (R40). -/
def State.keyUsed (s : State) (key : Nat) : Nat := if s.out.tierCrypt then key else 0

/-- The 1,024 bits of a second-tier line. -/
def State.lineBits (s : State) (la : Nat) : BitVec 1024 := BitVec.ofNat 1024 (bytesNat (Memory.readN s.mem (la * 128) 128))

/-- The line as it reads under a key: zero while marked, and unknown under a key it was not written with. -/
def State.tierLine (s : State) (la key : Nat) : BitVec 1024 :=
  match findAt la s.lineKeys with
  | none => 0
  | some k => if k = s.keyUsed key then s.lineBits la
              else Config.wrongKey s.keyEpoch la k (s.keyUsed key) (s.lineBits la)

/-- Before a write under a key: a marked line becomes zero under that key, and a line of another key is taken over as it
reads under the new one. -/
def State.tierClaim (s : State) (la key : Nat) : State :=
  let k := s.keyUsed key
  if findAt la s.lineKeys = some k then s
  else
    { s with mem := Memory.writeN s.mem (la * 128) (natBytes 128 (s.tierLine la key).toNat)
             lineKeys := putAt la k s.lineKeys }

/-! ## Bytes at a home -/

/-- Bytes of one line read at their home under a key. -/
def State.readHome (s : State) (pa n key : Nat) : List Byte :=
  if paRegion pa = 2 then
    let v := (s.tierLine (pa / 128) key).toNat
    (natBytes 128 v).drop (pa % 128) |>.take n
  else Memory.readN s.mem pa n

/-- Bytes of one line written at their home under a key; granules of `set` keep a tag (R199). -/
def State.writeHome (s : State) (pa key : Nat) (bs : List Byte) (mask : List (BitVec 2)) (set : List Nat) : State :=
  let s := if paRegion pa = 2 then s.tierClaim (pa / 128) key else s
  ((s.noteWrite pa bs.length).storeTagged pa bs mask set).fireAt pa bs.length

/-- A unit is marked as code (R215, R216). -/
def State.isCode (s : State) (pa : Nat) : Bool := s.codeMarks.any (fun m => m.1 == unitOf pa)

/-! ## Home signatures (R229, Table 11-2) -/

/-- The signatures an address's home keeps. -/
def State.homeSigs (s : State) (pa : Nat) : List HomeSig :=
  match paRegion pa with
  | 0 => (s.core (paCore pa)).sigs
  | 1 => (s.column (paCol pa)).sigs
  | 2 => (s.edge (pa % 2 ^ 48 / 2 ^ 36)).sigs
  | 3 => []
  | _ => (s.edge (64 + pa / 2 ^ 43 % 32)).sigs

/-- ORs a release's signature into its home's entry. -/
def State.homeRelease (s : State) (pa lid : Nat) (g : Sig) : State :=
  match paRegion pa with
  | 0 => s.modCore (paCore pa) (fun c => { c with sigs := sigsOr 4 c.sigs lid g })
  | 1 => s.modColumn (paCol pa) (fun c => { c with sigs := sigsOr 4 c.sigs lid g })
  | 2 => s.modEdge (pa % 2 ^ 48 / 2 ^ 36) (fun e => { e with sigs := sigsOr 64 e.sigs lid g })
  | 3 => s
  | _ => s.modEdge (64 + pa / 2 ^ 43 % 32) (fun e => { e with sigs := sigsOr 4 e.sigs lid g })

/-- What an acquire gets: nothing from host memory. -/
def State.homeAcquire (s : State) (pa lid : Nat) : Option Sig :=
  if paRegion pa = 3 then none else some (sigsGet (s.homeSigs pa) lid (s.launch lid).sigsFresh)

/-- Watch entries a home has (R397). -/
def watchRoom (pa : Nat) : Nat :=
  match paRegion pa with
  | 0 => 16
  | 1 => 16
  | 2 => 64
  | _ => 16

/-- Registers a watch: host memory and a full home fire at once; a newer watch of the context replaces its earlier one. -/
def State.addWatch (s : State) (r : Req) : State :=
  let ws := (s.watchesAt r.pa).filter (fun w => !(w.core == r.core && w.ctx == r.ctx))
  if paRegion r.pa = 3 || watchRoom r.pa ≤ ws.length then
    (s.setWatches r.pa ws).sendEvent r.pa r.core r.lid (some r.ctx)
  else s.setWatches r.pa (ws ++ [{ sector := r.pa / 64, core := r.core, ctx := r.ctx, lid := r.lid }])

/-! ## Performing an access -/

/-- The access writes. -/
def AOp.writes : AOp → Bool
  | .store => true
  | .writeBack => true
  | .amo _ _ _ _ => true
  | _ => false

/-- The answer to a request before its value is known. -/
def Req.answer (r : Req) : Rsp :=
  { op := r.op, ctx := r.ctx, id := r.id, join := r.join, off := r.off, pa := r.was.getD r.pa, ticket := r.ticket, acq := r.acq }

/-- The granules whose tags a write keeps: an aligned .c store's, or a written-back sector's. -/
def Req.keptTags (r : Req) : List Nat :=
  match r.op with
  | .store => if r.tag = some true && r.pa % 16 = 0 then [r.pa / 16] else []
  | .writeBack => ((span 0 4).filter (fun i => r.gtags.getLsbD i)).map (fun i => r.pa / 16 + i)
  | _ => []

/-- The tags of a sector's granules. -/
def State.sectorTags (s : State) (pa : Nat) : BitVec 4 :=
  BitVec.ofNat 4 (((span 0 4).map (fun i => if s.tagOf (pa / 16 * 16 + 16 * i) then 2 ^ i else 0)).sum)

/-- An access performed at its home in one clk, and its answer; one that has taken effect already has its answer. A write to a unit marked
as code raises CODE_WRITE in its place (R216); a damaged sector gives ENGINE to an access that returns a value, else MEMORY (R210, R264,
R375, assumption log 92). -/
def State.perform (s : State) (r : Req) : State × Rsp :=
  let ans := r.answer
  if let some a := r.done then (s, a)
  else if r.op.writes && s.isCode r.pa then
    (s.faultAsync r.lid clsCodeWrite r.l r.core (BitVec.ofNat 64 r.pa), { ans with failed := true })
  else if paRegion r.pa ≤ 2 && s.damaged r.pa && r.op != .watch then
    (if r.op.writes && r.ticket.isNone then s.faultAsync r.lid clsMemory r.l r.core (BitVec.ofNat 64 r.pa) else s
      , { ans with failed := true })
  else
    let (t, ans) := match r.op with
      | .load => (s, { ans with data := s.readHome r.pa r.len r.key, tag := s.tagOf r.pa })
      | .lineFill => (s, { ans with data := s.readHome r.pa r.len r.key, gtags := s.sectorTags r.pa })
      | .store => (s.writeHome r.pa r.key r.data r.mask r.keptTags, ans)
      | .writeBack => (s.writeHome r.pa r.key r.data r.mask r.keptTags, ans)
      | .amo op ty v cmp =>
        let (old, bs) := amoBytes op ty v cmp (s.readHome r.pa r.len r.key)
        (s.writeHome r.pa r.key bs [] [], { ans with fill := ⟨old, false⟩ })
      | .watch => (s.addWatch r, ans)
    let t := match r.rel with | some g => t.homeRelease r.pa r.lid g | none => t
    (t, if r.acq then { ans with sig := t.homeAcquire r.pa r.lid } else ans)

/-- The answer sent back on RSP, `ready` clk from now at the home's router (R219); a watch is not answered. -/
def State.answerTo (s : State) (r : Req) (a : Rsp) (place latency : Nat) : State :=
  match r.op with
  | .watch => s
  | _ => s.sendFrom r.pa { vn := .rsp, kind := 1, lid := r.lid, src := place, dest := r.core, final := r.core, body := .response a
                           pos := place, born := s.clk, ready := s.clk + latency }

end Sys2Proof.Machine
end

