-- ==== Sys2Proof/Machine/Walk.lean ====
section
/-! DEFINITION. The page walk (R212–R214) and the code scanner (R215, R301–R307), with the events that run them. -/

namespace Sys2Proof.Machine
open Sys2Proof

/-! ## The walk -/

/-- A page-table entry at its table's home, read under key index 0 (R212). -/
def State.pte (s : State) (table idx : Nat) : W64 := BitVec.ofNat 64 (bytesNat (s.readHome (table + 8 * idx) 8 0))

/-- A field of an entry. -/
def pteField (e : W64) (lo n : Nat) : Nat := e.toNat / 2 ^ lo % 2 ^ n

/-- A pointer entry may be followed (R213): valid, no leaf, reserved fields zero. -/
def ptrOk (e : W64) : Bool :=
  pteField e 0 1 = 1 && pteField e 1 1 = 0 && pteField e 2 5 = 0 && pteField e 52 12 = 0

/-- The table a pointer names: PA[51:12] in bits [51:12]. -/
def ptrTable (e : W64) : Nat := pteField e 12 40 * 4096

/-- A leaf that a launch may use (R213). -/
def State.leafOk (s : State) (e : W64) (lid : Nat) (big : Bool) : Bool :=
  let dev := pteField e 52 6
  let region := pteField e 48 4
  pteField e 0 1 = 1 && pteField e 1 1 = 1 && pteField e 2 5 = 0 && pteField e 10 2 < 2 && pteField e 58 6 = lid
    && 1 ≤ region && region ≤ 4 && (!big || pteField e 16 5 = 0) && !(pteField e 8 1 = 1 && pteField e 7 1 = 1)
    && (dev = 0 || (dev ≤ 32 && s.peerUp (dev - 1)))

/-- The translation that a leaf gives. -/
def leafEntry (e : W64) (lid va : Nat) (big : Bool) : TlbEntry :=
  { lid := lid, vpn := if big then va / 2 ^ 21 else va / 2 ^ 16, big := big, pa := pteField e 16 36 * 65536
    key := pteField e 12 4, kind := pteField e 10 2, cached := pteField e 9 1 = 1 && pteField e 52 6 = 0
    x := pteField e 8 1 = 1, w := pteField e 7 1 = 1, home := pteField e 52 6 }

/-- A walk's read of the entry of `va` in a table indexed from bit `shift` on: from the walker's cache, or at its home; a pointer read is
cached, 8 at most (R214). -/
def State.readPte (s : State) (cache : List WalkEntry) (lid table va shift : Nat) : W64 × List WalkEntry :=
  let idx := va / 2 ^ shift % 512
  let a := table + 8 * idx
  match cache.find? (fun e => e.lid == lid && e.at_ == a && e.shift == shift && e.top == va / 2 ^ shift) with
  | some e => (e.val, e :: cache.erase e)
  | none =>
    let v := s.pte table idx
    (v, if ptrOk v then ({ lid := lid, shift := shift, top := va / 2 ^ shift, at_ := a, val := v } :: cache).take 8 else cache)

/-- The walk for a virtual address of a launch through a walker's cache, none where it raises a translation fault (R212,
R213). -/
def State.walk (s : State) (cache : List WalkEntry) (lid va : Nat) : Option TlbEntry × List WalkEntry :=
  let (e3, cache) := s.readPte cache lid (s.launch lid).record.ptroot.toNat va 39
  if !ptrOk e3 then (none, cache)
  else
    let (e2, cache) := s.readPte cache lid (ptrTable e3) va 30
    if !ptrOk e2 then (none, cache)
    else
      let (e1, cache) := s.readPte cache lid (ptrTable e2) va 21
      if pteField e1 1 1 = 1 then (if s.leafOk e1 lid true then some (leafEntry e1 lid va true) else none, cache)
      else if !ptrOk e1 then (none, cache)
      else
        let e0 := s.pte (ptrTable e1) (va / 2 ^ 16 % 32)
        (if s.leafOk e0 lid false then some (leafEntry e0 lid va false) else none, cache)

/-- A walk for a core by one of the four walkers of its hall; which one is a free value (R214). -/
def State.walkFor (s : State) (core lid va : Nat) : Option TlbEntry × State :=
  let (v, s) := s.draw
  let w := v.toNat % 4
  let h := hallOf core
  let (e, cache) := s.walk (getAt [] w (s.hall h).walkers) lid va
  (e, s.modHall h (fun x => { x with walkers := putAt w cache x.walkers }))

/-- A translation entered in a TLB of 32, least recently used out (R214). -/
def Core.tlbInsert (c : Core) (e : TlbEntry) : Core :=
  { c with tlb := (e :: c.tlb.filter (fun f => !(f.lid == e.lid && f.vpn == e.vpn && f.big == e.big))).take 32 }

/-- The LID under which a miss is walked: that of the context's task, or of the tile whose engine has missed. -/
def State.missLid (s : State) (m : Nat × Nat) : Nat :=
  if m.2 < 16 then (match ((s.core m.1).ctx m.2).task with | some t => t.lid | none => 0)
  else (match (s.core m.1).tile? with | some (lid, _) => lid | none => 0)

/-- The address that a miss of a context or an engine waits for; none when it waits no longer. -/
def State.missVa (s : State) (m : Nat × Nat) : Option Nat :=
  let va := if m.2 < 16 then (match ((s.core m.1).ctx m.2).park with | some (.walk va) => some va.toNat | _ => none)
    else (findAt m.2 (s.core m.1).hartWalks).bind (fun w => if w.2 then none else some w.1)
  va.filter (fun va => ((s.core m.1).tlbFind (s.missLid m) va).isNone)

/-- The misses of a hall that wait for a walk or are being walked, in arrival order (R214). -/
def State.liveMisses (s : State) (h : Nat) : List (Nat × Nat) := (s.hall h).misses.filter (fun m => (s.missVa m).isSome)

/-- One of the hall's four walkers has the miss of a context or an engine: fewer than four are ahead of it (R214). -/
def State.walkerFree (s : State) (core ctx : Nat) : Bool :=
  (s.liveMisses (hallOf core)).contains (core, ctx) && ((s.liveMisses (hallOf core)).takeWhile (fun m => m != (core, ctx))).length < 4

/-- A walk has raised a translation fault for a context or an engine that waits on it (R213). -/
def State.noteBadWalk (s : State) (core ctx va : Nat) : State :=
  s.modCore core (fun c =>
    if ctx < 16 then c.modCtx ctx (fun x => { x with badWalk := some (va / 65536) })
    else { c with hartWalks := putAt ctx (va, true) c.hartWalks })

/-- PAGE_WALK: the walk of a TLB miss ends (R214). Numbers from 16 on are those of a core's engines. -/
def execPageWalk (core ctx : Nat) (s : State) : Host.Outcome State Fault Refusal :=
  match s.missVa (core, ctx) with
  | none => happens s
  | some va =>
    if !s.walkerFree core ctx then happens s
    else
      let s := s.modHall (hallOf core) (fun h => { h with misses := h.misses.filter (fun m => m != (core, ctx)) })
      match s.walkFor core (s.missLid (core, ctx)) va with
      | (some e, s) => happens (s.modCore core (fun c => c.tlbInsert e))
      | (none, s) => happens (s.noteBadWalk core ctx va)

/-! ## The scanner (R303–R305) -/

/-- Halfwords from bytes, low byte first. -/
def halfwords (bs : List Byte) : List Half :=
  match bs with
  | a :: b :: r => (b ++ a) :: halfwords r
  | _ => []

/-- The instructions of a code block from an offset on, until one is refused or the block ends (R303). -/
def decodeBlock (ws : List Half) (off fuel : Nat) : List (Nat × Instr × Nat) × Option Nat :=
  match fuel with
  | 0 => ([], none)
  | f + 1 =>
    if ws.isEmpty then ([], none)
    else
      match decode ws with
      | .error _ => ([], some off)
      | .ok (i, n) =>
        let (r, bad) := decodeBlock (ws.drop n) (off + n) f
        ((off, i, n) :: r, bad)

/-- An instruction that launch code may not hold (Table 15-4, Privilege). -/
def isPrivileged (i : Instr) : Bool :=
  match i with
  | .tlbi _ _ => true
  | .rolew _ => true
  | .pwrc _ _ => true
  | _ => false

/-- A control transfer for the window rules (R302). -/
def isTransfer (i : Instr) : Bool :=
  match i with
  | .b _ => true
  | .bz _ => true
  | .bnz _ => true
  | .blt _ => true
  | .bge _ => true
  | .call _ => true
  | .callr _ => true
  | .jr _ => true
  | .loopN _ => true
  | .endTask _ => true
  | .brk _ => true
  | .trap _ _ => true
  | .idle _ => true
  | _ => false

/-- The displacement of a direct transfer, loop's last included (R300, R340). -/
def directDisp (i : Instr) : Option Int :=
  match i with
  | .b a => some (srcImm a.s1).toInt
  | .call a => some (srcImm a.s1).toInt
  | .bz a => some (srcImm a.s2).toInt
  | .bnz a => some (srcImm a.s2).toInt
  | .loopN a => some (srcImm a.s2).toInt
  | .blt a => some (srcImm a.s3).toInt
  | .bge a => some (srcImm a.s3).toInt
  | _ => none

/-- How many registers a payload or argument operand names (R430). -/
def payloadRegs (i : Instr) : Nat :=
  match i with
  | .send _ _ _ n _ _ => n.toNat
  | .sendc _ _ n _ _ => n.toNat
  | .sendr _ _ n _ _ _ => n.toNat
  | .fork _ => 3
  | .join _ _ => 3
  | _ => 0

/-- The code of a source that is a register. -/
def srcCodes (x : Src) : List Nat :=
  match x with
  | .reg c => [c.toNat]
  | _ => []

/-- A message without payload: its B field is zero and names no register (R430). -/
def emptyPayload (i : Instr) : Bool :=
  match i with
  | .send _ _ _ n _ _ => n == 0
  | .sendc _ _ n _ _ => n == 0
  | .sendr _ _ n _ _ _ => n == 0
  | _ => false

/-- The operand codes that an instruction names. -/
def namedCodes (i : Instr) : List Nat :=
  match i.slot with
  | none => []
  | some sl =>
    let a := sl.args
    let second := if emptyPayload i then [] else srcCodes a.s2
    match shapeOf sl.page sl.op with
    | none => []
    | some sh =>
      (match sh.form with
        | .n => []
        | .i => []
        | .d => [a.d.toNat]
        | .di => [a.d.toNat]
        | .s => srcCodes a.s1
        | .si => srcCodes a.s1
        | .ds => a.d.toNat :: srcCodes a.s1
        | .dss => a.d.toNat :: srcCodes a.s1 ++ second
        | .sss => a.d.toNat :: srcCodes a.s1 ++ second
        | .ss => srcCodes a.s1 ++ second
        | .br => srcCodes a.s1 ++ second)
      ++ (match a.s2 with | .reg c => span c.toNat (payloadRegs i) | _ => [])

/-- The register destination of a shadowed instruction; st, stg and z have none. -/
def shadowDest (i : Instr) : Option Nat :=
  match i.slot with
  | none => none
  | some sl => match shapeOf sl.page sl.op with
    | some sh => if sh.dc = .dst && sl.args.d != 62 then some sl.args.d.toNat else none
    | none => none

/-- L of an instruction. -/
def lookOf (i : Instr) : Nat :=
  match i.slot with
  | some sl => sl.args.look.toNat
  | none => 0

/-- A shadowed instruction's window breaks R302: `rest` are the instructions decoded after it in its block, `lasts` the offsets
in the block at which the unit's loops end. A window that cannot be formed is not accepted. -/
def windowBad (off : Nat) (i : Instr) (rest : List (Nat × Instr × Nat)) (lasts : List Int) : Bool :=
  if (lookOf i) = 0 then false
  else
    let w := rest.take (lookOf i)
    w.length < (lookOf i)
      || (match (shadowDest i) with
          | none => false
          | some d => (40 ≤ d && d < 48) || w.any (fun e => (namedCodes e.2.1).contains d))
      || w.any (fun e => (isTransfer e.2.1) || lasts.contains e.1)
      || lasts.contains off

/-- A block of a unit as its decoding gives it: the instructions, and the offset at which one is refused. -/
abbrev Block := List (Nat × Instr × Nat) × Option Nat

/-- The blocks of a unit (R303). -/
def decodeUnit (bytes : List Byte) (fuel : Nat) : List Block :=
  match fuel with
  | 0 => []
  | f + 1 => decodeBlock (halfwords (bytes.take 4096)) 0 2048 :: decodeUnit (bytes.drop 4096) f

/-- The last addresses of the loops of blocks from the k-th on, as their encodings place them, by halfword offset in the
unit. -/
def loopLasts (bs : List Block) (k : Nat) : List Int :=
  match bs with
  | [] => []
  | b :: r =>
    b.1.filterMap (fun e =>
      match e.2.1 with
      | .loopN a => some ((2048 * k + e.1 : Nat) + (srcImm a.s2).toInt)
      | _ => none) ++ loopLasts r (k + 1)

/-- The first instruction of a block that the first pass refuses, windows and privilege included (R305). -/
def firstBad (l : List (Nat × Instr × Nat)) (bad : Option Nat) (lasts : List Int) : Option Nat :=
  match l with
  | [] => bad
  | (off, i, _) :: r =>
    if (isPrivileged i) || windowBad off i r lasts then some off else firstBad r bad lasts

/-- The first pass over blocks from the k-th on: the instructions by their halfword offset in the unit, or the block and
offset refused. -/
def scanBlocks (bs : List Block) (k : Nat) (lasts : List Int) : Except (Nat × Nat) (List (Nat × Instr)) :=
  match bs with
  | [] => .ok []
  | b :: rest =>
    match firstBad b.1 b.2 (lasts.map (fun x => x - (2048 * k : Nat))) with
    | some off => .error (k, off)
    | none => do
      let r ← scanBlocks rest (k + 1) lasts
      .ok (b.1.map (fun e => (2048 * k + e.1, e.2.1)) ++ r)

/-- A direct target inside the unit that is not a start (R300). -/
def displacementBad (starts : List Nat) (e : Nat × Instr) : Bool :=
  match directDisp e.2 with
  | none => false
  | some d =>
    let t := (e.1 : Int) + d
    0 ≤ t && t < 32768 && !starts.contains t.toNat

/-- The first pass over a unit's bytes (R305). -/
def firstPass (bytes : List Byte) : Except (Nat × Nat) (List (Nat × Instr)) :=
  let bs := decodeUnit bytes 16
  scanBlocks bs 0 (loopLasts bs 0)

/-- Scans a unit's bytes: its start map, or the block and offset refused (R305). -/
def scanUnit (bytes : List Byte) : Except (Nat × Nat) (List Nat) := do
  let l ← firstPass bytes
  let starts := l.map (fun e => e.1)
  match l.find? (displacementBad starts) with
  | some e => .error (e.1 / 2048, e.1 % 2048)
  | none => .ok starts

/-- Of requests in arrival order, those that must take effect before an access to `n` bytes at `pa`: the ones that touch its bytes, and the
ones that touch bytes of such a one behind them (R209, R218). -/
def aheadOf (pa n : Nat) (rs : List Req) : List Req :=
  rs.foldr (fun r ns =>
    if r.done.isNone && (overlaps r.pa r.len pa n || ns.any (fun q => q.meets r)) then r :: ns else ns) []

/-- A request in a table takes effect where it stands: its answer waits with it for its slot. -/
def State.settleNow (s : State) (r : Req) : State :=
  let (t, a) := s.perform r
  let mark (q : Req) : Req := if q == r then { q with done := some a } else q
  if paRegion r.pa = 1 then t.modColumn (paCol r.pa) (fun c => { c with table := c.table.map (fun e => { e with req := mark e.req }) })
  else t.modEdge (r.pa % 2 ^ 48 / 2 ^ 36) (fun e => { e with table := e.table.map mark })

/-- The launches' accesses that reached a home before a host access or a scan of its bytes take effect before it (R67, R218). -/
def State.settleAhead (s : State) (pa n : Nat) : State :=
  (aheadOf pa n (match paRegion pa with
    | 1 => (s.column (paCol pa)).table.map (fun e => e.req)
    | 2 => (s.edge (pa % 2 ^ 48 / 2 ^ 36)).table
    | _ => [])).foldl State.settleNow s

/-- The key index and bytes of a unit as a core's translations reach it, line by line. -/
def State.unitBytes (s : State) (unit key : Nat) : List Byte :=
  (span 0 1024).flatMap (fun i => s.readHome (unit * 65536 + 64 * i) 64 key)

/-- An entry's page holds a unit. -/
def TlbEntry.holds (e : TlbEntry) (unit : Nat) : Bool :=
  let u := unitOf (e.phys 0)
  if e.big then u / 32 == unit / 32 else u == unit

/-- DETAIL of CODE_SCAN: unit, block, offset (R305). -/
def scanDetail (unit block off : Nat) : W64 := BitVec.ofNat 64 (unit * 65536 + block * 4096 + off)

/-- A scan of a unit for a launch under a key: the unit recorded and marked, or the DETAIL of its CODE_SCAN (R215). -/
def State.scanFor (s : State) (lid unit key : Nat) : Except W64 State :=
  if (s.launch lid).scans.length ≥ 1024 then .error (scanDetail unit 0 0)
  else
    match scanUnit (s.unitBytes unit key) with
    | .error (b, o) => .error (scanDetail unit b o)
    | .ok starts =>
      let t := s.modLaunch lid (fun l =>
        { l with scans := putAt unit starts l.scans, codeKeys := putAt unit key l.codeKeys, scanning := dropAt unit l.scanning })
      .ok { t with codeMarks := (unit, lid) :: t.codeMarks }

/-- Reference clk since the scan of a unit began (R306). -/
def State.scanAge (s : State) (lid unit : Nat) : Nat := s.clk - getAt s.clk unit (s.launch lid).scanning

/-- Reference clk that the scan of a unit takes, 4 halfwords in each: up to the halfword that the first pass refuses, else all 32,768, also
where the second pass then refuses a displacement (R305, R306). -/
def State.scanClks (s : State) (lid unit key : Nat) : Nat :=
  if (s.launch lid).scans.length ≥ 1024 then 0
  else match firstPass (s.unitBytes unit key) with
    | .error (b, o) => (2048 * b + o) / 4
    | .ok _ => 8192

/-- CODE_SCAN: the scan that a context's fetch waits for ends, 4 halfwords in each clk since it began (R305, R306). It reads the stores that
reached the unit's home before it (R218). -/
def execCodeScan (core ctx : Nat) (s : State) : Host.Outcome State Fault Refusal :=
  match ((s.core core).ctx ctx).park, ((s.core core).ctx ctx).task with
  | some (.scan unit), some t =>
    match (s.core core).tlb.find? (fun e => e.lid == t.lid && e.holds unit) with
    | none => happens (s.modCore core (fun c => c.modCtx ctx (fun x => { x with park := none })))
    | some e =>
      let ahead := s.settleAhead (unit * 65536) 65536
      if ((s.launch t.lid).startMap? unit).isSome then happens s
      else if s.scanAge t.lid unit < ahead.scanClks t.lid unit e.key then happens s
      else
        match ahead.scanFor t.lid unit e.key with
        | .ok u => happens u
        | .error d => happens (s.trapAt core ctx clsCodeScan 0 d)
  | _, _ => happens s

end Sys2Proof.Machine
end

