-- ==== Sys2Proof/Machine/Arrive.lean ====
section
/-! DEFINITION. When a message of the network has arrived at its destination (R137, R140), and what taking it out means. -/

namespace Sys2Proof.Machine
open Sys2Proof

/-! ## Flits and headers (R133, R134, R153, R228) -/

/-- The number of a virtual network (Table 7-1). -/
def vnIndex (v : VN) : Nat :=
  match v with
  | .req => 0
  | .rsp => 1
  | .namei => 2
  | .named => 3
  | .hi => 4

/-- OPND of a header: the address or name of an access or named message, the waypoints of a static-route message, and of a signature marker
2 where the signature is saturated and else 1 (R228). -/
def Packet.opnd (p : Packet) : BitVec 64 :=
  let wp (k : Nat) : BitVec 19 := BitVec.ofNat 19 (p.wps.getD k 0)
  match p.body with
  | .access r => BitVec.ofNat 64 r.pa
  | .response r => BitVec.ofNat 64 r.pa
  | .interest i => i.name
  | .train t => t.name
  | .sigMark g => if g = BitVec.allOnes 1024 then 2 else 1
  | _ => if p.stat then 0#7 ++ wp 0 ++ wp 1 ++ wp 2 else 0

/-- The header flit of a message in a clk (Table 7-1). Fields that its kind does not use are zero (R133). -/
def Packet.header (p : Packet) (clk : Nat) : BitVec 256 :=
  let act : Bool := p.kind = 2
  0#32 ++ p.opnd ++ BitVec.ofNat 16 (Nat.min 0xFFFF (clk - p.born)) ++ BitVec.ofNat 8 p.hops
    ++ bit1 p.dta ++ BitVec.ofNat 2 (if p.dta then p.dtd else 0) ++ BitVec.ofNat 9 (if p.dta then p.dte else 0)
    ++ BitVec.ofNat 4 (if p.stat then p.route else 0) ++ BitVec.ofNat 3 (if p.stat then p.step else 0) ++ bit1 p.stat
    ++ (if act then p.handler else 0) ++ (if act then p.stage else 0) ++ BitVec.ofNat 6 p.lid ++ BitVec.ofNat 4 p.payload
    ++ BitVec.ofNat 3 (if p.kind = 3 then p.ch else 0) ++ BitVec.ofNat 4 p.kind ++ BitVec.ofNat 3 (vnIndex p.vn) ++ bit1 p.vc1
    ++ BitVec.ofNat 19 p.src ++ BitVec.ofNat 19 p.dest ++ BitVec.ofNat 19 (if p.stat then p.final else 0) ++ 0#18

/-- The flits of a message as they travel in a clk, a train's head message alone (R133, R134). -/
def Packet.asFlits (p : Packet) (clk : Nat) : List (BitVec 256) := p.header clk :: payloadFlits p.entryList

/-! ## Directions and detours (R135, R138, R139) -/

/-- The router one hop away: 0 north, 1 south, 2 east, 3 west, 4 twin. -/
def stepFrom (p dir : Nat) : Nat :=
  match dir with
  | 0 => p + 2
  | 1 => p - 2
  | 2 => p + 1024
  | 3 => p - 1024
  | _ => twinOf p

/-- The face by which a hop arrives. -/
def faceOf (dir : Nat) : Nat :=
  match dir with
  | 0 => 1
  | 1 => 0
  | 2 => 3
  | 3 => 2
  | _ => 4

/-- One of two routers runs at half clock in a clk. -/
def State.slowAt (s : State) (a b clk : Nat) : Bool := (s.group (groupOf a)).halvedAt clk || (s.group (groupOf b)).halvedAt clk

/-- Reference clk of a hop: 2 of the slower router's clock (R22, R140). -/
def State.hopClk (s : State) (a b : Nat) : Nat := if s.slowAt a b s.clk then 4 else 2

/-- The direction toward a column on a layer: x first, then y. -/
def planarDir (pos dest : Nat) : Nat :=
  if placeX pos < placeX dest then 2
  else if placeX dest < placeX pos then 3
  else if placeY pos < placeY dest then 0 else 1

/-- The direction of the undetoured route (R135): the twin bond first, then x, then y. -/
def routeDir (pos dest : Nat) : Nat := if placeZ pos ≠ placeZ dest then 4 else planarDir pos dest

/-- Hops between two places on an undetoured route. -/
def hopsBetween (p q : Nat) : Nat :=
  let d (a b : Nat) : Nat := (a - b) + (b - a)
  d (placeX p) (placeX q) + d (placeY p) (placeY q) + (if placeZ p = placeZ q then 0 else 1)

/-- The rectangle a router lies in (R138). -/
def State.rectOf (s : State) (p : Nat) : Option (Nat × Nat × Nat × Nat × Nat) :=
  s.mb.rects.find? (fun (z, x0, y0, x1, y1) =>
    placeZ p == z && x0 ≤ placeX p && placeX p ≤ x1 && y0 ≤ placeY p && placeY p ≤ y1)

/-- A direction and its code in DTD: 0 east, 1 west, 2 north, 3 south (Table 7-1). -/
def dtdCode (d : Nat) : Nat := (d + 2) % 4

/-- A detour started at a router whose hop in a direction is blocked (R139): DTD, DTE, the side and its line. Where the rectangle
touches the field's edge ahead, DTE is the edge (assumption log 61). -/
def detour (p : Packet) (dir : Nat) (r : Nat × Nat × Nat × Nat × Nat) : Packet :=
  let (_, x0, y0, x1, y1) := r
  let far := match dir with | 0 => Nat.min (y1 + 1) 511 | 1 => y0 - 1 | 2 => Nat.min (x1 + 1) 511 | _ => x0 - 1
  let alongX : Bool := dir = 2 || dir = 3
  let want := if alongX then (if placeY p.dest < placeY p.pos then 1 else 0) else 2
  let blocked : Bool := match want with | 0 => y1 == 511 | 1 => y0 == 0 | _ => x1 == 511
  let side := if blocked then faceOf want else want
  let line := match side with | 0 => y1 + 1 | 1 => y0 - 1 | 2 => x1 + 1 | _ => x0 - 1
  { p with dta := true, dtd := dtdCode dir, dte := far, side := side, line := line, vc1 := true }

/-- A coordinate of a router along a direction. -/
def coordOn (p dir : Nat) : Nat := if dir = 2 || dir = 3 then placeX p else placeY p

/-- The direction a packet takes next, detour in progress included. -/
def Packet.dir (p : Packet) : Nat :=
  if !p.dta then routeDir p.pos p.dest
  else if coordOn p.pos p.side ≠ p.line then p.side else dtdCode p.dtd

/-- The port by which a message leaves its last router: 5 to the core, 6 to the stair, 7 to the gallery block. -/
def Packet.outPort (p : Packet) : Nat := if p.leavesField then 7 else if p.port = .stair then 6 else 5

/-- The packet as its router sends it on, and the direction: a blocked hop starts a detour (R139). Where the twin router is dead the packet
stays on its layer until one is alive (DESIGN CHOICE, assumption log 77). -/
def State.aimAt (s : State) (p : Packet) : Packet × Nat :=
  if p.waits then (p, p.outPort) else
  let d := if p.dir = 4 && s.routerDead (twinOf p.pos) && colOf p.pos != colOf p.dest then planarDir p.pos p.dest else p.dir
  match s.rectOf (stepFrom p.pos d) with
  | some r => if d = 4 then (p, d) else let q := detour p d r; (q, q.dir)
  | none => (p, d)

/-- The packet as its router sends it on. -/
def State.aim (s : State) (p : Packet) : Packet := (s.aimAt p).1

/-- The direction in which its router sends a packet on. -/
def State.way (s : State) (p : Packet) : Nat := (s.aimAt p).2

/-! ## Links (R131, R132, R134) -/

/-- Flits an output port carries in a clk of its own: the twin bond two, a gallery port four or one, any other one (R131). -/
def State.linkRate (s : State) (place dir : Nat) : Nat := if dir = 4 then 2 else if dir = 7 then s.galleryRate place else 1

/-- The first of the ten virtual channels after the one served last that a test names (R132). -/
def roundRobin (last : Nat) (p : Nat → Bool) : Option Nat := ((span 1 10).map (fun i => (last + i) % 10)).find? p

/-- One flit of a message under way passes, of the virtual channel whose turn it is. -/
def Link.serve (l : Link) : Link :=
  match roundRobin l.last (fun v => l.flows.any (fun f => f.vc == v)) with
  | none => l
  | some v =>
    { l with
      last := v, used := l.used + 1
      flows := (l.flows.map (fun f => if f.vc == v then { f with left := f.left - 1 } else f)).filter (fun f => f.left != 0)
      fin := ((l.flows.filter (fun f => f.vc == v && f.left ≤ 1)).map (fun f => (f.uid, l.clk)) ++ l.fin).take 16 }

/-- A link served up to a clk: `rate` flits in each clk of its own, which is as long as the slower of its two routers has it then (R22). -/
def Link.runTo (l : Link) (rate : Nat) (slow : Nat → Bool) (until_ fuel : Nat) : Link :=
  match fuel with
  | 0 => l
  | f + 1 =>
    if l.flows.isEmpty || until_ ≤ l.clk then l
    else if l.used < rate then l.serve.runTo rate slow until_ f
    else ({ l with clk := l.clk + (if slow l.clk then 2 else 1), used := 0 } : Link).runTo rate slow until_ f

/-- The output port of a router in a direction, as it is now. A clk of its own that has carried a flit runs to its end. -/
def State.linkNow (s : State) (place dir : Nat) : Link :=
  let l := getAt {} (place * 8 + dir) s.links
  let n := (l.flows.map (fun f => f.left)).sum
  let slow := s.slowAt place (if dir < 5 then stepFrom place dir else place)
  let l := l.runTo (s.linkRate place dir) slow s.clk (2 * n + 2)
  if l.clk < s.clk && (l.used = 0 || l.clk + (if slow l.clk then 2 else 1) ≤ s.clk) then { l with clk := s.clk, used := 0 } else l

/-- Every output port served up to now, at the rates so far. -/
def State.settleLinks (s : State) : State :=
  { s with links := s.links.map (fun (e : Nat × Link) => (e.1, s.linkNow (e.1 / 8) (e.1 % 8))) }

/-! ## Buffers (R132, R472) -/

/-- A core whose old role drains or moves (R93). -/
def State.inDrain (s : State) (core : Nat) : Bool := s.recasts.any (fun r => r.dec.src == core && r.phase != .grace)

/-- A core whose logical target no longer takes traffic: a storage host in drain, or any host whose state has moved (R93). -/
def State.holdsItems (s : State) (core : Nat) : Bool :=
  s.recasts.any (fun r => r.dec.src == core &&
    (r.phase == .moved || (r.phase == .drain && (match r.dec.old with | some (.pool, _) => true | _ => false))))

/-- The virtual channel of a message, of ten. -/
def Packet.vc (p : Packet) : Nat := vnIndex p.vn * 2 + (if p.vc1 then 1 else 0)

/-- Two messages of a launch keep the order in which they were sent (R137), those for one logical target also where it moves between them
(R96). -/
def Packet.samePair (p q : Packet) : Bool :=
  p.lid == q.lid && p.src == q.src && (p.final == q.final || p.target.isSome && p.target == q.target) && p.vn == q.vn
    && p.stat == q.stat && p.route == q.route && p.port == q.port
    && !p.inner && !q.inner

/-- Clk from the acceptance of a message's header to that of its last flit (R140); a delivery inside a core carries its own latency. -/
def Packet.tail (p : Packet) : Nat := if p.inner then 0 else (if p.slow then 2 else 1) * (p.flits - 1)

/-- The clk at which a message at its last router is accepted, when nothing holds it. -/
def Packet.due (p : Packet) : Nat := p.ripe + p.tail

/-- An item that was held while its target moved is to be taken before this one (R96, R167). -/
def State.heldAhead (s : State) (p : Packet) : Bool :=
  p.target.isSome && s.net.any (fun q => q.uid != p.uid && !q.marks p && q.lid == p.lid && q.target == p.target
    && (match q.held, p.held with
        | none, _ => false
        | some _, none => true
        | some a, some b => a < b))

/-- A message waits at a storage host in drain, at a host that has moved, or behind items that were held: outside the buffers (R93). -/
def State.heldAside (s : State) (p : Packet) : Bool := p.pos == p.dest && (s.holdsItems p.dest || s.heldAhead p)

/-- A message came before another at a router. -/
def Packet.before (q p : Packet) : Bool := q.uid != p.uid && (q.ready < p.ready || q.ready == p.ready && q.uid < p.uid)

/-- A signature marker, which is accepted wherever it arrives. -/
def Packet.isMark (p : Packet) : Bool := match p.body with | .sigMark _ => true | _ => false

/-- A message takes room at the input port it came in by, if the buffer there has room for it. One that has left by its last port takes
none, unless it is not taken there. -/
def State.present? (s : State) (p : Packet) : Bool :=
  !p.inner && !p.spilt && !s.heldAside p
    && (p.pos != p.dest || p.waits || (!p.ejects && s.clk < p.ready + p.flits) || (p.due < s.clk && !p.isMark))

/-- Flits that a message takes of an 8-flit buffer; a train passes through it message by message. -/
def Packet.room (p : Packet) : Nat := Nat.min 8 p.flits

/-- A message stands in the buffer of the input port it came in by. At the port of a core, a stair or a gallery block it comes in when the
buffer has room for it beside those before it (R132, R431). -/
def State.stands (s : State) (p : Packet) : Bool :=
  s.present? p && (p.face < 5 || p.hops != 0 || ((s.net.filter (fun q => q.pos == p.pos && q.face == p.face && q.vc == p.vc && s.present? q
    && (q.uid == p.uid || q.before p))).map (fun q => q.room)).sum ≤ 8)

/-- The flits of messages that have begun to leave an input buffer of a router and are still in it. -/
def State.leaving (s : State) (place face vc : Nat) : Nat :=
  ((span 0 8).map (fun d => (((s.linkNow place d).flows.filter (fun f => f.face == face && f.from_ == vc)).map (fun f => f.left)).sum)).sum

/-- Flits taken of an input buffer of a router. -/
def State.taken (s : State) (place face vc : Nat) : Nat :=
  ((s.net.filter (fun q => q.pos == place && q.face == face && q.vc == vc && s.stands q)).map (fun q => q.room)).sum + s.leaving place face vc

/-- A message whose header is still in its core, or has just passed the local port of the first router. -/
def State.atLocalPort (_ : State) (p : Packet) : Bool := p.pos == p.src && p.face == 5 && p.hops == 0 && !p.inner

/-- The local port's buffer has room for a message beside those sent before it (R431). -/
def State.roomAtPort (s : State) (p : Packet) : Bool :=
  ((s.net.filter (fun q => q.pos == p.pos && q.face == 5 && q.vc == p.vc && s.present? q && q.uid ≤ p.uid)).map (fun q => q.room)).sum
    + s.leaving p.pos 5 p.vc ≤ 8

/-- A message for the high-priority queue of its tile: an active message or a notice (R86, R106). -/
def Packet.highBound (p : Packet) : Bool :=
  match p.body with
  | .message => p.kind = 2 && p.hiPrio
  | .notice _ => true
  | _ => false

/-- A message that comes to `next` comes to its last router there, past its last waypoint if that is the same tile. -/
def Packet.lastAt (p : Packet) (next : Nat) : Bool :=
  next == p.dest && p.dest == p.final && p.port == .core && p.back.isNone && (!p.onWay || p.step + 1 == p.wps.length)

/-- Where a router is the message's last, it accepts the message there: one for a queue finds room in it and a channel message in its ring,
beside those already on their way from that router, or ahead at it (R106, R472). -/
def State.destRoom (s : State) (p : Packet) (next : Nat) : Bool :=
  if !p.lastAt next then true
  else
    let c := s.core p.dest
    let ahead := s.net.filter (fun q => q.pos == p.dest && q.uid != p.uid && q.lastAt p.dest && (p.pos != p.dest || !q.waits || q.before p))
    if p.highBound then c.tile?.isNone || c.highQ.length + (ahead.filter Packet.highBound).length < 8
    else
      match p.body with
      | .message =>
        let ahead := ahead.filter (fun q => q.body == .message && q.kind == p.kind && q.ch == p.ch && !q.hiPrio)
        if p.kind = 3 then
          let h := c.chan p.ch
          !h.en || h.count.toNat + ((ahead.map (fun q => q.entries.length)).sum + p.entries.length) ≤ h.size
        else p.kind != 2 || c.tile?.isNone || c.lowQ.length + ahead.length < 16
      | _ => true

/-- The downstream buffer has room for a message, as it will arrive there; the port of its last router needs none. -/
def State.outOpen (s : State) (p : Packet) : Bool :=
  if p.waits then s.destRoom p p.dest
  else
    let (q, d) := s.aimAt p
    let next := stepFrom p.pos d
    s.taken next (faceOf d) q.vc + q.room ≤ 8 && s.destRoom p next && !s.routerDead next && !s.routerDead p.pos

/-- A message is at the head of its virtual channel's buffer: none that came before it is there, and the one before it has left. -/
def State.headIn (s : State) (p : Packet) : Bool :=
  !s.net.any (fun q => q.pos == p.pos && q.vc == p.vc && q.face == p.face && q.before p && s.stands q) && s.leaving p.pos p.face p.vc = 0

/-- A message that came before it stands in the overflow buffer of its router, for the same way out. -/
def State.behindOver (s : State) (p : Packet) : Bool :=
  s.net.any (fun q => q.spilt && q.pos == p.pos && q.vc == p.vc && q.before p && s.way q == s.way p)

/-- A message is the next to leave its buffer. -/
def State.atHead (s : State) (p : Packet) : Bool := (p.spilt || s.headIn p) && !s.behindOver p

/-- A message stands at a router from where it goes on in a direction on a virtual channel, and nothing but the link stops it. -/
def State.wantsOut (s : State) (p : Packet) : Bool :=
  (p.pos != p.dest || p.waits) && p.ready ≤ s.clk && !p.inner && s.outOpen p && s.atHead p

/-- The output port once the messages on it whose turn comes before a header of a virtual channel have passed a flit in this clk; none
when the clk has no flit left for it, or when another header comes first (R131, R132). -/
def Link.beforeHeader (l : Link) (rate vc : Nat) (wants : Nat → Bool) (fuel : Nat) : Option Link :=
  match fuel with
  | 0 => none
  | f + 1 =>
    if rate ≤ l.used then none
    else
      match roundRobin l.last (fun v => v == vc || l.flows.any (fun g => g.vc == v) || wants v) with
      | none => none
      | some v => if v = vc then some l else if l.flows.any (fun g => g.vc == v) then l.serve.beforeHeader rate vc wants f else none

/-- The output port that passes the header of a message now: it has a flit to give, no message of the virtual channel is on it, and the
channel has its turn (R132, R134). -/
def State.linkFor (s : State) (p : Packet) : Option Link :=
  let (q, d) := s.aimAt p
  let l := s.linkNow p.pos d
  let wants (v : Nat) : Bool := s.net.any (fun r => r.pos == p.pos && s.way r == d && (s.aim r).vc == v && s.wantsOut r)
  if s.clk < l.clk || l.flows.any (fun f => f.vc == q.vc) then none else l.beforeHeader (s.linkRate p.pos d) q.vc wants 3

/-- Flits in the overflow buffer of a router's routing tile. -/
def State.overFlits (s : State) (place : Nat) : Nat := ((s.net.filter (fun q => q.spilt && q.pos == place)).map (fun q => q.flits)).sum

/-- A routing tile of the message's launch takes it into its overflow buffer of 32 KiB, 1,024 flits, because the way out is blocked (R79,
R472). -/
def State.overflows (s : State) (p : Packet) : Bool :=
  (match (s.core p.pos).role with | .host lid .routing _ => lid == p.lid | _ => false)
    && !p.spilt && !p.inner && !p.waits && !s.inDrain p.pos && s.headIn p && (!s.outOpen p || s.behindOver p) && s.overFlits p.pos + p.flits ≤ 1024

/-- A message's header may go on to the next router, or out of its last one. -/
def State.mayHop (s : State) (p : Packet) : Bool := s.wantsOut p && (s.linkFor p).isSome

/-- The link after the header of a message has passed it. -/
def State.passLink (s : State) (p : Packet) : State :=
  let (q, d) := s.aimAt p
  let l := (s.linkFor p).getD (s.linkNow p.pos d)
  let n := p.flits - 1
  let l := { l with last := q.vc, used := l.used + 1 }
  let l := if n = 0 then { l with fin := ((p.uid, s.clk) :: l.fin).take 16 }
    else { l with flows := l.flows ++ [{ vc := q.vc, uid := p.uid, left := n, face := if p.spilt then 8 else p.face, from_ := p.vc }] }
  { s with links := putAt (p.pos * 8 + d) l s.links }

/-- The last flit of a message has passed a link, so long ago that it has come out of the router that it reached at the clk `after` gives. -/
def State.lastFlit (s : State) (l : Link) (p : Packet) (after : Nat → Nat) : Bool :=
  !l.flows.any (fun f => f.uid == p.uid)
    && (match l.fin.find? (fun e => e.1 == p.uid) with
        | some e => s.ripens p p.pos (after e.2) ≤ s.clk
        | none => true)

/-- The last flit of a message has come over the last link and out of the last port, early enough to have been accepted now. -/
def State.tailIn (s : State) (p : Packet) : Bool :=
  p.inner
    || (p.hops = 0 || 5 ≤ p.face
        || let from_ := stepFrom p.pos p.face
           s.lastFlit (s.linkNow from_ (faceOf p.face)) p (fun e => e + s.hopClk from_ p.pos))
      && s.lastFlit (s.linkNow p.pos p.outPort) p (fun e => e)

/-- The k-th message of the network, once it has arrived where it goes, or back at its source. -/
def State.arrived (s : State) (k : Nat) : Option Packet :=
  match s.net[k]? with
  | none => none
  | some p =>
    if p.pos = p.dest && p.dest = p.final && !p.onWay && !p.spilt && !p.waits && p.due ≤ s.clk && s.tailIn p
        && !(s.net.take k).any (fun q => q.samePair p && (!q.marks p || q.pos != p.pos || s.clk < q.due))
    then some p else none

/-- The k-th message of the network, once it can be accepted at its final destination. -/
def State.landed (s : State) (k : Nat) : Option Packet := (s.arrived k).filter (fun p => p.back.isNone)

/-- The role map still places a message's logical target at its destination, which holds that role (R95, R126), and no item held before
is to be taken first; and that host takes items now (R93, R96). -/
def State.atHost (s : State) (p : Packet) : Bool :=
  match p.target with
  | none => true
  | some (k, i) => (s.launch p.lid).hostOf k i == some p.dest && (s.core p.dest).role == Role.host p.lid k i && !s.heldAhead p
    && !s.holdsItems p.dest

/-- A message that has arrived at a host of its target, which does not hold it (R93), and the network without it. -/
def State.accept (s : State) (k : Nat) : Option (Packet × State) :=
  match s.landed k with
  | some p => if s.atHost p then some (p, s.dropPacket k) else none
  | none => none

/-! ## What an instruction sends (R431) -/

/-- The core's injection slot of a virtual network is taken: a header has not passed into the first router, where it may have to wait for
room. -/
def State.slotTaken (s : State) (v : VN) : Bool :=
  s.clk < getAt 0 (vnIndex v) s.cc.slots || s.net.any (fun p => p.src == s.cur.core && p.vn == v && s.atLocalPort p && !s.roomAtPort p)

/-- An instruction that sends a message waits for the injection slot (R431). -/
def State.gateSlot (s : State) (v : VN) : Res Unit := parkIf (s.slotTaken v) s (.inject (vnIndex v))

/-- A message of the current core injected: its header passes into the first router 4 clk after issue, and not before the flits of the
message ahead of it, with that of its own marker first. -/
def State.inject (s : State) (p : Packet) : State :=
  let r := Nat.max (s.clk + s.delay s.cur.core 4) (getAt 0 (vnIndex p.vn + 8) s.cc.slots)
  let s := s.modCc (fun c => { c with slots := putAt (vnIndex p.vn + 8) (r + p.allFlits) (putAt (vnIndex p.vn) (r + p.markFlits) c.slots) })
  s.send { p with lid := s.lid, src := s.cur.core, pos := s.cur.core, born := s.clk, ready := r }

/-- A message of the current core to a compute tile of its launch. -/
def State.postTile (s : State) (vn : VN) (kind l : Nat) (body : Body) : State :=
  let q := (s.hostSeen s.cur.core s.lid .compute l).getD s.cur.core
  s.inject { vn := vn, kind := kind, dest := q, final := q, target := some (.compute, l), body := body }

/-- A message of the current core to a hall controller. -/
def State.postHall (s : State) (h : Nat) (body : Body) : State :=
  let q := (s.hallCtlCore h).getD s.cur.core
  s.inject { vn := .hi, kind := 6, dest := q, final := q, port := .hall h, body := body }

/-- The cores that hold the register a ticket delivers to: both of a column for the twin window (R233). -/
def State.holders (s : State) (core : Nat) (t : BitVec 16) : List Nat :=
  match ((s.core core).ticketLoc t).getD .nowhere with
  | .nowhere => []
  | .gpr c _ _ => [c]
  | .twin col _ => [2 * col, 2 * col + 1]

/-- A producer's Fill or Poison: its signature is applied at the cores that hold the register, then the register takes it
(R176, R233). -/
def State.deliverAcq (s : State) (core : Nat) (t : BitVec 16) (r : Reg) (sig : Option Sig) : State :=
  let s := match sig with
    | some g => (s.holders core t).foldl (fun (s : State) c => s.applySig c g) s
    | none => s
  s.deliver core t r

end Sys2Proof.Machine
end

