-- ==== Sys2Proof/Machine/Tasks.lean ====
section
/-! DEFINITION. Task records, deques, dependence counters, admission, limits, the end of a task, steals and donations (spec 06
R102–R124), with fork, join, dcset, dcdec and end (spec 18 R400, R401, spec 20 R436). -/

namespace Sys2Proof.Machine
open Sys2Proof

/-! ## Task records (Table 6-3) -/

/-- A field of a record's first granule. -/
def hdrField (h : W128) (lo n : Nat) : Nat := h.toNat / 2 ^ lo % 2 ^ n
/-- ORIGIN. -/
def TaskRec.origin (r : TaskRec) : Nat := hdrField r.hdr 84 20
/-- LINKL. -/
def TaskRec.linkL (r : TaskRec) : Nat := hdrField r.hdr 64 20
/-- LDC. -/
def TaskRec.ldc (r : TaskRec) : Nat := hdrField r.hdr 40 6
/-- LINK. -/
def TaskRec.linked (r : TaskRec) : Bool := r.hdr.getLsbD 33
/-- PIN. -/
def TaskRec.pinned (r : TaskRec) : Bool := r.hdr.getLsbD 32
/-- STAGE. -/
def TaskRec.stage (r : TaskRec) : BitVec 8 := r.hdr.extractLsb' 24 8
/-- HANDLER. -/
def TaskRec.handler (r : TaskRec) : Nat := hdrField r.hdr 0 12
/-- A reserved bit is set (R104). -/
def TaskRec.reservedBad (r : TaskRec) : Bool :=
  hdrField r.hdr 104 24 != 0 || hdrField r.hdr 46 18 != 0 || hdrField r.hdr 35 5 != 0 || hdrField r.hdr 22 2 != 0
    || hdrField r.hdr 12 4 != 0

/-- The record that fork and join build from a header (R436): ORIGIN and LID of the tile, DONATED clear. -/
def recordHeader (h : W128) (origin lid : Nat) : W128 :=
  h.extractLsb' 104 24 ++ BitVec.ofNat 20 origin ++ h.extractLsb' 35 49 ++ 0#1 ++ h.extractLsb' 22 12
    ++ BitVec.ofNat 6 lid ++ h.extractLsb' 0 16

/-- DONATED set (R113). -/
def TaskRec.donated (r : TaskRec) : TaskRec := { r with hdr := r.hdr ||| BitVec.ofNat 128 (2 ^ 34) }

/-! ## The deque (R107) -/

/-- A record pushed at the bottom; the 8 topmost move to the spill area first where the deque is full. None when 512 records
are already spilled. -/
def Core.pushBottom (c : Core) (r : TaskRec) : Option Core :=
  if c.deque.length < 32 then some { c with deque := c.deque ++ [r] }
  else if 512 ≤ c.spill.length then none
  else some { c with spill := c.spill ++ c.deque.take 8, deque := c.deque.drop 8 ++ [r] }

/-- The most recently spilled block returned to an empty deque. -/
def Core.refillDeque (c : Core) : Core :=
  let n := c.spill.length - 8
  if c.deque.isEmpty then { c with deque := c.spill.drop n, spill := c.spill.take n } else c

/-- The topmost record that may be stolen or donated. -/
def topUnpinned (d : List TaskRec) : Option TaskRec := d.find? (fun r => !r.pinned)

/-- The deque without it. -/
def dropUnpinned (d : List TaskRec) : List TaskRec :=
  match d with
  | [] => []
  | r :: k => if r.pinned then r :: dropUnpinned k else k

/-! ## Dependence counters (R108, R232) -/

/-- A counter of a core. -/
def Core.counter (c : Core) (n : Nat) : Counter := getAt {} n c.counters

/-- A counter set to a count; at zero its bound record, with the union of signatures, moves to the FIFO (R108, R400). -/
def Core.setCount (c : Core) (n : Nat) (count : BitVec 16) (sig : Sig) : Core :=
  match count == 0, (c.counter n).bound with
  | true, some r => { c with counters := putAt n {} c.counters, fifo := c.fifo ++ [{ r with sig := sigUnion r.sig sig }] }
  | _, b => { c with counters := putAt n { count := count, bound := b, sig := sig } c.counters }

/-! ## Where tasks may be admitted -/

/-- The group row of a place (R23). -/
def rowOf (p : Nat) : Nat := groupOf p * 8 + hallOf p / 32 % 8

/-- A launch whose instructions issue now: a fault of this clk stops the others only at its end (R266, R269). -/
def Launch.issues (l : Launch) (clk : Nat) : Bool :=
  !l.frozen && l.halted.isNone && l.phase != .saved && (match l.fault with | none => true | some (c, _) => c == clk)

/-- A fault of a core has been recorded in this clk (R269). -/
def Launch.faultAt (l : Launch) (core clk : Nat) : Bool :=
  l.faulted.contains core && (match l.fault with | some (c, _) => c == clk | none => false)

/-- A launch whose cores run: no fault recorded, not frozen, not halted, and no brk of this clk. -/
def Launch.live (l : Launch) : Bool := !l.frozen && l.fault.isNone && l.halted.isNone && l.brkAt.isNone

/-- A context is runnable (R110, R114). A fault of its core in this clk comes first (R269). -/
def State.runnable (s : State) (core ctx : Nat) : Bool :=
  let x := (s.core core).ctx ctx
  match x.task with
  | none => false
  | some t =>
    (match s.launch? t.lid with | some l => l.issues s.clk && !l.faultAt core s.clk | none => false) && x.first ≤ s.clk
      && (match x.park with | none => true | some p => s.parkOver core ctx p)

/-- The LID and L of a tile whose launch admits tasks there. -/
def State.admits (s : State) (core : Nat) : Option (Nat × Nat) :=
  match (s.core core).tile? with
  | none => none
  | some (lid, l) =>
    let k := s.launch lid
    if k.live && (k.phase == .running || k.phase == .admission) && !k.rows.contains (rowOf core) && !s.inDrain core
    then some (lid, l) else none

/-- A context is free (R110, R120). -/
def Core.freeCtx (c : Core) (clk n : Nat) : Bool :=
  (c.ctx n).task.isNone && !c.shadows.any (fun h => h.ctx == n)
    && (match (c.ctx n).park with
        | some (.untilClk k) => k ≤ clk
        | _ => true)

/-- The lowest free low context. -/
def Core.freeLow (c : Core) (clk : Nat) : Option Nat := [1, 2, 3, 4].find? (c.freeCtx clk)

/-! ## The handler entry (R102) -/

/-- What the read of a handler entry comes to. -/
inductive Entry where
  | ok (va : VAddr)
  | bad
  /-- a page must be walked first -/
  | miss (va : Nat)
  /-- the unit must be scanned first -/
  | scan (unit : Nat)
  deriving DecidableEq, Repr

/-- A page that must be walked, or whose walk has just failed for the context. -/
def State.entryMiss (s : State) (core ctx va : Nat) : Entry :=
  if ((s.core core).ctx ctx).badWalk = some (va / 65536) then .bad else .miss va

/-- Bytes that a handler entry's read gives through the TLB, piece by piece. -/
def State.readEntry (s : State) (core ctx lid va n : Nat) : Except Entry (List Byte) :=
  (piecesOf va n).foldl (fun acc p => do
    let bs ← acc
    match s.xlate core lid p.va false with
    | .ok t => if s.damaged t.pa then .error .bad else .ok (bs ++ s.readHome t.pa p.len t.key)
    | .miss => .error (s.entryMiss core ctx p.va)
    | _ => .error .bad) (.ok [])

/-- The first instruction of a handler: the entry read and checked, its unit scanned. An HTAB that is not 8-byte aligned is used as it
stands (DESIGN CHOICE, assumption log 85). -/
def State.handlerEntry (s : State) (core ctx lid h : Nat) : Entry :=
  match s.readEntry core ctx lid ((s.launch lid).record.htab.toNat + 8 * h) 8 with
  | .error e => e
  | .ok bs =>
    let e := bytesNat bs
    if 2 ^ 48 ≤ e || e % 2 = 1 || 0xD ≤ e / 2 ^ 44 then .bad
    else
      match (s.core core).tlbFind lid e with
      | none => s.entryMiss core ctx e
      | some t =>
        let pa := t.phys e
        if !t.x || !s.codeOk pa then .bad
        else
          match (s.launch lid).startMap? (unitOf pa) with
          | some m => if m.contains (pa % 65536 / 2) then .ok (BitVec.ofNat 48 e) else .bad
          | none => .scan (unitOf pa)

/-- A context whose admission has still to read its handler entry: the entry's address, the trap of a bad one, or a wait for the walk
or the scan that the read needs (R102, R214, R306). -/
def State.resolveEntry (s : State) (core ctx : Nat) : State :=
  let x := (s.core core).ctx ctx
  match x.entry, x.task with
  | some h, some t =>
    match s.handlerEntry core ctx t.lid h with
    | .bad => s.trapAt core ctx clsBadHandler 0 (BitVec.ofNat 64 h)
    | .ok va => s.modCore core (fun c => c.modCtx ctx (fun x => { x with pc := va, npc := va, entry := none, park := none, badWalk := none }))
    | .miss va => s.parkAt core ctx (.walk (BitVec.ofNat 48 va))
    | .scan u => s.parkAt core ctx (.scan u)
  | _, _ => s

/-! ## Admission (R103, R110) -/

/-- A task about to be admitted. -/
structure Work where
  handler : Nat
  stage : BitVec 8 := 0
  src : BitVec 2
  /-- g0–g3 -/
  regs : List TagVal := []
  link : Option (Nat × Nat) := none
  sig : Sig := 0
  /-- a record that R104 refuses -/
  bad : Bool := false

/-- The task of a record. -/
def TaskRec.work (r : TaskRec) (src : BitVec 2) (c : Nat) : Work :=
  { handler := r.handler, stage := r.stage, src := src, regs := [r.arg0, r.arg1, r.arg2, val64 r.origin]
    link := if r.linked then some (r.linkL, r.ldc) else none, sig := r.sig
    bad := r.reservedBad || (r.linked && c ≤ r.linkL) }

/-- The task of a message or notice (Table 6-2, R86). -/
def Msg.work (m : Msg) (hcnt : Nat) : Work :=
  match m.notice with
  | some w => { handler := hcnt, src := 1, regs := [⟨reg64 w, false⟩] }
  | none => { handler := m.handler.toNat, stage := m.stage, src := 1, regs := m.args.take 4 }

/-- Registers g0, g1, … from a list; every other register is FULL and zero (R103). -/
def startRegs (n : Nat) (vs : List TagVal) : List (Nat × Reg) :=
  match vs with
  | [] => []
  | v :: r => (n, Reg.full v) :: startRegs (n + 1) r

/-- Admits a task on a free context (R102, R103, R110). A low task's first instruction clears s.notice (R87, assumption log 64). -/
def State.startTask (s : State) (core ctx lid : Nat) (w : Work) : State :=
  let c := s.core core
  let task : Task :=
    { lid := lid, stage := w.stage, handler := BitVec.ofNat 12 w.handler, src := w.src, hi := ctx == 0, seq := c.seq + 1
      link := w.link, limit := if ctx = 0 then 512 else c.tlimit.toNat * 256, since := s.ownClk core }
  let s := s.modCore core (fun c =>
    { c with seq := c.seq + 1, nextAdmit := s.clk + s.delay core 1 }.modCtx ctx (fun x =>
      { regs := startRegs 0 w.regs, relWait := x.relWait, relFence := x.relFence, task := some task, entry := some w.handler, first := s.clk + s.delay core 2
        notice := if ctx = 0 then none else some 0 }))
  let s := if w.sig = 0 then s else s.applySig core w.sig
  if w.bad || (s.launch lid).record.hcnt.toNat < w.handler then s.trapAt core ctx clsBadHandler 0 (BitVec.ofNat 64 w.handler)
  else s.resolveEntry core ctx

/-- The sources of low contexts: message queue, FIFO, deque. -/
inductive Source where
  | queue | fifo | deque
  deriving DecidableEq, Repr

/-- The source's place in the order of R110. -/
def Source.index : Source → Nat
  | .queue => 0
  | .fifo => 1
  | .deque => 2

/-- The source can give a task now. -/
def Core.ready (c : Core) (q : Source) : Bool :=
  match q with
  | .queue => !c.lowQ.isEmpty
  | .fifo => !c.fifo.isEmpty
  | .deque => !c.deque.isEmpty

/-- The source holds work; spilled records are work of the deque. -/
def Core.holdsWork (c : Core) (q : Source) : Bool := c.ready q || (q == .deque && !c.spill.isEmpty)

/-- The source that the next low admission takes (R110). One passed over eight times is taken next; of two such, the earlier in the order
(DESIGN CHOICE, assumption log 87); where it holds only spilled records, their refill comes first. -/
def Core.nextSource (c : Core) : Option Source :=
  let order : List Source := [.queue, .fifo, .deque]
  match order.find? (fun q => c.holdsWork q && 8 ≤ c.passed.getD q.index 0) with
  | some q => if c.ready q then some q else none
  | none => order.find? c.ready

/-- The passed-over counts after an admission from a source. -/
def Core.passCounts (c : Core) (took : Option Source) : List Nat :=
  [Source.queue, .fifo, .deque].map (fun q =>
    if took = some q || !c.holdsWork q then 0 else c.passed.getD q.index 0 + 1)

/-- Takes the next task of a source. -/
def Core.takeWork (c : Core) (q : Source) (hcnt cN : Nat) : Option (Work × Core) :=
  let c' := { c with passed := c.passCounts (some q) }
  match q with
  | .queue => match c.lowQ with
    | m :: r => some (m.work hcnt, { c' with lowQ := r })
    | [] => none
  | .fifo => match c.fifo with
    | m :: r => some (m.work 3 cN, { c' with fifo := r })
    | [] => none
  | .deque => match c.deque.getLast? with
    | some m => some (m.work 2 cN, { c' with deque := c.deque.dropLast })
    | none => none

/-- The compute tiles of a launch in a core's hall, by increasing L, the core itself left out (R111). -/
def State.stealFrom (s : State) (core lid : Nat) : List Nat :=
  (span 0 (s.launch lid).c).filter (fun l =>
    match (s.launch lid).hostOf .compute l with
    | some p => p != core && hallOf p == hallOf core
    | none => false)

/-- The next victim after the last, with wrap-around; the first victim of a tile is the lowest. -/
def nextVictim (last : Option Nat) (cands : List Nat) : Option Nat :=
  match last with
  | none => cands.head?
  | some v => match cands.find? (fun l => v < l) with
    | some l => some l
    | none => cands.head?

/-- A steal request, when the sources are empty, a low context is free and none is outstanding (R111). -/
def State.requestSteal (s : State) (core lid : Nat) : State :=
  let c := s.core core
  if c.stealOut || c.backoff.isSome || !c.spill.isEmpty then s
  else
    match nextVictim c.lastVictim (s.stealFrom core lid) with
    | none => s
    | some v =>
      match (s.launch lid).hostOf .compute v with
      | none => s
      | some p =>
        (s.modCore core (fun c => { c with stealOut := true, lastVictim := some v })).send
          { vn := .hi, kind := 6, lid := lid, src := core, dest := p, final := p, pos := p, inner := true, body := .stealReq core
            born := s.clk, ready := s.clk }

/-! ## Limits (R117, R118) -/

/-- The own clk left to a context's task or handler; none while its launch's limits do not count. -/
def State.limitLeft (s : State) (core ctx : Nat) : Option Nat :=
  match ((s.core core).ctx ctx).task with
  | none => none
  | some t =>
    match s.launch? t.lid with
    | some l => if l.issues s.clk then some (t.limit - (s.ownClk core - t.since)) else none
    | none => none

/-- A fault of a core in this clk has been recorded, or a limit of it runs out as the clk ends: it comes before an admission (R269). -/
def State.faultsNow (s : State) (core : Nat) : Bool :=
  (s.launch (s.core core).who.1).faultAt core s.clk || (span 0 5).any (fun x => s.limitLeft core x == some 0)

/-- Context 0 takes the next admission of a core: it is free and a high-priority message waits (R110). -/
def Core.hiFirst (c : Core) (clk : Nat) : Bool := c.freeCtx clk 0 && !c.highQ.isEmpty

/-- TASK_ADMISSION: context 0 first, then the lowest free low context; with no work a steal request (R110, R111). -/
def execTaskAdmission (core : Nat) (s : State) : Host.Outcome State Fault Refusal :=
  match s.admits core with
  | none => happens s
  | some (lid, _) =>
    let c := s.core core
    let k := s.launch lid
    if s.clk < c.nextAdmit || s.faultsNow core then happens s
    else
      match c.freeCtx s.clk 0, c.highQ with
      | true, m :: r =>
        let s := (s.modCore core (fun c => { c with highQ := r })).startTask core 0 lid (m.work k.record.hcnt.toNat)
        happens (s.modCore core (fun c => c.modCtx 0 (fun x => { x with notice := m.notice })))
      | _, _ =>
        match c.freeLow s.clk, c.nextSource with
        | some x, some q =>
          match c.takeWork q k.record.hcnt.toNat k.c with
          | some (w, c') => happens ((s.setCore core c').startTask core x lid w)
          | none => happens s
        | some _, none => happens (s.requestSteal core lid)
        | none, _ => happens s

/-- A task or handler that has run its limit without retiring traps (R117, R118). -/
def State.expireAt (s : State) (core ctx : Nat) : State :=
  match ((s.core core).ctx ctx).task with
  | none => s
  | some t =>
    if s.limitLeft core ctx = some 0 then
      (if t.hi then s.trapAt core ctx clsHandlerLimit 0 512 else s.trapAt core ctx clsTaskLimit 0 (BitVec.ofNat 64 (t.limit / 256)))
    else s

/-- TASK_LIMIT_EXPIRY. -/
def execTaskLimitExpiry (core ctx : Nat) (s : State) : Host.Outcome State Fault Refusal :=
  happens (if (match ((s.core core).ctx ctx).task with | some t => t.hi | none => true) then s else s.expireAt core ctx)

/-- HANDLER_LIMIT_EXPIRY. -/
def execHandlerLimitExpiry (core : Nat) (s : State) : Host.Outcome State Fault Refusal :=
  happens (if (match ((s.core core).ctx 0).task with | some t => t.hi | none => false) then s.expireAt core 0 else s)

/-- The contexts that have a task or handler. -/
def State.tasked (s : State) : List (Nat × Nat) :=
  s.cores.flatMap (fun (e : Nat × Core) => (e.2.ctxs.filter (fun x => x.2.task.isSome)).map (fun x => (e.1, x.1)))

/-- Every limit that has run out in the clk that ends. -/
def State.expire (s : State) : State := s.tasked.foldl (fun (s : State) e => s.expireAt e.1 e.2) s

/-- Reference clk to the next limit that runs out. -/
def State.nextLimit (s : State) : Option Nat :=
  s.tasked.foldl (fun (b : Option Nat) e =>
    match s.limitLeft e.1 e.2 with
    | some (n + 1) =>
      let d := s.delay e.1 (n + 1)
      match b with
      | some m => some (Nat.min m d)
      | none => some d
    | _ => b) none

/-! ## The end of a task (R120, R109) -/

/-- A bound register of a context is unbound (R413): an input's buffer is discarded, an output's entries are still written,
and its Fill follows. Gives the element count of an input stream, whose Fill is due at once. -/
def State.unbind (s : State) (core ctx reg : Nat) (t : Stream) (ticket : Option (BitVec 16)) : State :=
  s.modCore core (fun c =>
    let c := c.modCtx ctx (fun x => { (x.setReg reg {}) with streams := dropAt reg x.streams })
    if t.out then { c with closing := c.closing ++ [{ ctx := ctx, reg := reg, stream := t, ticket := ticket }] } else c)

/-- Tickets that deliver to a context's registers deliver nowhere from now on (R120). -/
def dropCtxTickets (core ctx : Nat) (c : Core) : Core :=
  { c with tickets := c.tickets.map (fun t => match t.loc with
      | .gpr p x _ => if p = core && x = ctx then { t with loc := .nowhere } else t
      | _ => t) }

/-- The launch notes what its current task's core was as the task retires. -/
def State.noteEnd (s : State) : State :=
  let e : Ended := { clk := s.clk, core := s.cur.core, was := s.cc, twin := (s.core (twinOf s.cur.core)).tickets }
  s.modLaunch s.lid (fun l => { l with ended := l.ended.filter (fun d => d.clk == s.clk) ++ [e] })

/-- The retirements of a launch in a clk are undone: a fault of the launch in the same clk is taken first (R269, Table 13-3). -/
def State.undoEnds (s : State) (lid clk : Nat) : State :=
  let l := s.launch lid
  let es := l.ended.filter (fun e => e.clk == clk)
  let s := es.foldl (fun (s : State) e => (s.setCore e.core e.was).modCore (twinOf e.core) (fun c => { c with tickets := e.twin })) s
  let s := s.modLaunch lid (fun l => { l with tasks := l.tasks - BitVec.ofNat 64 es.length, ended := [] })
  { s with net := s.net.filter (fun p => !(p.lid == lid && p.born == clk && es.any (fun e => e.core == p.src)
      && (match p.body with | .decrement _ _ => true | _ => false))) }

/-- The current task retires: its streams are unbound as by sunb z, its pending futures are discarded, and its context is
free in the next clk. Its fences go on (R226). -/
def State.retire (s : State) : State :=
  let core := s.cur.core
  let ctx := s.cur.ctx
  let s := s.noteEnd
  let s := s.cx.streams.foldl (fun s t => s.unbind core ctx t.1 t.2 none) s
  let s := s.modLaunch s.lid (fun l => { l with tasks := l.tasks + 1 })
  let s := (s.modCore core (dropCtxTickets core ctx)).modCore (twinOf core) (dropCtxTickets core ctx)
  s.modCx (fun x =>
    { regs := x.regs, pc := x.npc, npc := x.npc, relWait := x.relWait, relFence := x.relFence, late := x.task
      park := some (.untilClk (s.clk + s.delay core 1)) })

/-- A decrement sent to a counter of a tile, carrying the launch-scope signature (R109, R401). -/
def State.sendDecrement (s : State) (l dc : Nat) : State :=
  s.postTile .req 0 l (.decrement dc s.cc.acc)

/-- end: the LINK decrement is a launch-scope release, sent before the task retires. -/
def execEndTask (_ : Args) (s : State) : Host.Outcome State Fault Refusal :=
  conclude s do
    match s.cx.task.bind (fun t => t.link) with
    | none => .ok s.retire
    | some (l, dc) => do
      s.gateSignal
      s.gateTarget (some (.compute, l))
      s.gateSlot .req
      let t ← s.release .launch
      .ok (t.sendDecrement l dc).retire

/-! ## Forks, joins and counters (R400, R401, R436) -/

/-- The payload registers from a first register, as sources (R430). -/
def payloadCodes (x : Src) (n : Nat) : List (BitVec 6) :=
  match x with
  | .reg c => (span c.toNat n).map (BitVec.ofNat 6)
  | _ => []

/-- Takes operand codes in order. -/
def State.takeCodes (s : State) (cs : List (BitVec 6)) : List TagVal × State :=
  match cs with
  | [] => ([], s)
  | c :: r =>
    let (v, t) := s.takeCode c
    let (vs, u) := t.takeCodes r
    (v :: vs, u)

/-- Operands popped. -/
def State.popCodes (s : State) (cs : List (BitVec 6)) : State := (s.takeCodes cs).2

/-- Meets a header or target and a payload (R430), and reads them. -/
def State.header (s : State) (h : Src) (a : Src) (n : Nat) : Res (TagVal × List TagVal) := do
  let cs := payloadCodes a n
  s.meet (srcMeet h ++ cs.map Meet.src)
  let (v, s1) := s.takeSrc .b h
  .ok (v, (s1.takeCodes cs).1)

/-- The record of fork and join. -/
def State.buildRecord (s : State) (h : TagVal) (es : List TagVal) : TaskRec :=
  { hdr := recordHeader h.v s.tileL s.lid, arg0 := es.getD 0 {}, arg1 := es.getD 1 {}, arg2 := es.getD 2 {} }

/-- fork. -/
def execFork (a : Args) (s : State) : Host.Outcome State Fault Refusal :=
  conclude s do
    let (h, es) ← s.header a.s1 a.s2 3
    let t ← s.release .core
    match t.cc.pushBottom (t.buildRecord h es) with
    | none => trap clsDequeOverflow 512
    | some c => .ok (((t.setCore t.cur.core c).popSrcs [a.s1]).popCodes (payloadCodes a.s2 3)).advance

/-- join. -/
def execJoin (dc : BitVec 6) (a : Args) (s : State) : Host.Outcome State Fault Refusal :=
  conclude s do
    let (h, es) ← s.header a.s1 a.s2 3
    let k := s.cc.counter dc.toNat
    trapIf k.bound.isSome clsCommand 9
    let t := s.modCc (fun c =>
      ({ c with counters := putAt dc.toNat { k with bound := some (s.buildRecord h es) } c.counters }).setCount dc.toNat k.count k.sig)
    .ok ((t.popSrcs [a.s1]).popCodes (payloadCodes a.s2 3)).advance

/-- dcset. -/
def execDcset (dc : BitVec 6) (a : Args) (s : State) : Host.Outcome State Fault Refusal :=
  conclude s do
    let (v, t) ← s.operand1 a.ty a.s1 []
    .ok (t.modCc (fun c => c.setCount dc.toNat (v.v.extractLsb' 0 16) (c.counter dc.toNat).sig)).advance

/-- The tile L that an operand names, below C, else COMMAND 3 (R392, R393, R395, R401). -/
def State.tileArg (s : State) (v : W128) : Res Nat := do
  let l := hdrField v 0 20
  trapIf (s.curC ≤ l) clsCommand 3
  .ok l

/-- dcdec. -/
def execDcdec (dc : BitVec 6) (a : Args) (s : State) : Host.Outcome State Fault Refusal :=
  conclude s do
    let (h, _) ← s.operand1 a.ty a.s1 []
    let l ← s.tileArg h.v
    s.gateSignal
    s.gateTarget (some (.compute, l))
    s.gateSlot .req
    let t ← s.release .launch
    .ok ((t.sendDecrement l dc.toNat).popSrcs [a.s1]).advance

/-- COUNTER_DECREMENT: a decrement at its counter's tile (R108). -/
def execCounterDecrement (k : Nat) (s : State) : Host.Outcome State Fault Refusal :=
  match s.accept k with
  | none => happens s
  | some (p, t) =>
    match p.body with
    | .decrement dc sig =>
      let c := t.core p.dest
      let n := c.counter dc
      if n.count = 0 then
        let l := match c.tile? with | some (_, l) => l | none => 0
        happens (t.faultAsync p.lid clsCounterUnderflow l p.dest (BitVec.ofNat 64 (l * 2 ^ 32 + dc)))
      else happens (t.setCore p.dest (c.setCount dc (n.count - 1) (sigUnion n.sig sig)))
    | _ => happens s

/-- SPILL_REFILL (R107). -/
def execSpillRefill (core : Nat) (s : State) : Host.Outcome State Fault Refusal :=
  happens (s.modCore core (fun c => c.refillDeque))

/-! ## Steals (R111, R112, R232) -/

/-- A core's dirty lines leave before a record of it does: none when there is nothing to wait for. -/
def State.drainDirty (s : State) (core : Nat) : Option State :=
  let c := s.core core
  if c.l1.any (fun l => l.dirty != 0) then some (s.cleanLines core (fun _ => true))
  else if c.outs.any (fun o => o.ctx == ctxAny) then some s
  else none

/-- A record as it leaves a core: with that core's ACC. -/
def Core.outgoing (c : Core) (r : TaskRec) : TaskRec := { r with sig := sigUnion r.sig c.acc }

/-- The tile pops its only unpinned record in this clk: the pop takes it (Table 6-7). -/
def State.popsNow (s : State) (core : Nat) (r : TaskRec) : Bool :=
  let c := s.core core
  c.nextSource == some .deque && (c.freeLow s.clk).isSome && !c.hiFirst s.clk && c.nextAdmit ≤ s.clk
    && (c.deque.filter (fun k => !k.pinned)).length == 1 && c.deque.getLast? == some r

/-- STEAL_REQUEST: the victim's topmost unpinned record leaves the deque at once (R123, Table 20-11), and the answer carries it once the
victim's dirty sectors are written back; without one the answer is empty. -/
def execStealRequest (k : Nat) (s : State) : Host.Outcome State Fault Refusal :=
  match s.landed k with
  | none => happens s
  | some p =>
    match p.body with
    | .stealReq thief taken =>
      let c := s.core p.dest
      let answer (t : State) (r : Option TaskRec) : State :=
        (t.dropPacket k).send { vn := .hi, kind := 6, lid := p.lid, src := p.dest, dest := thief, final := thief, pos := thief, inner := true
                                body := .stealAns r, born := t.clk, ready := t.clk }
      let give (t : State) (r : TaskRec) : State :=
        match t.drainDirty p.dest with
        | some u => { u with net := setNth k { p with body := .stealReq thief (some r) } u.net }
        | none => answer t (some (c.outgoing r))
      match taken, s.admits p.dest, topUnpinned c.deque with
      | some r, _, _ => happens (give s r)
      | none, some _, some r =>
        if s.popsNow p.dest r then happens (answer s none)
        else happens (give (s.setCore p.dest { c with deque := dropUnpinned c.deque }) r)
      | none, _, _ => happens (answer s none)
    | _ => happens s

/-- A record that arrives from another tile: pushed at the bottom. -/
def State.pushArrived (s : State) (core lid l : Nat) (r : TaskRec) : State :=
  match (s.core core).pushBottom r with
  | some c => s.setCore core c
  | none => s.faultAsync lid clsDequeOverflow l core 512

/-- STEAL_ANSWER: the record is admitted where the sources are still empty; where they have received work, that work is admitted and the
record then pushed; where the deque has only spilled records they are returned to it first (R107). It waits while the tile's admission of
this clk is not its own. An empty answer may start the pause (R111, R112). -/
def execStealAnswer (k : Nat) (s : State) : Host.Outcome State Fault Refusal :=
  match s.landed k with
  | none => happens s
  | some p =>
    match p.body with
    | .stealAns none =>
      let n := (s.core p.dest).empties + 1
      let full := (s.stealFrom p.dest p.lid).length ≤ n
      happens ((s.dropPacket k).modCore p.dest (fun c =>
        { c with stealOut := false, empties := if full then 0 else n
                 backoff := if full then some (s.clk + s.delay p.dest 1024) else none }))
    | .stealAns (some r) =>
      let t := (s.dropPacket k).modCore p.dest (fun c => { c with stealOut := false, empties := 0 })
      let c := t.core p.dest
      let l := match c.tile? with | some (_, l) => l | none => 0
      match t.admits p.dest, c.freeLow t.clk with
      | some (lid, _), some x =>
        if t.clk < c.nextAdmit || c.hiFirst t.clk then happens s
        else
          let c := if c.nextSource.isNone then c.refillDeque else c
          match c.nextSource with
          | none => happens ((t.modCore p.dest (fun c => { c with passed := c.passCounts none })).startTask p.dest x lid
              (r.work 2 (t.launch lid).c))
          | some q =>
            match c.takeWork q (t.launch lid).record.hcnt.toNat (t.launch lid).c with
            | some (w, c') => happens (((t.setCore p.dest c').startTask p.dest x lid w).pushArrived p.dest p.lid l r)
            | none => happens (t.pushArrived p.dest p.lid l r)
      | _, _ => happens (t.pushArrived p.dest p.lid l r)
    | _ => happens s

/-- STEAL_BACKOFF_EXPIRY (R111). -/
def execStealBackoffExpiry (core : Nat) (s : State) : Host.Outcome State Fault Refusal :=
  match (s.core core).backoff with
  | some t => if t ≤ s.clk then happens (s.modCore core (fun c => { c with backoff := none })) else happens s
  | none => happens s

/-! ## Donation (R113) -/

/-- Compute tiles of a launch in a hall, by increasing L. -/
def State.hallTiles (s : State) (lid hall : Nat) : List Nat :=
  (s.launch lid).compute.filter (fun p => hallOf p == hall)

/-- Waiting tasks of a core, as QD counts them (Table 5-7). -/
def Core.waitingTasks (c : Core) : Nat :=
  c.lowQ.length + c.highQ.length + c.fifo.length + c.deque.length + c.spill.length

/-- QD of a hall. -/
def State.qd (s : State) (lid hall : Nat) : Nat := ((s.hallTiles lid hall).map (fun p => (s.core (s.nowAt p)).waitingTasks)).sum

/-- The halls one step away (R113), by increasing (hy, hx). -/
def neighbours (h : Nat) : List Nat :=
  (if 32 ≤ h then [h - 32] else []) ++ (if 0 < h % 32 then [h - 1] else []) ++ (if h % 32 < 31 then [h + 1] else [])
    ++ (if h / 32 < 31 then [h + 32] else [])

/-- The neighbour that receives: q at most 2, the lowest, the first of those equal. -/
def State.donee (s : State) (lid hall : Nat) : Option Nat :=
  ((neighbours hall).filter (fun h =>
    let n := (s.hallTiles lid h).length
    n != 0 && s.qd lid h ≤ 2 * n)).foldl (fun (b : Option Nat) h =>
      match b with
      | none => some h
      | some g => if s.qd lid h * (s.hallTiles lid g).length < s.qd lid g * (s.hallTiles lid h).length then some h else some g) none

/-- Unpinned records of a core's hardware deque. -/
def Core.unpinned (c : Core) : Nat := (c.deque.filter (fun r => !r.pinned)).length

/-- The tile with the most unpinned records, the lowest L of those equal. -/
def State.richest (s : State) (tiles : List Nat) : Option Nat :=
  tiles.foldl (fun (b : Option Nat) p =>
    if (s.core p).unpinned = 0 then b
    else match b with
      | none => some p
      | some q => if (s.core q).unpinned < (s.core p).unpinned then some p else some q) none

/-- Up to `n` records moved, one at a time, the i-th to the i-th receiving tile round-robin. -/
def State.donate (s : State) (lid : Nat) (from_ onto : List Nat) (i n : Nat) : State :=
  match n with
  | 0 => s
  | k + 1 =>
    match s.richest from_, onto[i % onto.length]? with
    | some p, some q =>
      match topUnpinned (s.core p).deque with
      | none => s
      | some r =>
        let r := ((s.core p).outgoing r).donated
        let s := s.modCore p (fun c => { c with deque := dropUnpinned c.deque })
        let l := match (s.core q).tile? with | some (_, l) => l | none => 0
        (s.pushArrived (s.nowAt q) lid l r).donate lid from_ onto (i + 1) k
    | _, _ => s

/-- DONATION_PERIOD: at the end of a period of 4,096 reference clk; the donors' dirty sectors are written back first. -/
def execDonationPeriod (hall lid : Nat) (s : State) : Host.Outcome State Fault Refusal :=
  match s.launch? lid with
  | none => happens s
  | some l =>
    let n := (s.clk - l.startClk) / 4096
    if (l.fault.isSome && !l.frozen) || !(l.phase == .running || l.phase == .admission) || n ≤ getAt 0 hall l.donations then happens s
    else
      let tiles := s.hallTiles lid hall
      let t := s.modLaunch lid (fun l => { l with donations := putAt hall n l.donations })
      if tiles.isEmpty || s.qd lid hall < 16 * tiles.length then happens t
      else
        match s.donee lid hall with
        | none => happens t
        | some g =>
          let tiles := tiles.map s.nowAt
          match tiles.find? (fun p => (s.core p).unpinned != 0 && (s.drainDirty p).isSome) with
          | some p => happens ((s.drainDirty p).getD s)
          | none => happens (t.donate lid tiles (s.hallTiles lid g) 0 32)

end Sys2Proof.Machine
end

