-- ==== Sys2Proof/Machine/Sync.lean ====
section
/-! DEFINITION. Barriers with combining, events, watches and waits on futures (spec 18 R390–R399), with the events that carry
them. -/

namespace Sys2Proof.Machine
open Sys2Proof

/-! ## Barrier state (Tables 18-6, 18-7) -/

/-- The identity of a combine operation. -/
def barIdentity (op : BitVec 3) : W64 :=
  match op.toNat with
  | 2 => 0x8000000000000000
  | 4 => 0xFF800000
  | 5 => 0x7F800000
  | _ => 0

/-- One step of a combine operation. -/
def barStep (op : BitVec 3) (acc v : W64) : W64 :=
  let a := acc.toNat % 2 ^ 32
  let b := v.toNat % 2 ^ 32
  match op.toNat with
  | 1 => acc + v
  | 2 => if acc.slt v then v else acc
  | 3 => BitVec.ofNat 64 (addF32 a b)
  | 4 => BitVec.ofNat 64 (Machine.maxCode fmtF32 a b)
  | 5 => BitVec.ofNat 64 (Machine.minCode fmtF32 a b)
  | 6 => acc ||| v
  | _ => acc

/-- A barrier of a tile. -/
def Core.barrier (c : Core) (n : Nat) : Barrier := getAt {} n c.barriers

/-- Sets a barrier. -/
def Core.putBarrier (c : Core) (n : Nat) (b : Barrier) : Core := { c with barriers := putAt n b c.barriers }

/-- A generation satisfies a target (R393). -/
def barReached (gen target : BitVec 32) : Bool := 0 ≤ (gen - target).toInt

/-- One generation released (R392). -/
def Barrier.release (b : Barrier) (n : Nat) : Barrier :=
  { b with last := b.acc, gen := b.gen + 1, arr := BitVec.ofNat 20 (b.arr.toNat - n), acc := barIdentity b.op
           lastSig := b.sig, sig := 0 }

/-- The answer to a wait request, sent from a place to the hall controller or core that asked (R393, R394). -/
def State.answerWait (s : State) (src : Nat) (w : BWaiter) (b : Barrier) (clear retry : Bool) : State :=
  match w.hall with
  | some h => s.post .hi 6 w.lid src ((s.hallCtlCore h).getD w.core) (.hall h) none (.barAns w b.gen b.last b.lastSig clear retry)
  | none => s.post .hi 6 w.lid src w.core .core none (.barAns w b.gen b.last b.lastSig clear retry)

/-- A launch's home signatures cleared in its region and in every edge controller (R231). -/
def State.clearHomeSigs (s : State) (lid : Nat) : State :=
  let cols := s.regionCols (s.launch lid).record
  { s with
    cores := s.cores.map (fun (p, c) => if cols.contains (colOf p) then (p, { c with sigs := sigsClear c.sigs lid }) else (p, c))
    columns := s.columns.map (fun (k, c) => if cols.contains k then (k, { c with sigs := sigsClear c.sigs lid }) else (k, c))
    edges := s.edges.map (fun (k, e) => if k < 48 then (k, { e with sigs := sigsClear e.sigs lid }) else (k, e)) }

/-- Releases generations while the count is reached: each answers the waits it satisfies (R392). -/
def State.releaseBar (s : State) (core lid bar n fuel : Nat) : State :=
  match fuel with
  | 0 => s
  | f + 1 =>
    let c := s.core core
    let b := c.barrier bar
    if n = 0 || b.arr.toNat < n then s
    else
      let region := b.exp == 0
      let b := b.release n
      let (hit, rest) := c.waitTable.partition (fun w => w.bar == bar && barReached b.gen w.target)
      let s := s.setCore core { (c.putBarrier bar b) with waitTable := rest }
      let s := if region then s.clearHomeSigs lid else s
      let s := hit.foldl (fun s w => s.answerWait core w b region false) s
      s.releaseBar core lid bar n f

/-- The halls of a launch's region. -/
def State.launchHalls (s : State) (lid : Nat) : List Nat :=
  (s.regionCols (s.launch lid).record).foldl (fun l c => tagPut (hallOf (2 * c)) l) []

/-! ## bcfg, barr, bwait -/

/-- bcfg (R391, R394). -/
def execBcfg (bar : BitVec 5) (a : Args) (s : State) : Host.Outcome State Fault Refusal :=
  conclude s do
    let (v, t) ← s.operand1 a.ty a.s1 []
    let b := s.cc.barrier bar.toNat
    let op := v.v.extractLsb' 16 3
    let e := v.v.extractLsb' 0 16
    trapIf (b.arr != 0) clsCommand 4
    trapIf (op == 7) clsCommand 5
    s.gateSlot .hi
    let t := t.modCc (fun c => c.putBarrier bar.toNat { b with exp := e, op := op, acc := barIdentity op })
    let t := (t.launchHalls t.lid).foldl (fun (t : State) h => t.postHall h (.bcfg t.tileL bar.toNat (e == 0))) t
    .ok t.advance

/-- barr (R392): a launch-scope release to the core's hall controller. -/
def execBarr (bar : BitVec 5) (a : Args) (s : State) : Host.Outcome State Fault Refusal :=
  conclude s do
    let (h, v, _) ← s.operands2 a.ty a.s1 a.s2 []
    let l ← s.tileArg h.v
    s.gateSignal
    s.gateSlot .hi
    let t ← s.release .launch
    let t := t.postHall (hallOf t.cur.core) (.barArr l bar.toNat 1 (low64 v.v) t.cc.acc)
    .ok (t.popSrcs [a.s1, a.s2]).advance

/-- bwait (R393): with d = z the context parks until the answer is applied, else d becomes PENDING with a class 0x5 ticket
and the context runs on, its accesses too (DESIGN CHOICE, assumption log 105). -/
def execBwait (bar : BitVec 5) (a : Args) (s : State) : Host.Outcome State Fault Refusal :=
  conclude s do
    let (h, t, _) ← s.operands2 a.ty a.s1 a.s2 [.dst a.d]
    let l ← s.tileArg h.v
    s.gateSlot .hi
    let target := t.v.extractLsb' 0 32
    let w : BWaiter := { lid := s.lid, home := l, bar := bar.toNat, target := target, core := s.cur.core, ctx := s.cur.ctx }
    if a.d = 62 then
      .error (.park (s.postHall (hallOf s.cur.core) (.barWait w)) (.bwait l bar.toNat target [a.s1, a.s2]))
    else do
      parkIf s.cc.ticketsFull s .ticket
      let (k, u) := s.takeTicket 0x5 a.d
      .ok ((u.postHall (hallOf u.cur.core) (.barWait { w with ticket := some k })).popSrcs [a.s1, a.s2]).advance

/-! ## At the hall controllers (R394) -/

/-- A message that has reached a hall controller. -/
def State.landedAtHall (s : State) (k : Nat) : Option (Nat × Packet × State) :=
  match s.landed k with
  | some p => match p.port with
    | .hall h => some (h, p, s.dropPacket k)
    | _ => none
  | none => none

/-- A message from a hall controller to a tile of a launch. -/
def State.hallToTile (s : State) (h lid l : Nat) (vn : VN) (body : Body) : State :=
  let src := (s.hallCtlCore h).getD 0
  s.ctlPost vn 6 lid src (((s.launch lid).hostOf .compute l).getD src) .core (some (.compute, l)) body

/-- An arrival held with those of the same barrier. -/
def combine (l : List Combined) (lid home bar : Nat) (v : W64) (g : Sig) : List Combined :=
  match l with
  | [] => [{ lid := lid, home := home, bar := bar, vs := [v], sig := g }]
  | c :: r =>
    if c.lid = lid && c.home = home && c.bar = bar then { c with vs := c.vs ++ [v], sig := sigUnion c.sig g } :: r
    else c :: combine r lid home bar v g

/-- Two waits for one barrier and target. -/
def BWaiter.same (w v : BWaiter) : Bool := w.lid == v.lid && w.home == v.home && w.bar == v.bar && w.target == v.target

/-- BARRIER_ARRIVAL_AT_HALL: an arrival is forwarded or combined; a wait request is forwarded unless one like it is held. -/
def execBarrierArrivalAtHall (k : Nat) (s : State) : Host.Outcome State Fault Refusal :=
  match s.landedAtHall k with
  | none => happens s
  | some (h, p, t) =>
    match p.body with
    | .barArr home bar n v g =>
      if (s.launch p.lid).plainBars.contains (h, home, bar) then happens (t.hallToTile h p.lid home .hi (.barArr home bar n v g))
      else happens (t.modHall h (fun x => { x with combined := combine x.combined p.lid home bar v g }))
    | .barWait w =>
      let held := (s.hall h).waits.any w.same
      let t := t.modHall h (fun x => { x with waits := x.waits ++ [w] })
      happens (if held then t
        else t.hallToTile h p.lid w.home .hi (.barWait { w with core := (s.hallCtlCore h).getD 0, ctx := 0, ticket := none, hall := some h }))
    | _ => happens s

/-- The partial arrival of what is held for one barrier: the contributions folded with the barrier's operation. -/
def State.partialArr (s : State) (c : Combined) : Body :=
  let op := match (s.launch c.lid).hostOf .compute c.home with
    | some p => ((s.core (s.nowAt p)).barrier c.bar).op
    | none => 0
  .barArr c.home c.bar c.vs.length (c.vs.foldl (barStep op) (barIdentity op)) c.sig

/-- BARRIER_COMBINE_PERIOD: every 64 reference clk the held arrivals go on, one partial a barrier. -/
def execBarrierCombinePeriod (hall lid : Nat) (s : State) : Host.Outcome State Fault Refusal :=
  match s.launch? lid with
  | none => happens s
  | some l =>
    let n := (s.clk - l.startClk) / 64
    if n ≤ getAt 0 hall l.combines then happens s
    else
      let (mine, rest) := (s.hall hall).combined.partition (fun c => c.lid == lid)
      let t := (s.modLaunch lid (fun l => { l with combines := putAt hall n l.combines })).modHall hall
        (fun x => { x with combined := rest })
      happens (mine.foldl (fun t c => t.hallToTile hall lid c.home .hi (t.partialArr c)) t)

/-- BCFG_NOTICE: the hall controller's record follows the configuration. -/
def execBcfgNotice (k : Nat) (s : State) : Host.Outcome State Fault Refusal :=
  match s.landedAtHall k with
  | none => happens s
  | some (h, p, t) =>
    match p.body with
    | .bcfg home bar region =>
      happens (t.modLaunch p.lid (fun l =>
        let r := l.plainBars.filter (fun e => e != (h, home, bar))
        { l with plainBars := if region then r else (h, home, bar) :: r }))
    | _ => happens s

/-! ## At the home (R392, R393) -/

/-- BARRIER_ARRIVAL: counted, combined, and generations released. -/
def execBarrierArrival (k : Nat) (s : State) : Host.Outcome State Fault Refusal :=
  match s.accept k with
  | none => happens s
  | some (p, t) =>
    match p.body, p.port with
    | .barArr _ bar n v g, .core =>
      let b := (s.core p.dest).barrier bar
      let b := { b with arr := BitVec.ofNat 20 (b.arr.toNat + n), acc := barStep b.op b.acc v, sig := sigUnion b.sig g }
      let need := if b.exp = 0 then (s.launch p.lid).c else b.exp.toNat
      happens ((t.modCore p.dest (fun c => c.putBarrier bar b)).releaseBar p.dest p.lid bar need (b.arr.toNat + 1))
    | _, _ => happens s

/-- A core whose wait an answer satisfies clears its ACC for it: the barrier is a region barrier and has released a generation (R231). -/
def Barrier.clears (b : Barrier) : Bool := b.exp == 0 && b.gen != 0

/-- BARRIER_WAIT_REQUEST: answered at once, held, or answered RETRY. A core that asks after the release, or again after a RETRY, takes the
answer as one that waited at it does (R231). -/
def execBarrierWaitRequest (k : Nat) (s : State) : Host.Outcome State Fault Refusal :=
  match s.accept k with
  | none => happens s
  | some (p, t) =>
    match p.body, p.port with
    | .barWait w, .core =>
      let c := s.core p.dest
      let b := c.barrier w.bar
      if barReached b.gen w.target then happens (t.answerWait p.dest w b b.clears false)
      else if c.waitTable.length < 64 then happens (t.modCore p.dest (fun c => { c with waitTable := c.waitTable ++ [w] }))
      else happens (t.answerWait p.dest w b false true)
    | _, _ => happens s

/-- Runs a change on a context as if it were the current one. -/
def State.asCur (s : State) (core ctx : Nat) (f : State → State) : State := { f { s with cur := ⟨core, ctx⟩ } with cur := s.cur }

/-- A parked instruction completes: its sources are taken and its context goes on. -/
def State.completePark (s : State) (core ctx : Nat) (srcs : List Src) : State :=
  s.asCur core ctx (fun s => (s.popSrcs srcs).advance)

/-- The core has already cleared its ACC for a generation of a barrier. -/
def Core.hasCleared (c : Core) (home bar : Nat) (gen : BitVec 32) : Bool := c.cleared.contains ((home, bar), gen)

/-- A core applies the signature of a wait's answer. At the release of a region barrier it does so once, and then clears its ACC; the
answers to its other contexts for the same generation find both done (R231). -/
def State.acquireBar (s : State) (w : BWaiter) (gen : BitVec 32) (g : Sig) (clear : Bool) : State :=
  if !clear then s.applySig w.core g
  else if (s.core w.core).hasCleared w.home w.bar gen then s
  else (s.applySig w.core g).modCore w.core (fun c =>
    { c with acc := 0, cleared := ((w.home, w.bar), gen) :: c.cleared.filter (fun e => e.1 != (w.home, w.bar)) })

/-- A wait's answer at its core: the signature is applied there and, for a twin-window register, at the other core that holds it
(R233); then the context wakes or the register fills (R231, R393). -/
def State.takeAnswer (s : State) (w : BWaiter) (gen : BitVec 32) (last : W64) (g : Sig) (clear : Bool) : State :=
  match w.ticket with
  | some t =>
    let others := (s.holders w.core t).filter (fun p => p != w.core)
    let s := (others.foldl (fun (s : State) p => s.applySig p g) s).acquireBar w gen g clear
    s.deliver w.core t (Reg.full ⟨0#32 ++ gen ++ last, false⟩)
  | none =>
    let s := s.acquireBar w gen g clear
    match ((s.core w.core).ctx w.ctx).park with
    | some (.bwait home bar target srcs) =>
      if home = w.home && bar = w.bar && target = w.target then s.completePark w.core w.ctx srcs else s
    | _ => s

/-- BARRIER_WAIT_ANSWER: a hall controller passes it to every tile that asked; a core takes it, or asks again later. -/
def execBarrierWaitAnswer (k : Nat) (s : State) : Host.Outcome State Fault Refusal :=
  match s.landed k with
  | none => happens s
  | some p =>
    let t := s.dropPacket k
    match p.body, p.port with
    | .barAns w gen last g clear retry, .hall h =>
      let (mine, rest) := (t.hall h).waits.partition w.same
      let src := (t.hallCtlCore h).getD 0
      happens (mine.foldl (fun t v => t.ctlPost .hi 6 p.lid src v.core .core none (.barAns v gen last g clear retry))
        (t.modHall h (fun x => { x with waits := rest })))
    | .barAns w gen last g clear retry, .core =>
      if retry then happens (t.modCore p.dest (fun c => { c with waitRetry := c.waitRetry ++ [⟨s.clk + 256, w⟩] }))
      else happens (t.takeAnswer w gen last g clear)
    | _, _ => happens s

/-- BARRIER_WAIT_RETRY: the request is sent again 256 reference clk after a RETRY. -/
def execBarrierWaitRetry (core k : Nat) (s : State) : Host.Outcome State Fault Refusal :=
  match (s.core core).waitRetry[k]? with
  | none => happens s
  | some r =>
    if s.clk < r.at_ then happens s
    else
      let t := s.modCore core (fun c => { c with waitRetry := dropNth k c.waitRetry })
      happens (t.post .hi 6 r.w.lid core ((s.hallCtlCore (hallOf core)).getD core) (.hall (hallOf core)) none (.barWait r.w))

/-! ## Events and watches (R395–R397) -/

/-- sev. -/
def execSev (a : Args) (s : State) : Host.Outcome State Fault Refusal :=
  conclude s do
    let (h, _) ← s.operand1 a.ty a.s1 []
    let l ← s.tileArg h.v
    s.gateSignal
    let done (s : State) : State := (s.popSrcs [a.s1]).advance
    if l = s.tileL then .ok (done (s.eventInside s.cur.core s.lid none))
    else do
      s.gateTarget (some (.compute, l))
      s.gateSlot .hi
      .ok (done (s.postTile .hi 6 l (.event none)))

/-- EVENT_ARRIVAL: the latches of all five contexts, or of a watch's context. -/
def execEventArrival (k : Nat) (s : State) : Host.Outcome State Fault Refusal :=
  match s.accept k with
  | none => happens s
  | some (p, t) =>
    match p.body with
    | .event ctx =>
      let hit := match ctx with | none => span 0 5 | some n => [n]
      happens (t.modCore p.dest (fun c => hit.foldl (fun c n => c.modCtx n (fun x => { x with latch := true })) c))
    | _ => happens s

/-- The own clk at which a limit of wfe or idle passes; none for z or 0. -/
def State.parkLimit (s : State) (t : W128) : Option Nat :=
  let n := (t.extractLsb' 0 32).toNat
  if n = 0 then none else some (s.ownClk s.cur.core + n)

/-- wfe. -/
def execWfe (a : Args) (s : State) : Host.Outcome State Fault Refusal :=
  conclude s do
    let (t, u) ← s.operand1 a.ty a.s1 []
    if s.cx.latch then .ok (u.modCx (fun x => { x with latch := false })).advance
    else .error (.park s (.wfe (s.parkLimit t.v) a.s1))

/-- A limit has passed for a core. -/
def State.limitPassed (s : State) (core : Nat) (limit : Option Nat) : Bool :=
  match limit with
  | some n => n ≤ s.ownClk core
  | none => false

/-- The launch of a context goes on: it is not halted, frozen or faulted. -/
def State.ctxLive (s : State) (core ctx : Nat) : Bool :=
  match ((s.core core).ctx ctx).task with
  | some t => (s.launch t.lid).live
  | none => false

/-- WFE_TIMEOUT: an event in the same clk goes first, so the latch is clear. -/
def execWfeTimeout (core ctx : Nat) (s : State) : Host.Outcome State Fault Refusal :=
  match ((s.core core).ctx ctx).park with
  | some (.wfe limit t) =>
    if s.ctxLive core ctx && s.limitPassed core limit && !((s.core core).ctx ctx).latch
    then happens (s.completePark core ctx [t]) else happens s
  | _ => happens s

/-- IDLE_TIMEOUT (R441). -/
def execIdleTimeout (core ctx : Nat) (s : State) : Host.Outcome State Fault Refusal :=
  match ((s.core core).ctx ctx).park with
  | some (.idle limit t) =>
    if s.ctxLive core ctx && s.limitPassed core limit then happens (s.completePark core ctx [t]) else happens s
  | _ => happens s

/-- watch: the address is checked as a load's; out of bounds nothing is registered. -/
def execWatch (a : Args) (s : State) : Host.Outcome State Fault Refusal :=
  conclude s do
    let (c, _) ← s.operand1 a.ty a.s1 []
    let r ← s.checkAccess c (addrOf c) 1 true false
    match r with
    | .ok ((p, g) :: _) => do
      s.gateTarget (if g.own then none else g.target)
      let (lid, tile) := s.cc.who
      let r : Req := { op := .watch, core := s.cur.core, ctx := s.cur.ctx, lid := lid, l := tile, pa := g.pa, len := p.len, key := g.key }
      let t := if g.own then s.addWatch r else (s.touch [(p, g)]).sendReq r g.target
      .ok (t.popSrcs [a.s1]).advance
    | _ => .ok (s.popSrcs [a.s1]).advance

/-! ## Waiting on futures (R398, R399) -/

/-- wpend. -/
def execWpend (a : Args) (s : State) : Host.Outcome State Fault Refusal :=
  conclude s do
    s.meetMask (srcMeet a.s1)
    let (m, t) := s.takeSrc a.ty a.s1
    let m := m.v.extractLsb' 0 32
    if (s.cx.masked m true).isEmpty then .ok t.advance else .error (.park s (.allDone m))

/-- wany. -/
def execWany (a : Args) (s : State) : Host.Outcome State Fault Refusal :=
  conclude s do
    s.meetMask (srcMeet a.s1 ++ [.dst a.d])
    let (m, t) := s.takeSrc a.ty a.s1
    let m := m.v.extractLsb' 0 32
    if m = 0 then .ok (t.writeD a.d ⟨reg64 (BitVec.allOnes 64), false⟩).advance
    else
      match s.cx.masked m false with
      | n :: _ => .ok (t.writeD a.d (val64 n)).advance
      | [] => .error (.park s (.anyDone m))

/-- pchk's report of a register: ticket, tag, state (0 FULL, 1 PENDING, 2 POISONED) and code (Table 18-8). -/
def pchkWord (ticket : BitVec 16) (tag : Bool) (state : BitVec 2) (code : BitVec 8) : W128 :=
  0#96 ++ ticket ++ 0#5 ++ (if tag then 1#1 else 0#1) ++ state ++ code

/-- What pchk reports of an operand code: a channel, a bound stream, z, or a register. -/
def State.pchkOf (s : State) (c : Nat) : W128 :=
  let full := pchkWord 0 false 0 0
  if 32 ≤ c && c < 40 then
    let h := s.cc.chan (c - 32)
    if !h.en then pchkWord 0 false 2 0 else if h.count = 0 then pchkWord 0 false 1 0 else full
  else if c = 62 then full
  else
    match s.curStream? c with
    | some t =>
      if t.out || !t.buf.isEmpty then full
      else if t.failed then pchkWord 0 false 2 pzEngine
      else if t.ended then pchkWord 0 false 2 pzStreamEnd
      else pchkWord 0 false 1 0
    | none =>
      let r := s.regAt s.cur.core s.cur.ctx c
      match r.state with
      | .full => pchkWord 0 r.tag 0 0
      | .pending => pchkWord r.ticket r.tag 1 0
      | .poisoned => pchkWord 0 r.tag 2 r.code

/-- pchk. -/
def execPchk (a : Args) (s : State) : Host.Outcome State Fault Refusal :=
  conclude s do
    let c := srcReg a.s1
    parkIf (s.inShadow c) s (.shadow c)
    s.meet [.dst a.d]
    .ok (s.writeD a.d ⟨s.pchkOf c.toNat, false⟩).advance

end Sys2Proof.Machine
end

