-- ==== Sys2Proof/Machine/Engine.lean ====
section
/-! DEFINITION. The copy engine and the stream engine: copy, fill, sbind, sunb, and the pieces their harts move (spec 19
R406–R413, spec 10 R217). -/

namespace Sys2Proof.Machine
open Sys2Proof

/-! ## What every engine command does (R406, R407) -/

/-- The counter of a .done suffix. -/
def doneOf (d : Option (BitVec 6)) : Option Nat := d.map (fun n => n.toNat)

/-- The length of a range [cursor, top). -/
def capRest (c : W128) : Nat := capTop c - capCursor c

/-- A capability operand: tagged, with the permissions asked. -/
def needCap (c : TagVal) (r w m : Bool) : Res Unit :=
  trapIf (!c.tag || (r && !capR c.v) || (w && !capW c.v) || (m && !capM c.v)) clsCapability (capCursor c.v)

/-- A cursor below base. -/
def needCursor (c : TagVal) : Res Unit := trapIf (capCursor c.v < capBase c.v) clsBounds (capCursor c.v)

/-- A command issues: a fence before it holds it, it waits for a ticket, and it is a release at its scope. -/
def State.issueEngine (s : State) (sc : Scope) : Res State := do
  s.gateSignal
  parkIf s.cc.ticketsFull s .ticket
  s.release sc

/-- A command of the current core's ends: its Fill or Poison with its signature reaches the register 1 clk later, and a
completed command with .done sends its decrement (R407). -/
def State.endCommand (s : State) (core : Nat) (ticket : Option (BitVec 16)) (done : Option Nat) (sig : Sig) (v : TagVal)
    (failed : Bool) : State :=
  let s := match ticket with
    | some t => s.deliverLater core 1 t v (if failed then some pzEngine else none) (some sig)
    | none => s
  match done, failed, (s.core core).tile? with
  | some n, false, some (lid, l) => s.post .req 0 lid core core .core (some (.compute, l)) (.decrement n sig)
  | _, _, _ => s

/-! ## An engine's accesses (R195, R214, R217, R219–R221, R407) -/

/-- What a piece of an engine command comes to. -/
inductive Piecewise (α : Type) where
  | ok (a : α)
  /-- a window limit, a bounds or a peer failure: the command ends with ENGINE -/
  | engine
  /-- a translation breach, or a damaged sector of local SRAM written, which is raised instead -/
  | fault (cls : BitVec 8) (detail : Nat)
  /-- the page of an address must be walked first (R214), or the access is held for markers (R95) -/
  | wait (va : Option Nat)

/-- The numbers under which the engines of a core miss in its TLB. -/
def walkCopyRead : Nat := 16
/-- The copy engine's writes. -/
def walkCopyWrite : Nat := 17
/-- An mrmt's fetch. -/
def walkFetch : Nat := 18
/-- A matrix command that runs. -/
def walkMatrix : Nat := 19
/-- A bound stream of a context. -/
def walkStream (ctx reg : Nat) : Nat := 20 + 4 * ctx + reg % 4
/-- A stream that has been unbound. -/
def walkClosing (ctx reg : Nat) : Nat := 40 + 4 * ctx + reg % 4
/-- An offer, by its packet's number. -/
def walkOffer (uid : Nat) : Nat := 64 + uid

/-- Sends of a core to a target are held for markers (R95). -/
def Core.heldFor (c : Core) (g : Option (Kind × Nat)) : Bool :=
  match g with
  | none => false
  | some (k, i) => c.holds.any (fun h => h.kind == k && h.idx == i)

/-- Translates the sector pieces of an access for a hart of a core. A damaged sector of the core's own SRAM fails a read, and is a memory
fault of a write (R177, R264); every other home answers for itself. -/
def State.hartTargets (s : State) (core lid walk : Nat) (store : Bool) (ps : List Piece) : Piecewise (List (Piece × Target)) :=
  ps.foldl (fun acc p =>
    match acc with
    | .ok ts =>
      match s.xlate core lid p.va store with
      | .ok t =>
        if t.own && s.damaged t.pa then (if store then .fault clsMemory t.pa else .engine)
        else if !t.own && (s.core core).heldFor t.target then .wait none
        else .ok (ts ++ [(p, t)])
      | .oob => .engine
      | .miss => if findAt walk (s.core core).hartWalks == some (p.va, true) then .fault clsTranslation p.va else .wait (some p.va)
      | .fault => .fault clsTranslation p.va
    | e => e) (.ok [])

/-- An engine waits for a page's walk: it joins the hall's queue of misses, again where the entry has gone since its walk (R214). -/
def State.waitWalk (s : State) (core walk va : Nat) : State :=
  if findAt walk (s.core core).hartWalks == some (va, false) && (s.hall (hallOf core)).misses.contains (core, walk) then s
  else
    (s.modCore core (fun c => { c with hartWalks := putAt walk (va, false) c.hartWalks })).modHall (hallOf core)
      (fun h => { h with misses := h.misses.filter (fun m => m != (core, walk)) ++ [(core, walk)] })

/-- An engine waits for no walk any more. -/
def State.endWalk (s : State) (core walk : Nat) : State :=
  if (findAt walk (s.core core).hartWalks).isNone then s
  else s.modCore core (fun c => { c with hartWalks := dropAt walk c.hartWalks })

/-- The pieces of an engine's access with where they lead, once every page is in the TLB. -/
def State.hartWants (s : State) (core lid walk : Nat) (store : Bool) (ps : List Piece) : State × Piecewise (List (Piece × Target)) :=
  match s.hartTargets core lid walk store ps with
  | .wait (some va) => (s.waitWalk core walk va, .wait (some va))
  | .wait none => (s, .wait none)
  | r => (s.endWalk core walk, r)

/-- A context number for the accesses of engines: no context's release or fence waits for them. -/
def ctxHart : Nat := 10

/-- The TLB entries that a hart's access used become the most recent. -/
def State.hartTouch (s : State) (core lid : Nat) (ts : List (Piece × Target)) : State :=
  s.modCore core (fun c => ts.foldl (fun c p => c.tlbTouch lid p.1.va) c)

/-- A hart reads: the pieces in its own SRAM at once, and a request for every other. The bytes gather in a join, whose number it gets.
`flush` says that the read is no copy's or stream's and takes sectors out of the core's L1 (R217, R220). -/
def State.startRead (s : State) (core lid : Nat) (flush : Bool) (ts : List (Piece × Target)) : Nat × State :=
  let c := s.core core
  let id := c.nextId
  let near := ts.filter (fun t => t.2.own)
  let far := ts.filter (fun t => !t.2.own)
  let s := (s.hartTouch core lid ts).modCore core (fun c =>
    { c with nextId := id + 1, joins := c.joins ++ [{ id := id, ctx := ctxHart, ticket := none, left := far.length, buf := s.localPart [] near, fmt := .hart }] })
  (id, far.foldl (fun (s : State) (p, t) =>
    (if flush then s.flushSector core t.pa else s).sendReq
      { op := .load, core := core, ctx := ctxHart, lid := lid, l := c.who.2, pa := t.pa, len := p.len, key := t.key, join := id, off := p.off
        id := id } t.target) s)

/-- One piece of a hart's store: performed at once in its own SRAM, else sent to its home. -/
def State.hartPut (s : State) (core lid group : Nat) (t : Target) (bs : List Byte) (mask : List (BitVec 2)) : State :=
  if t.own then s.storeHome t.pa bs mask none
  else
    let s := s.flushSector core t.pa
    let id := (s.core core).nextId
    let r : Req := { op := .store, core := core, ctx := ctxHart, lid := lid, l := (s.core core).who.2, pa := t.pa, len := bs.length, data := bs
                     mask := mask, key := t.key, id := id }
    (s.modCore core (fun c => { c with nextId := id + 1, outs := c.outs ++ [{ outOf r t.device with hart := some group }] })).sendReq r t.target

/-- A hart's store: its pieces go out, and the lines enter its signature. -/
def State.startWrite (s : State) (core lid group : Nat) (ts : List (Piece × Target)) (bs : List Byte) (mask : List (BitVec 2)) (sig : Sig) :
    State × Sig :=
  ts.foldl (fun (s, g) (p, t) =>
    (s.hartPut core lid group t ((bs.drop p.off).take p.len) ((mask.drop p.off).take p.len), sigEnter g (t.pa / 128))) (s.hartTouch core lid ts, sig)

/-- A number for a group of a core's stores. -/
def State.newGroup (s : State) (core : Nat) : Nat × State :=
  ((s.core core).nextId, s.modCore core (fun c => { c with nextId := c.nextId + 1 }))

/-- Every store of a group has been acknowledged. -/
def Core.acked (c : Core) (group : Nat) : Bool := !c.outs.any (fun o => o.hart == some group)

/-- The join that an engine waits for. -/
def Core.join? (c : Core) (id : Nat) : Option Join := c.joins.find? (fun j => j.id == id)

/-- A join that its engine has taken or given up; what still comes for it is discarded. -/
def Core.dropJoin (c : Core) (id : Nat) : Core := { c with joins := c.joins.filter (fun j => j.id != id) }

/-- The LID and L of the tile whose engine runs. -/
def Core.engineTile (c : Core) : Nat × Nat := c.tile?.getD (0, 0)

/-- The asynchronous fault of an engine command's piece (R407). -/
def State.hartFault (s : State) (core : Nat) (cls : BitVec 8) (detail : Nat) : State :=
  let (lid, l) := (s.core core).engineTile
  s.faultAsync lid cls l core (BitVec.ofNat 64 detail)

/-! ## copy and fill (R408–R410) -/

/-- Elements of a capability that lie within its bounds, counted from 0 to the first that does not fit (R408). -/
def fitCount (cap : W128) (e fuel : Nat) : Nat :=
  match fuel with
  | 0 => e
  | f + 1 => if elemBit cap e + (capTy cap).bits ≤ 8 * capLength cap then fitCount cap (e + 1) f else e

/-- The seed after `n` draws. -/
def seedAfter (n : Nat) (seed : BitVec 32) : BitVec 32 :=
  match n with
  | 0 => seed
  | k + 1 => seedAfter k (xorshift seed)

/-- The first element below n of a capability that does not lie whole within its bounds, its scale included, by its byte offset (R406). -/
def outElement (cap : W128) (n : Nat) : Option Nat :=
  ((span 0 n).find? (fun e => 8 * capLength cap < elemBit cap e + (capTy cap).bits
    || (match scaleByteOff cap e with | some o => capLength cap ≤ o | none => false))).map (fun e => elemBit cap e / 8)

/-- A page of a virtual range is device-ordered, as the core's TLB or the page table has it. -/
def State.deviceRange (s : State) (core lid va n : Nat) : Bool :=
  n != 0 && (span (va / 65536) ((va + n - 1) / 65536 - va / 65536 + 1)).any (fun k =>
    match (s.core core).tlbFind lid (k * 65536) with
    | some e => e.kind == 1
    | none => va / 2 ^ 44 < 0xD && (match (s.walk [] lid (k * 65536)).1 with | some e => e.kind == 1 | none => false))

/-- The capability whose address order a converting copy follows: one through COL16 to or from a device-ordered page (R217). -/
def State.copyAlong (s : State) (dst src : W128) (n : Nat) : Option W128 :=
  let dev (c : W128) : Bool := capLayout c = 1 && s.deviceRange s.cur.core s.lid (capBase c) (Nat.min (capLength c) ((elemBit c (n - 1) + 8) / 8 + 256))
  if dev dst then some dst else if dev src then some src else none

/-- A command of the copy engine queued with its ticket. -/
def State.queueCopy (s : State) (d : BitVec 6) (c : CopyCmd) : State :=
  let sig := s.cc.acc
  let (t, s) := s.takeTicket 0x1 d
  s.modCc (fun k => { k with copyQ := k.copyQ ++ [{ c with ctx := s.cur.ctx, ticket := some t, sig := sig }] })

/-- A converting copy draws for each element. -/
def State.cvtDraws (s : State) (src dst : W128) : Bool :=
  let fmc := s.latchFmc
  (fmc.extractLsb' 9 3).toNat = 6 && !exactPair fmc (capTy src) (capTy dst)

/-- copy. -/
def execCopy (sc : Scope) (cvt : Bool) (done : Option (BitVec 6)) (a : Args) (s : State) : Host.Outcome State Fault Refusal :=
  conclude s do
    let (cd, cs, _) ← s.operands2 .b a.s1 a.s2 [.dst a.d]
    needCap cd false true false
    trapIf ((cs.tag && !capR cs.v) || (cvt && !cs.tag)) clsCapability (capCursor cs.v)
    if cvt then do
      trapIf (!layoutOk cd.v) clsCapability (capCursor cd.v)
      trapIf (!layoutOk cs.v) clsCapability (capCursor cs.v)
      let n := fitCount cd.v 0 (capLength cd.v * 2 + 1)
      (match outElement cs.v n with | some o => trap clsBounds (capBase cs.v + o) | none => .ok ())
      trapIf (!(capTy cd.v).isFloat || !(capTy cs.v).isFloat) clsCommand 1
      let t ← s.issueEngine sc
      let dev := s.deviceRange s.cur.core s.lid (capBase cd.v) (capLength cd.v) || s.deviceRange s.cur.core s.lid (capBase cs.v) (capLength cs.v)
      let t := t.queueCopy a.d { done := doneOf done, dst := cd.v, src := cs, cvt := true, total := n, fmc := s.latchFmc, seed := s.cc.seed
                                 device := dev, along := s.copyAlong cd.v cs.v n }
      let t := if s.cvtDraws cs.v cd.v then t.modCc (fun k => { k with seed := seedAfter n k.seed }) else t
      .ok (t.popSrcs [a.s1, a.s2]).advance
    else do
      needCursor cd
      let n := capRest cd.v
      let src := capCursor cs.v
      trapIf (cs.tag && (src < capBase cs.v || capTop cs.v < src + n)) clsBounds src
      let dst := capCursor cd.v
      let t ← s.issueEngine sc
      let dev := s.deviceRange s.cur.core s.lid dst n || s.deviceRange s.cur.core s.lid src n
      let t := t.queueCopy a.d { done := doneOf done, dst := cd.v, src := cs, total := n, down := src < dst && dst < src + n, device := dev }
      .ok (t.popSrcs [a.s1, a.s2]).advance

/-- fill. -/
def execFill (sc : Scope) (done : Option (BitVec 6)) (a : Args) (s : State) : Host.Outcome State Fault Refusal :=
  conclude s do
    let (cd, v, _) ← s.operands2 .b a.s1 a.s2 [.dst a.d]
    needCap cd false true false
    needCursor cd
    let t ← s.issueEngine sc
    let t := t.queueCopy a.d { done := doneOf done, dst := cd.v, pattern := some v.v, total := capRest cd.v
                               device := s.deviceRange s.cur.core s.lid (capCursor cd.v) (capRest cd.v) }
    .ok (t.popSrcs [a.s1, a.s2]).advance

/-- The next byte piece of a command after `read` bytes: its offset from the destination's cursor and its length, cut at
destination sectors and at the page boundaries of both sides. -/
def CopyCmd.nextPiece (c : CopyCmd) : Nat × Nat :=
  let dst := capCursor c.dst
  let src := match c.pattern with | some _ => dst | none => capCursor c.src.v
  let left := c.total - c.read
  if c.down then
    let e := left
    let back (a n : Nat) : Nat := (a + e - 1) % n + 1
    let n := Nat.min e (Nat.min (back dst 64) (back src 65536))
    (e - n, n)
  else
    let o := c.read
    (o, Nat.min left (Nat.min (64 - (dst + o) % 64) (65536 - (src + o) % 65536)))

/-- The bytes of a pattern at an offset. -/
def patternBytes (v : W128) (o n : Nat) : List Byte := (span o n).map (fun i => v.extractLsb' (8 * (i % 16)) 8)

/-- The elements of a converting copy in the order in which they are taken. -/
def CopyCmd.elems (c : CopyCmd) : List Nat :=
  match c.along with
  | none => span 0 c.total
  | some cap => ((span 0 ((c.total + 255) / 256 * 256)).map (layoutIndex cap)).filter (fun e => e < c.total)

/-- The elements of a list whose codes lie in the destination sector of the first. -/
def sectorGroup (cap : W128) (es : List Nat) : List Nat :=
  let sec (e : Nat) : Nat := (capBase cap + elemBit cap e / 8) / 64
  es.takeWhile (fun e => sec e == sec (es.headD 0))

/-- The source pieces of elements, scales included. -/
def elemPieces (cap : W128) (es : List Nat) : List Piece :=
  runPieces (capBase cap) (sectorRuns (capBase cap) (elemOffsets cap true es))

/-- A converting copy draws for its elements, in increasing index. -/
def CopyCmd.draws (c : CopyCmd) : Bool :=
  (c.fmc.extractLsb' 9 3).toNat = 6 && !exactPair c.fmc (capTy c.src.v) (capTy c.dst)

/-- The elements of the next piece of a converting copy. -/
def CopyCmd.nextElems (c : CopyCmd) : List Nat := sectorGroup c.dst ((c.elems.drop c.read).take 128)

/-- The source pieces of a command's next piece. -/
def CopyCmd.readsNext (c : CopyCmd) : List Piece :=
  if c.cvt then elemPieces c.src.v c.nextElems
  else match c.pattern with
    | some _ => []
    | none => piecesOf (capCursor c.src.v + c.nextPiece.1) c.nextPiece.2

/-- Groups of four bytes as codes. -/
def codesOf (bs : List Byte) : List Nat :=
  match bs with
  | a :: b :: c :: d :: r => bytesNat [a, b, c, d] :: codesOf r
  | _ => []

/-- Bytes or elements of a command's next piece. -/
def CopyCmd.nextCount (c : CopyCmd) : Nat := if c.cvt then c.nextElems.length else c.nextPiece.2

/-- A command whose next piece is in flight: its reads gather in a join. -/
def CopyCmd.started (c : CopyCmd) (join : Option Nat) : CopyCmd :=
  { c with read := c.read + c.nextCount, flight := c.flight ++ [{ off := if c.cvt then c.read else c.nextPiece.1, n := c.nextCount, join := join }] }

/-- Pieces that a command may have in flight: 16, and one where a side is device-ordered (R217, R409). -/
def CopyCmd.pieces (c : CopyCmd) : Nat := if c.device then 1 else 16

/-- What a command writes for a piece whose bytes have come: the pieces of the destination, the bytes and their masks. -/
def CopyCmd.writes (c : CopyCmd) (f : Flight) (buf : List (Nat × Byte)) : List Piece × List Byte × List (BitVec 2) :=
  if c.cvt then
    let draw (e : Nat) : BitVec 32 := if c.draws then ((drawMany (e + 1) c.seed).1).getD e 0 else 0
    let es := (c.elems.drop f.off).take f.n
    layRuns (capBase c.dst) (elemWrites c.dst (es.map (fun e =>
      (e, encodeVal (fmtOf c.fmc (capTy c.dst)) (rulesOf c.fmc true) (draw e) (elemValue c.fmc c.src.v buf e)))))
  else
    let bs := match c.pattern with
      | some v => patternBytes v f.off f.n
      | none => (span 0 f.n).map (bufByte buf)
    (piecesOf (capCursor c.dst + f.off) f.n, bs, [])

/-- A command that performs nothing from the i-th piece in flight on. -/
def CopyCmd.cut (c : CopyCmd) (i : Nat) : CopyCmd := { c with broken := true, flight := c.flight.take i }

/-- Sends the reads of up to `k` more pieces (R409). -/
def State.startPieces (s : State) (core lid k : Nat) (c : CopyCmd) : State × Piecewise CopyCmd :=
  match k with
  | 0 => (s, .ok c)
  | n + 1 =>
    if c.pieces ≤ c.flight.length || c.total ≤ c.read || c.broken then (s, .ok c)
    else if c.pattern.isSome then s.startPieces core lid n (c.started none)
    else
      match s.hartWants core lid walkCopyRead false c.readsNext with
      | (s, .ok ts) =>
        let (j, s) := s.startRead core lid false ts
        s.startPieces core lid n (c.started (some j))
      | (s, .engine) => (s, .ok (c.cut c.flight.length))
      | (s, .wait _) => (s, .ok c)
      | (s, .fault x d) => (s, .fault x d)

/-- The bytes that have been read for a piece: none while some are still to come. -/
def Core.bytesFor (c : Core) (f : Flight) : Option (Bool × List (Nat × Byte)) :=
  match f.join with
  | none => some (false, [])
  | some id => (c.join? id).bind (fun j => if 0 < j.left then none else some (j.failed, j.buf))

/-- Sends the writes of the first piece that has none, once it has been read (R409). -/
def State.writePiece (s : State) (core lid : Nat) (c : CopyCmd) : State × Piecewise CopyCmd :=
  match c.flight.findIdx? (fun f => f.wrote.isNone) with
  | none => (s, .ok c)
  | some i =>
    match c.flight[i]? with
    | none => (s, .ok c)
    | some f =>
      match (s.core core).bytesFor f with
      | none => (s, .ok c)
      | some (true, _) => (s, .ok (c.cut i))
      | some (false, buf) =>
        let (ps, bs, mask) := c.writes f buf
        match s.hartWants core lid walkCopyWrite true ps with
        | (s, .ok ts) =>
          let (g, s) := s.newGroup core
          let (s, sig) := s.startWrite core lid g ts bs mask c.sig
          (s.modCore core (fun k => match f.join with | some id => k.dropJoin id | none => k)
            , .ok { c with sig := sig, flight := c.flight.set i { f with wrote := some g } })
        | (s, .engine) => (s, .ok (c.cut i))
        | (s, .wait _) => (s, .ok c)
        | (s, .fault x d) => (s, .fault x d)

/-- The oldest pieces, once their writes have been acknowledged, are complete. -/
def CopyCmd.retired (c : CopyCmd) (k : Core) : CopyCmd :=
  let done (f : Flight) : Bool := match f.wrote with | some g => k.acked g | none => false
  { c with moved := c.moved + ((c.flight.takeWhile done).map (fun f => f.n)).sum, flight := c.flight.dropWhile done }

/-- The head command of a core's copy engine taken out. -/
def Core.popCopy (c : Core) : Core := { c with copyQ := c.copyQ.tail }

/-- The head command of a core's copy engine after a step of it: it ends with its last piece, or fails once the pieces before the failed
one are complete. -/
def State.keepCopy (s : State) (core : Nat) (c : CopyCmd) : State :=
  let c := c.retired (s.core core)
  if c.broken && c.flight.isEmpty then (s.modCore core Core.popCopy).endCommand core c.ticket c.done c.sig {} true
  else if c.total ≤ c.moved then (s.modCore core Core.popCopy).endCommand core c.ticket c.done c.sig (val64 c.total) false
  else s.modCore core (fun k => { k with copyQ := c :: k.copyQ.tail })

/-- COPY_PIECE: the engine sends the reads of up to `reads` more pieces, then the writes of the oldest piece that has been read and not
written; pieces whose writes have been acknowledged are complete, and after the last the command ends (R409). -/
def execCopyPiece (core reads : Nat) (s : State) : Host.Outcome State Fault Refusal :=
  match (s.core core).copyQ with
  | [] => happens s
  | c :: _ =>
    let lid := (s.core core).engineTile.1
    let breach (t : State) (cls : BitVec 8) (d : Nat) : State := (t.modCore core Core.popCopy).hartFault core cls d
    match s.startPieces core lid reads (c.retired (s.core core)) with
    | (t, .ok c) =>
      match t.writePiece core lid c with
      | (u, .ok c) => happens (u.keepCopy core c)
      | (u, .fault x d) => happens (breach u x d)
      | (u, _) => happens (u.keepCopy core c)
    | (t, .fault x d) => happens (breach t x d)
    | (t, _) => happens t

/-! ## Streams (R411–R413) -/

/-- sbind: the register is bound at once; its ticket delivers nowhere and is freed in the next clk. -/
def execSbind (sc : Scope) (out : Bool) (a : Args) (s : State) : Host.Outcome State Fault Refusal :=
  conclude s do
    let n := a.d.toNat
    let bound := (s.curStream? n).isSome
    let (c, _) ← s.operand1 .b a.s1 (if bound then [] else [.dst a.d])
    needCap c (!out) out false
    needCursor c
    trapIf bound clsCommand 2
    trapIf (capCursor c.v % 16 != 0 || capRest c.v % 16 != 0) clsCommand 7
    let t ← s.issueEngine sc
    let t := t.popSrcs [a.s1]
    let sig := t.cc.acc
    let (k, t) := t.takeTicket 0x2 62
    let (g, t) := t.newGroup t.cur.core
    let t := t.modCx (fun x => { (x.setReg n {}) with
      streams := putAt n { out := out, scope := sc, base := capCursor c.v, total := capRest c.v / 16, group := g, sig := sig } x.streams })
    .ok (t.deliverLater t.cur.core 1 k {} none none).advance

/-- sunb: its issue is a release at launch scope (R223, R407), and its Fill carries the issuer's ACC with the lines that the stream has
stored (R233). s is met before d (R174), and an unbound one as a source before COMMAND 2. A refill in flight is discarded when it
arrives. -/
def execSunb (a : Args) (s : State) : Host.Outcome State Fault Refusal :=
  conclude s do
    let n := (srcReg a.s1).toNat
    let r := BitVec.ofNat 6 n
    match s.curStream? n with
    | none => do
      s.meet ([.src r] ++ (if a.d = r then [] else [.dst a.d]))
      trap clsCommand 2
    | some x => do
      parkIf (s.inShadow r) s (.shadow r)
      parkIf ((s.regAt s.cur.core s.cur.ctx n).state == .pending) s (.reg r)
      s.meet (if a.d = r then [] else [.dst a.d])
      let s ← s.issueEngine .launch
      let core := s.cur.core
      let x : Stream := { x with sig := sigUnion x.sig s.cc.acc }
      let u := s.modCc (fun c => match x.refill with | some id => c.dropJoin id | none => c)
      let u := u.modCx (fun y => { (y.setReg n {}) with streams := dropAt n y.streams })
      let (k, t) := u.takeTicket 0x2 a.d
      if x.out then
        .ok (t.modCc (fun c => { c with closing := c.closing ++ [{ ctx := s.cur.ctx, reg := n, stream := x, ticket := some k }] })).advance
      else .ok (t.deliverLater core 1 k (val64 x.moved) none (some x.sig)).advance

/-- A bound stream of a context replaced. -/
def State.putStream (s : State) (core ctx reg : Nat) (t : Stream) : State :=
  s.modCore core (fun c => c.modCtx ctx (fun x => { x with streams := putAt reg t x.streams }))

/-- Elements of a stream's next refill: as many as its next 64 bytes hold. -/
def Stream.refillCount (t : Stream) : Nat := Nat.min 4 (t.total - t.engine)

/-- A refill that has arrived is applied as an acquire, and its entries stand in the buffer (R412). -/
def State.endRefill (s : State) (core ctx reg : Nat) (t : Stream) : State :=
  match t.refill.bind (s.core core).join? with
  | none => s
  | some j =>
    if 0 < j.left then s
    else
      let s := s.modCore core (fun c => c.dropJoin j.id)
      if j.failed then s.putStream core ctx reg { t with failed := true, refill := none }
      else
        let vs := (span 0 t.refillCount).map (fun i => BitVec.ofNat 128 (bufNat j.buf (16 * i) 16))
        (s.applySig core t.sig).putStream core ctx reg { t with engine := t.engine + t.refillCount, buf := t.buf ++ vs, refill := none }

/-- A refill of an input stream starts when 4 entries are free and elements remain: the next 64 bytes, or fewer, as one piece (R412). -/
def State.startRefill (s : State) (core ctx reg : Nat) (t : Stream) : State :=
  if t.refillCount = 0 || t.failed || 4 < t.buf.length || t.refill.isSome then s
  else
    let lid := (s.core core).engineTile.1
    match s.hartWants core lid (walkStream ctx reg) false (piecesOf (t.base + 16 * t.engine) (16 * t.refillCount)) with
    | (s, .ok ts) =>
      let (j, s) := s.startRead core lid false ts
      s.putStream core ctx reg { t with refill := some j }
    | (s, .engine) => s.putStream core ctx reg { t with failed := true }
    | (s, .fault c d) => s.hartFault core c d
    | (s, .wait _) => s

/-- STREAM_REFILL of an input stream: a refill that has arrived is applied, else one starts; where its bytes lie in the core's own SRAM it
is applied at once. -/
def State.refillStream (s : State) (core ctx reg : Nat) (t : Stream) : State :=
  if t.refill.isSome then s.endRefill core ctx reg t
  else
    let s := s.startRefill core ctx reg t
    match ((s.core core).ctx ctx).stream? reg with
    | some t => s.endRefill core ctx reg t
    | none => s

/-- One store of an output stream: its first `k` entries (R412). -/
def State.storeStream (s : State) (core walk : Nat) (t : Stream) (k : Nat) : State × Piecewise Stream :=
  let lid := (s.core core).engineTile.1
  match s.hartWants core lid walk true (piecesOf (t.base + 16 * t.engine) (16 * k)) with
  | (s, .ok ts) =>
    let (s, g) := s.startWrite core lid t.group ts ((t.buf.take k).flatMap (fun v => natBytes 16 v.toNat)) [] t.sig
    (s, .ok { t with engine := t.engine + k, buf := t.buf.drop k, sig := g })
  | (s, .engine) => (s, .engine)
  | (s, .fault c d) => (s, .fault c d)
  | (s, .wait v) => (s, .wait v)

/-- An unbound output stream replaced, or, once its entries are written and every store of it has been acknowledged, done: its register is
filled (R413). -/
def State.putClosing (s : State) (core : Nat) (c : Closing) (t : Stream) : State :=
  if (t.buf.isEmpty || t.failed) && (s.core core).acked t.group then
    (s.modCore core (fun k => { k with closing := k.closing.erase c })).endCommand core c.ticket none t.sig (val64 t.moved) t.failed
  else s.modCore core (fun k => { k with closing := k.closing.map (fun e => if e == c then { c with stream := t } else e) })

/-- An unbound output stream has a step to take: it does not only wait for its stores' acknowledgements. -/
def Closing.moves (c : Closing) (k : Core) : Bool := !(c.stream.buf.isEmpty || c.stream.failed) || k.acked c.stream.group

/-- One step of an unbound output stream (R413). -/
def State.closeStream (s : State) (core : Nat) (c : Closing) : State :=
  let t := c.stream
  if t.buf.isEmpty || t.failed then s.putClosing core c t
  else
    match s.storeStream core (walkClosing c.ctx c.reg) t (Nat.min 4 t.buf.length) with
    | (s, .ok t) => s.putClosing core c t
    | (s, .engine) => s.putClosing core c { t with failed := true }
    | (s, .fault x d) => (s.modCore core (fun k => { k with closing := k.closing.erase c })).hartFault core x d
    | (s, .wait _) => s

/-- STREAM_REFILL: a step of the stream engine at a bound register, or at one that has been unbound. -/
def execStreamRefill (core ctx reg : Nat) (s : State) : Host.Outcome State Fault Refusal :=
  match (s.core core).closing.find? (fun c => c.ctx == ctx && c.reg == reg && c.moves (s.core core)) with
  | some c => happens (s.closeStream core c)
  | none =>
    match ((s.core core).ctx ctx).stream? reg with
    | none => happens s
    | some t =>
      if !t.out then happens (s.refillStream core ctx reg t)
      else if t.buf.length < 4 then happens s
      else if t.failed then happens (s.putStream core ctx reg { t with buf := t.buf.drop 4, engine := t.engine + 4 })
      else
        match s.storeStream core (walkStream ctx reg) t 4 with
        | (s, .ok t) => happens (s.putStream core ctx reg t)
        | (s, .engine) => happens (s.putStream core ctx reg { t with failed := true })
        | (s, .fault x d) => happens (s.hartFault core x d)
        | (s, .wait _) => happens s

end Sys2Proof.Machine
end

