-- ==== Sys2Proof/Machine/Matrix.lean ====
section
/-! DEFINITION. The matrix unit: its arithmetic (spec 12 R254–R260), its queue and banks (spec 19 R414–R420) and the licence
of a column (spec 09 R189–R191). -/

namespace Sys2Proof.Machine
open Sys2Proof

/-! ## Arithmetic (R254–R259) -/

/-- K by format. -/
def matK (t : Ty) : Nat := if t = .bf16 then 128 else if t = .f8 then 256 else 512
/-- The field width F (Table 12-9). -/
def matF (t : Ty) : Nat := if t = .bf16 then 16 else if t = .f8 then 8 else 4

/-- The shared exponent of a block (R255). -/
def blockExp (vs : List FVal) : Int :=
  (vs.foldl (fun (b : Option Int) v =>
    match v with
    | .fin _ m x =>
      if m = 0 then b
      else
        let e := x + (Nat.log2 m : Int)
        match b with
        | none => some e
        | some f => some (if f < e then e else f)
    | _ => b) none).getD 0

/-- A finite element aligned to a block's field: sign and magnitude, low bits cut. -/
def alignTo (f : Nat) (e : Int) (v : FVal) : Int :=
  match v with
  | .fin n m x =>
    let k := x + (f : Int) - 1 - e
    let q := if 0 ≤ k then m * 2 ^ k.toNat else m / 2 ^ (-k).toNat
    if n then -(q : Int) else q
  | _ => 0

/-- An infinity. -/
def FVal.isInf : FVal → Bool
  | .inf _ => true
  | _ => false

/-- A zero. -/
def FVal.isZero : FVal → Bool
  | .fin _ m _ => m == 0
  | _ => false

/-- The value of a block pair (R256, R259). -/
def pairValue (f : Nat) (as bs : List FVal) (sa sb : Nat) : FVal :=
  let ts := as.zip bs
  if sa = 255 || sb = 255 || ts.any (fun t => t.1.isNan || t.2.isNan) then .nan
  else
    let infs := ts.filter (fun t => t.1.isInf || t.2.isInf)
    let signs := infs.map (fun t => t.1.neg != t.2.neg)
    if infs.any (fun t => t.1.isZero || t.2.isZero) || (signs.contains true && signs.contains false) then .nan
    else match signs with
      | n :: _ => .inf n
      | [] =>
        let ea := blockExp as
        let eb := blockExp bs
        let t := (ts.map (fun t => alignTo f ea t.1 * alignTo f eb t.2)).sum
        if t = 0 then .fin false 0 0
        else .fin (t < 0) t.natAbs (ea + eb - 2 * (f : Int) + 2 + ((sa : Int) - 127) + ((sb : Int) - 127))

/-- One addition of R258. -/
def addPair (c : Nat) (v : FVal) : Nat := addF32 c (encodeVal fmtF32 rulesRne 0 v)

/-- The operands of a matrix command: values by index and scale bytes by block. -/
structure MatIn where
  ty : Ty
  a : Nat → FVal
  sa : Nat → Nat
  b : Nat → FVal
  sb : Nat → Nat

/-- Element (i, j) of C after the first `n` block additions (R258, R270). -/
def MatIn.element (m : MatIn) (i j c0 n : Nat) : Nat :=
  let k := matK m.ty
  (span 0 n).foldl (fun c b =>
    let as := (span (k * i + 32 * b) 32).map m.a
    let bs := (span (k * j + 32 * b) 32).map m.b
    addPair c (pairValue (matF m.ty) as bs (m.sa (k / 32 * i + b)) (m.sb (k / 32 * j + b)))) c0

/-- C, row by row, after `n e` block additions of element e. -/
def MatIn.run (m : MatIn) (c : Nat → Nat) (n : Nat → Nat) : List (Nat × Nat) :=
  (span 0 1024).map (fun e => (e, m.element (e / 64) (e % 64) (c e) (n e)))

/-! ## Operands in memory -/

/-- Bytes that elements 0 to n − 1 of a matrix operand take from base, scales included. -/
def matBytes (cap : W128) (n : Nat) : Nat :=
  if capBlog2 cap = 5 then n / 512 * (16 + 64 * (capTy cap).bits) else n * (capTy cap).bits / 8

/-- An element's code in bytes from base. -/
def codeIn (cap : W128) (buf : Array Byte) (e : Nat) : Nat :=
  let b := elemBit cap e
  let at_ (i : Nat) : Nat := (buf.getD i 0).toNat
  match (capTy cap).bits with
  | 4 => at_ (b / 8) / 2 ^ (b % 8) % 16
  | n => ((span 0 (n / 8)).map (fun i => at_ (b / 8 + i) * 256 ^ i)).sum

/-- The scale byte of a block of 32 elements; 127, a factor of one, without block scales. -/
def scaleIn (cap : W128) (buf : Array Byte) (blk : Nat) : Nat :=
  match scaleByteOff cap (32 * blk) with
  | some o => (buf.getD o 0).toNat
  | none => 127

/-- The sector pieces of the first `n` elements of a matrix operand. -/
def matPieces (cap : W128) (n : Nat) : List Piece :=
  let bytes := matBytes cap n
  sectorPieces (capBase cap) 0 bytes (bytes / 64 + 2)

/-- The bytes of a matrix operand in the core's own SRAM, read by the hart (R418). -/
def State.matOwn (s : State) (core : Nat) (cap : W128) (n : Nat) : Piecewise (Array Byte) :=
  match s.hartTargets core (s.core core).engineTile.1 walkMatrix false (matPieces cap n) with
  | .ok ts => .ok (ts.flatMap (fun (p, t) => Memory.readN s.mem t.pa p.len)).toArray
  | .engine => .engine
  | .fault c d => .fault c d
  | .wait v => .wait v

/-- The reads of a matrix operand that may lie anywhere: they gather in a join (R417, R419). -/
def State.matFetch (s : State) (core walk : Nat) (cap : W128) (n : Nat) : State × Piecewise Nat :=
  let lid := (s.core core).engineTile.1
  match s.hartWants core lid walk false (matPieces cap n) with
  | (s, .ok ts) =>
    let (j, s) := s.startRead core lid true ts
    (s, .ok j)
  | (s, .engine) => (s, .engine)
  | (s, .fault c d) => (s, .fault c d)
  | (s, .wait v) => (s, .wait v)

/-- The bytes that a join has gathered for a matrix operand. -/
def Join.bytes (j : Join) (cap : W128) (n : Nat) : Array Byte := ((span 0 (matBytes cap n)).map (bufByte j.buf)).toArray

/-- A bank's first SRAM offset (R415). -/
def bankOff (k : Nat) : Nat := 0x8000 + k * 0x4000

/-- A bank of a core. -/
def Core.bank (c : Core) (k : Nat) : Bank := getAt {} k c.banks
/-- The issue view of a bank. -/
def Core.bankView (c : Core) (k : Nat) : BankView := getAt {} k c.bankViews

/-- A code of a bank's local SRAM in LINEAR order. -/
def bankCode (t : Ty) (buf : Array Byte) (e : Nat) : Nat :=
  match t.bits with
  | 4 => (buf.getD (e / 2) 0).toNat / 2 ^ (4 * (e % 2)) % 16
  | 8 => (buf.getD e 0).toNat
  | _ => (buf.getD (2 * e) 0).toNat + 256 * (buf.getD (2 * e + 1) 0).toNat

/-- The operands of an mmac or mrmt on a core's bank, A given by codes and scales. -/
def State.matIn (s : State) (core k : Nat) (ty : Ty) (fmc : BitVec 14) (code scale : Nat → Nat) : MatIn :=
  let b := (s.core core).bank k
  let bytes := (Memory.readN s.mem (sramPa core (bankOff k)) 0x4000).toArray
  let sc := b.scales.toArray
  { ty := ty, a := fun e => (fmtOf fmc ty).decode (code e), sa := scale
    b := fun e => (fmtOf b.fmc b.fmt).decode (bankCode b.fmt bytes e)
    sb := fun n => if b.scaled then (sc.getD n 0).toNat else 127 }

/-- The bank that MCFG names, and whether C starts from +0. -/
def Core.mcfgBank (c : Core) : Nat := c.mcfg.toNat % 4
/-- ZC. -/
def Core.mcfgZc (c : Core) : Bool := c.mcfg.getLsbD 2

/-- A sector of a bank's codes has an uncorrectable soft error, which fails the command that reads it (R177). -/
def State.bankDamaged (s : State) (core k : Nat) : Bool := (span 0 256).any (fun i => s.damaged (sramPa core (bankOff k) + 64 * i))

/-- C as a command finds it: +0 in place of every element where ZC is 1, and then C is not read (R418). -/
def State.matC (s : State) (core : Nat) (cc : W128) : Piecewise (Nat → Nat) :=
  if (s.core core).mcfgZc then .ok (fun _ => 0)
  else match s.matOwn core cc 1024 with
    | .ok buf => .ok (codeIn cc buf)
    | .engine => .engine
    | .fault c d => .fault c d
    | .wait v => .wait v

/-- C read, computed with `n e` block additions of element e, and stored back (R418). -/
def State.runMatrix (s : State) (core : Nat) (m : MatIn) (cc : W128) (sig : Sig) (n : Nat → Nat) : Piecewise (State × Sig) :=
  let lid := (s.core core).engineTile.1
  if s.bankDamaged core (s.core core).mcfgBank then .engine
  else match s.matC core cc with
  | .ok c =>
    let (ps, bs, ms) := layRuns (capBase cc) (elemWrites cc (m.run c n))
    match s.hartTargets core lid walkMatrix true ps with
    | .ok ts =>
      let (g, s) := s.newGroup core
      .ok (s.startWrite core lid g ts bs ms sig)
    | .engine => .engine
    | .fault c d => .fault c d
    | .wait v => .wait v
  | .engine => .engine
  | .fault c d => .fault c d
  | .wait v => .wait v

/-! ## The licence (R190, R191) -/

/-- The head command of a core asks for the licence now. -/
def Core.headWants (c : Core) (clk : Nat) : Bool :=
  match c.mqueue with
  | [] => false
  | m :: _ => m.finish.isNone && m.earliest ≤ clk &&
    match m.op with
    | .take => true
    | .mmac _ _ _ => (c.bank c.mcfgBank).loaded
    | .mrmt _ _ _ => m.fetched && !m.failed && (c.bank c.mcfgBank).loaded
    | _ => false

/-- Commands of a holder's queue that keep the licence with it. -/
def Core.keepsLicence (c : Core) : Bool :=
  c.licHold || c.mqueue.any (fun m => m.op.needsLicence || m.op == .give)

/-- The core of a column's layer. -/
def layerCore (col z : Nat) : Nat := 2 * col + z

/-- A handover to a layer starts: 32 clk of the column's clock. -/
def State.handTo (s : State) (col z : Nat) : State :=
  let e := s.clk + s.delay (2 * col) 32
  s.modColumn col (fun c => { c with lic := { c.lic with holder := none, handover := some (z, e), due := false
                                                         waitSince := c.lic.waitSince.set z none } })

/-- The holder gives the licence to the twin that has a command for it, or frees it. -/
def State.passLic (s : State) (col z : Nat) : State :=
  let twin := s.core (layerCore col (1 - z))
  if 0 < queueNeeds twin.mqueue then s.handTo col (1 - z)
  else s.modColumn col (fun c => { c with lic := { c.lic with holder := none, due := false } })

/-- A holder without a command for the licence loses it (R190). -/
def State.leaveLic (s : State) (col : Nat) : State :=
  let l := (s.column col).lic
  if l.handover.isSome then s
  else
    match l.holder with
    | some z => if (s.core (layerCore col z)).keepsLicence then s else s.passLic col z
    | none => s

/-- A free licence goes to a head that asks, and of two that ask to the core that did not hold it last (R190). -/
def State.grantLic (s : State) (col : Nat) : State :=
  let l := (s.column col).lic
  if l.handover.isSome || l.holder.isSome then s
  else
    let w0 := (s.core (layerCore col 0)).headWants s.clk
    let w1 := (s.core (layerCore col 1)).headWants s.clk
    match w0, w1 with
    | true, true => s.handTo col (match l.last with | some 0 => 1 | _ => 0)
    | true, false => s.handTo col 0
    | false, true => s.handTo col 1
    | false, false => s

/-- A core holds its column's licence, and no handover runs. -/
def State.holdsLic (s : State) (core : Nat) : Bool :=
  let l := (s.column (colOf core)).lic
  l.handover.isNone && l.holder == some (placeZ core)

/-- A head that asks and does not hold the licence waits from now. -/
def State.noteWait (s : State) (core : Nat) : State :=
  let z := placeZ core
  s.modColumn (colOf core) (fun c =>
    match c.lic.waitSince.getD z none with
    | some _ => c
    | none => { c with lic := { c.lic with waitSince := c.lic.waitSince.set z (some (s.ownClk core)) } })

/-- LICENCE_HANDOVER_END. -/
def execLicenceHandoverEnd (col : Nat) (s : State) : Host.Outcome State Fault Refusal :=
  match (s.column col).lic.handover with
  | some (z, e) =>
    if s.clk < e then happens s
    else happens ((s.modColumn col (fun c =>
      { c with lic := { c.lic with holder := some z, handover := none, last := some z, hovers := c.lic.hovers + 1 } })).leaveLic col)
  | none => happens s

/-- The head of a core's queue is a running mmac or mrmt. -/
def Core.multiplies (c : Core) : Bool :=
  match c.mqueue with
  | m :: _ => m.finish.isSome && (match m.op with | .mmac _ _ _ => true | .mrmt _ _ _ => true | _ => false)
  | [] => false

/-- The licence passes under the 8,192 clk rule, which clears HOLD. -/
def State.passDue (s : State) (col z : Nat) : State :=
  (s.modCore (layerCore col z) (fun c => { c with licHold := false })).handTo col (1 - z)

/-- The head of a core's queue is a lic.give that ends in this clk. -/
def Core.gives (c : Core) (clk : Nat) : Bool :=
  match c.mqueue with
  | m :: _ => m.op == .give && (match m.finish with | some f => f ≤ clk | none => false)
  | [] => false

/-- LICENCE_WAIT_EXPIRY: at once where the holder runs no mmac or mrmt, else when it completes. A lic.give that ends in the same clk comes
first (R426). -/
def execLicenceWaitExpiry (col : Nat) (s : State) : Host.Outcome State Fault Refusal :=
  let l := (s.column col).lic
  match l.holder, l.handover with
  | some z, none =>
    match l.waitSince.getD (1 - z) none with
    | some t =>
      if s.ownClk (2 * col) < t + 8192 || !(s.core (layerCore col (1 - z))).headWants s.clk || (s.core (layerCore col z)).gives s.clk then happens s
      else if (s.core (layerCore col z)).multiplies then happens (s.modColumn col (fun c => { c with lic := { c.lic with due := true } }))
      else happens (s.passDue col z)
    | none => happens s
  | _, _ => happens s

/-! ## Issue (R414–R420) -/

/-- A range of window 0xF at the issuing tile's own L: its SRAM offset. An L1 way in it is BOUNDS, anything else COMMAND 3. -/
def State.localRange (s : State) (va n : Nat) : Res Nat := do
  let off := va % 2 ^ 24
  let here := va / 2 ^ 44 = 0xF && va / 2 ^ 24 % 2 ^ 20 = s.tileL
  let way := (8 - s.cc.l1Ways) * 0x1000
  trapIf (here && 0 < n && 0 < s.cc.l1Ways && off < 0x8000 && way < off + n) clsBounds (Nat.max va (va - off + way))
  trapIf (!here || Config.sramBytes < off + n) clsCommand 3
  .ok off

/-- A local range's offset where it is the issuing tile's own. -/
def State.ownOff? (s : State) (va : Nat) : Option Nat :=
  if va / 2 ^ 44 = 0xF && va / 2 ^ 24 % 2 ^ 20 = s.tileL then some (va % 2 ^ 24) else none

/-- A matrix operand that mbld, mmac and mrmt accept (R254, R417, R418). -/
def matOk (cap : W128) : Bool :=
  (capTy cap == .bf16 || capTy cap == .f8 || capTy cap == .f4) && (capBlog2 cap == 0 || capBlog2 cap == 5)
    && capLayout cap < 2 && !(capBlog2 cap == 5 && capLayout cap != 0)

/-- Every byte of the first n elements lies within the bounds. -/
def needElems (c : W128) (n : Nat) : Res Unit := trapIf (capLength c < matBytes c n) clsBounds (capTop c)

/-- A command enters the matrix queue. -/
def State.queueMatrix (s : State) (m : MCmd) : State :=
  s.modCc (fun c => { c with mqueue := c.mqueue ++ [{ m with ctx := s.cur.ctx, sig := c.acc, earliest := s.clk + s.delay s.cur.core 1 }] })

/-- The queue is full (R414). -/
def State.needQueue (s : State) : Res Unit := parkIf (4 ≤ s.cc.mqueue.length) s .matrix

/-- mcfg. -/
def execMcfg (a : Args) (s : State) : Host.Outcome State Fault Refusal :=
  conclude s do
    let (v, t) ← s.operand1 .b a.s1 []
    trapIf ((low64 v.v).toNat / 8 != 0) clsCommand 6
    s.needQueue
    let v := v.v.extractLsb' 0 3
    .ok ((t.queueMatrix { op := .mcfg v }).modCc (fun c => { c with mcfgView := v })).advance

/-- mbld. -/
def execMbld (sc : Scope) (bank : BitVec 2) (done : Option (BitVec 6)) (a : Args) (s : State) : Host.Outcome State Fault Refusal :=
  conclude s do
    let (cb, _) ← s.operand1 .b a.s1 [.dst a.d]
    needCap cb true false true
    let ok := matOk cb.v
    let n := 64 * matK (capTy cb.v)
    (if ok then needElems cb.v n else .ok ())
    trapIf (!ok) clsCommand 1
    let k := bank.toNat
    trapIf (match s.ownOff? (capBase cb.v) with | some o => overlaps o (matBytes cb.v n) (bankOff k) 0x4000 | none => false) clsCommand 4
    s.needQueue
    let t ← s.issueEngine sc
    let (x, t) := t.takeTicket 0x3 a.d
    let v := t.cc.bankView k
    let t := t.queueMatrix { op := .mbld k cb.v t.cc.fmc (v.loads + 1), ticket := some x, done := doneOf done }
    let t := t.modCc (fun c => { c with bankViews := putAt k { loaded := true, fmt := capTy cb.v, loads := v.loads + 1 } c.bankViews })
    .ok (t.popSrcs [a.s1]).advance

/-- An mrmt that has not got its A. -/
def MCmd.unfetched (m : MCmd) : Bool := !m.fetched && (match m.op with | .mrmt _ _ _ => true | _ => false)

/-- A command of a core's matrix queue replaced. -/
def State.putMatrix (s : State) (core : Nat) (m n : MCmd) : State :=
  s.modCore core (fun c => { c with mqueue := c.mqueue.map (fun e => if e == m then n else e) })

/-- The first mrmt without its A starts its fetch, unless it runs (R419). -/
def State.startFetch (s : State) (core : Nat) : State :=
  match (s.core core).mqueue.find? MCmd.unfetched with
  | none => s
  | some m =>
    match m.op, m.join with
    | .mrmt ca _ _, none =>
      match s.matFetch core walkFetch ca (16 * matK (capTy ca)) with
      | (s, .ok j) => s.putMatrix core m { m with join := some j }
      | (s, .engine) => s.putMatrix core m { m with fetched := true, failed := true }
      | (s, .fault x d) => s.hartFault core x d
      | (s, .wait _) => s
    | _, _ => s

/-- mmac and mrmt: `remote` A need not be local. -/
def multiply (remote : Bool) (sc : Scope) (done : Option (BitVec 6)) (a : Args) (s : State) : Host.Outcome State Fault Refusal :=
  conclude s do
    let (ca, cc, _) ← s.operands2 .b a.s1 a.s2 [.dst a.d]
    needCap ca true false true
    needCap cc true true true
    let okA := matOk ca.v
    let okC := capTy cc.v == .f32 && capBlog2 cc.v == 0 && capLayout cc.v < 2
    let n := 16 * matK (capTy ca.v)
    (if okA then needElems ca.v n else .ok ())
    (if okC then needElems cc.v 1024 else .ok ())
    let wayA := if remote || !okA then .ok 0 else s.localRange (capBase ca.v) (matBytes ca.v n)
    let wayC := if okC then s.localRange (capBase cc.v) 4096 else .ok 0
    (match wayA with | .error (.trap cls c d) => if cls = clsBounds then .error (.trap cls c d) else .ok () | _ => .ok ())
    (match wayC with | .error (.trap cls c d) => if cls = clsBounds then .error (.trap cls c d) else .ok () | _ => .ok ())
    trapIf (!okA || !okC) clsCommand 1
    let _ ← wayA
    let offC ← wayC
    let k := s.cc.mcfgView.toNat % 4
    let aHit := match s.ownOff? (capBase ca.v) with | some o => overlaps o (matBytes ca.v n) offC 4096 | none => false
    trapIf (aHit || overlaps (bankOff k) 0x4000 offC 4096) clsCommand 4
    let v := s.cc.bankView k
    trapIf (!v.loaded || v.fmt != capTy ca.v) clsCommand 5
    s.needQueue
    let t ← s.issueEngine sc
    let (x, t) := t.takeTicket 0x3 a.d
    let op := if remote then MOp.mrmt ca.v cc.v t.cc.fmc else .mmac ca.v cc.v t.cc.fmc
    .ok (((t.queueMatrix { op := op, ticket := some x, done := doneOf done }).startFetch s.cur.core).popSrcs [a.s1, a.s2]).advance

/-- mmac. -/
def execMmac (sc : Scope) (done : Option (BitVec 6)) (a : Args) (s : State) : Host.Outcome State Fault Refusal :=
  multiply false sc done a s

/-- mrmt. -/
def execMrmt (sc : Scope) (done : Option (BitVec 6)) (a : Args) (s : State) : Host.Outcome State Fault Refusal :=
  multiply true sc done a s

/-- lic of either form: an engine command, whose issue is a release at launch scope (R223, R407). -/
def licence (op : MOp) (a : Args) (s : State) : Host.Outcome State Fault Refusal :=
  conclude s do
    s.meet [.dst a.d]
    s.needQueue
    let t ← s.issueEngine .launch
    let (x, t) := t.takeTicket 0x3 a.d
    .ok (t.queueMatrix { op := op, ticket := some x }).advance

/-- lic, take. -/
def execLicTake (a : Args) (s : State) : Host.Outcome State Fault Refusal := licence .take a s

/-- lic, give. -/
def execLicGive (a : Args) (s : State) : Host.Outcome State Fault Refusal := licence .give a s

/-! ## Running (R414, R415) -/

/-- Clk an mmac takes (Table 19-5). -/
def macClk (t : Ty) : Nat := if t = .bf16 then 256 else if t = .f8 then 128 else 64

/-- Clk that the head command takes once it starts; none when it must wait for its fetch or the licence. -/
def State.startClk? (s : State) (core : Nat) (m : MCmd) : Option Nat :=
  let c := s.core core
  match m.op with
  | .mcfg _ => some 1
  | .give => some 1
  | .take => if s.holdsLic core then some 1 else none
  | .mbld _ cap _ _ => some (256 + (matBytes cap (64 * matK (capTy cap)) - 0x4000 + 63) / 64)
  | .mmac ca _ _ =>
    if !(c.bank c.mcfgBank).loaded then some 1 else if s.holdsLic core then some (macClk (capTy ca)) else none
  | .mrmt ca _ _ =>
    if !m.fetched then none
    else if m.failed || !(c.bank c.mcfgBank).loaded then some 1
    else if s.holdsLic core then some (macClk (capTy ca)) else none

/-- The head command starts: it ends `n` clk later, and its core waits for no licence. -/
def State.startHead (s : State) (core n : Nat) (m : MCmd) : State :=
  (s.modCore core (fun c => { c with mqueue := { m with finish := some (s.clk + s.delay core n) } :: c.mqueue.tail })).modColumn (colOf core)
    (fun c => { c with lic := { c.lic with waitSince := c.lic.waitSince.set (placeZ core) none } })

/-- MATRIX_COMMAND_START: a free licence is granted, and the head command starts where it may. An mbld sends the reads of its source; with
all of them in the core's own SRAM it has its bytes at once (R414, R417). -/
def execMatrixCommandStart (core : Nat) (s : State) : Host.Outcome State Fault Refusal :=
  match (s.core core).mqueue with
  | [] => happens s
  | m :: _ =>
    if m.finish.isSome || s.clk < m.earliest then happens s
    else
      let s := (s.leaveLic (colOf core)).grantLic (colOf core)
      match s.startClk? core m, m.op with
      | some n, .mbld _ cap _ _ =>
        (match s.matFetch core walkMatrix cap (64 * matK (capTy cap)) with
        | (s, .ok j) =>
          let here := match (s.core core).join? j with | some x => x.left == 0 | none => false
          happens (s.startHead core n { m with join := some j, fetched := here })
        | (s, .engine) => happens (s.startHead core 1 { m with fetched := true, failed := true })
        | (s, .fault x d) => happens ((s.modCore core (fun c => { c with mqueue := c.mqueue.tail })).hartFault core x d)
        | (s, .wait _) => happens s)
      | some n, _ => happens (s.startHead core n m)
      | none, _ => happens (if (s.core core).headWants s.clk then s.noteWait core else s)

/-- The A that a join has brought for an mrmt, in the staging buffer (R419). -/
def MCmd.staged (m : MCmd) (ca : W128) (j : Join) : MCmd :=
  let n := 16 * matK (capTy ca)
  let buf := j.bytes ca n
  if j.failed then { m with fetched := true, failed := true, join := none }
  else { m with fetched := true, join := none, codes := (span 0 n).flatMap (fun e => natBytes 2 (codeIn ca buf e))
                scales := (span 0 (n / 32)).map (fun b => BitVec.ofNat 8 (scaleIn ca buf b)) }

/-- MRMT_FETCH_COMPLETE: the A of the first mrmt that waits for it has come, and the next one's fetch starts (R419). A fetch that waited
for a page's walk or for markers starts here. -/
def execMrmtFetchComplete (core : Nat) (s : State) : Host.Outcome State Fault Refusal :=
  let s := s.startFetch core
  match (s.core core).mqueue.find? MCmd.unfetched with
  | none => happens s
  | some m =>
    match m.op, m.join.bind (s.core core).join? with
    | .mrmt ca _ _, some j =>
      if 0 < j.left then happens s
      else happens ((((s.modCore core (fun c => c.dropJoin j.id)).putMatrix core m (m.staged ca j))).startFetch core)
    | _, _ => happens s

/-- The head command leaves the queue; its register takes its Fill or Poison in this clk, and the licence is settled. -/
def State.finishMatrix (s : State) (core : Nat) (m : MCmd) (sig : Sig) (v : TagVal) (failed : Bool) : State :=
  let s := s.modCore core (fun c => { c with mqueue := c.mqueue.tail })
  let s := match m.ticket with
    | some t => s.deliverAcq core t (if failed then Reg.poison pzEngine else Reg.full v) (some sig)
    | none => s
  let s := match m.done, failed, (s.core core).tile? with
    | some n, false, some (lid, l) => s.post .req 0 lid core core .core (some (.compute, l)) (.decrement n sig)
    | _, _, _ => s
  let col := colOf core
  let l := (s.column col).lic
  if l.due && l.holder == some (placeZ core) && (match m.op with | .mmac _ _ _ => true | .mrmt _ _ _ => true | _ => false)
  then s.passDue col (placeZ core) else s.leaveLic col

/-- A multiplication ends: C is computed and stored. -/
def State.finishMultiply (s : State) (core : Nat) (m : MCmd) (ca cc : W128) (input : MatIn) : State :=
  let k := matK (capTy ca)
  match s.runMatrix core input cc m.sig (fun _ => k / 32) with
  | .ok (t, g) => t.finishMatrix core m g (val64 k) false
  | .engine => s.finishMatrix core m m.sig {} true
  | .fault x d => (s.modCore core (fun c => { c with mqueue := c.mqueue.tail })).hartFault core x d
  | .wait _ => s

/-- The first `n` codes of an mbld's source as they stand in the bank, in LINEAR order (R415). -/
def bankBytes (cap : W128) (buf : Array Byte) (n : Nat) : List Byte :=
  match (capTy cap).bits with
  | 4 => (span 0 (n / 2)).map (fun i => BitVec.ofNat 8 (codeIn cap buf (2 * i) + 16 * codeIn cap buf (2 * i + 1)))
  | w => (span 0 n).flatMap (fun e => natBytes (w / 8) (codeIn cap buf e))

/-- An mbld fails: its bank is EMPTY, in the issue view too unless a later mbld of it has issued (R415, R417). -/
def State.failLoad (s : State) (core : Nat) (m : MCmd) (k : Nat) (serial : Nat) : State :=
  (s.modCore core (fun c =>
    { c with banks := putAt k {} c.banks
             bankViews := if (c.bankView k).loads = serial then putAt k { c.bankView k with loaded := false } c.bankViews else c.bankViews })).finishMatrix
    core m m.sig {} true

/-- An mbld ends with its bank loaded, or EMPTY when a piece failed or a sector of the bank is damaged (R177, R415, R417). -/
def State.finishLoad (s : State) (core : Nat) (m : MCmd) (k : Nat) (cap : W128) (fmc : BitVec 14) (serial : Nat) : State :=
  let ty := capTy cap
  let n := 64 * matK ty
  match m.join.bind (s.core core).join? with
  | some j =>
    if 0 < j.left then s
    else if !m.fetched then
      s.modCore core (fun c => { c with mqueue := { m with fetched := true, finish := some (s.clk + s.delay core 1) } :: c.mqueue.tail })
    else
      let s := s.modCore core (fun c => c.dropJoin j.id)
      if j.failed then s.failLoad core m k serial
      else if s.bankDamaged core k then (s.modCore core (fun c => { c with mqueue := c.mqueue.tail })).hartFault core clsMemory (sramPa core (bankOff k))
      else
        let buf := j.bytes cap n
        let bank : Bank := { loaded := true, fmt := ty, fmc := fmc, scaled := capBlog2 cap == 5
                             scales := if capBlog2 cap = 5 then (span 0 (n / 32)).map (fun b => BitVec.ofNat 8 (scaleIn cap buf b)) else [] }
        let t := (s.storeHome (sramPa core (bankOff k)) (bankBytes cap buf n) [] none).modCore core (fun c => { c with banks := putAt k bank c.banks })
        t.finishMatrix core m ((span (sramPa core (bankOff k) / 128) 128).foldl sigEnter m.sig) (val64 n) false
  | none => s.failLoad core m k serial

/-- MATRIX_COMMAND_COMPLETE: in the clk after the command's last (R414). -/
def execMatrixCommandComplete (core : Nat) (s : State) : Host.Outcome State Fault Refusal :=
  match (s.core core).mqueue with
  | [] => happens s
  | m :: _ =>
    match m.finish with
    | none => happens s
    | some f =>
      if s.clk < f then happens s
      else
        let c := s.core core
        let z := placeZ core
        let col := colOf core
        let state := val64 (licState (s.column col).lic z)
        let empty := !(c.bank c.mcfgBank).loaded
        match m.op with
        | .mcfg v => happens ((s.modCore core (fun c => { c with mcfg := v })).finishMatrix core m m.sig {} false)
        | .take => happens ((s.modCore core (fun c => { c with licHold := true })).finishMatrix core m m.sig state false)
        | .give =>
          let s := s.modCore core (fun c => { c with licHold := false })
          let t := s.finishMatrix core m m.sig state false
          happens (if s.holdsLic core && (t.column col).lic.holder == some z then t.passLic col z else t)
        | .mbld k cap fmc serial => happens (s.finishLoad core m k cap fmc serial)
        | .mmac ca cc fmc =>
          if empty then happens (s.finishMatrix core m m.sig {} true)
          else
            match s.matOwn core ca (16 * matK (capTy ca)) with
            | .ok buf => happens (s.finishMultiply core m ca cc (s.matIn core c.mcfgBank (capTy ca) fmc (codeIn ca buf) (scaleIn ca buf)))
            | .engine => happens (s.finishMatrix core m m.sig {} true)
            | .fault x d => happens ((s.modCore core (fun c => { c with mqueue := c.mqueue.tail })).hartFault core x d)
            | .wait _ => happens s
        | .mrmt ca cc fmc =>
          if m.failed || empty then happens (s.finishMatrix core m m.sig {} true)
          else
            let codes := m.codes.toArray
            let scales := m.scales.toArray
            let code (e : Nat) : Nat := (codes.getD (2 * e) 0).toNat + 256 * (codes.getD (2 * e + 1) 0).toNat
            happens (s.finishMultiply core m ca cc (s.matIn core c.mcfgBank (capTy ca) fmc code (fun b => (scales.getD b 127).toNat)))

end Sys2Proof.Machine
end

