-- ==== Sys2Proof/Machine/Route.lean ====
section
/-! DEFINITION. How a message moves from router to router: x before y, the twin bond, detours around dead rectangles and
waypoints (spec 07 R135–R141), and ROUTER_FORWARD. -/

namespace Sys2Proof.Machine
open Sys2Proof

/-- One hop: the header is at the next router `hopClk` later. From its last router it goes out by the port. -/
def State.hop (s : State) (p : Packet) : Packet :=
  if p.waits then { p with waits := false, ripe := s.ripens p p.pos (Nat.max p.ready s.clk) }
  else
    let (p, d) := s.aimAt p
    let q := stepFrom p.pos d
    let ready := Nat.max p.ready s.clk + s.hopClk p.pos q
    Packet.settled { p with
      pos := q, face := faceOf d, hops := Nat.min 255 (p.hops + 1), ready := ready, ripe := s.ripens p q ready
      slow := p.slow || s.hopClk p.pos q == 4, spilt := false, seen := p.back.isSome
      dta := p.dta && !(d = dtdCode p.dtd && coordOn q d = p.dte) }

/-- The k-th packet replaced. -/
def State.setPacket (s : State) (k : Nat) (p : Packet) : State := { s with net := setNth k p s.net }

/-- Packets that a router only passes on: interests and offers, once it has looked at them (R155, R160), and every other. -/
def Packet.plain (p : Packet) : Bool :=
  match p.body with
  | .interest i => i.type == .sealI || p.seen
  | .train t => t.back || p.seen
  | _ => true

/-- At a waypoint the router counts a step and aims at the next, or at FINAL (R141). -/
def Packet.waypoint (p : Packet) : Packet :=
  Packet.settled { p with step := p.step + 1, dest := (p.wps[p.step + 1]?).getD p.final }

/-- The router that a static-route message stands at hosts its waypoint by the role map (R95, R141). -/
def State.atWaypoint (s : State) (p : Packet) : Bool :=
  p.onWay && p.pos == p.dest && (match p.wpTargets[p.step]? with
    | some (k, i) => (s.launch p.lid).hostOf k i == some p.pos
    | none => true)

/-- A message that has reached its peer port leaves the module; at a port that is down it is lost (R35). -/
def State.toPeer (s : State) (k n : Nat) (p : Packet) : State :=
  let t := s.dropPacket k
  if s.peerUp n then { t with peerOut := t.peerOut ++ [(n, p)] }
  else t.faultAsync p.lid clsPeer (match (s.core p.src).tile? with | some (_, l) => l | none => 0) p.src (BitVec.ofNat 64 n)

/-- ROUTER_FORWARD: a packet whose header has arrived moves one hop, or out of its last router by the port there, when its buffer, the link
and the room beyond let it (R132), goes into the overflow buffer of a routing tile where they do not (R79), takes its next waypoint, or has
left by its peer port. A packet that reaches DEST while its detour lasts is there (DESIGN CHOICE, assumption log 98). -/
def execRouterForward (k : Nat) (s : State) : Host.Outcome State Fault Refusal :=
  match s.net[k]? with
  | none => happens s
  | some p =>
    if s.clk < p.ready || !p.plain then happens s
    else if p.pos ≠ p.dest || p.waits then
      if s.mayHop p then happens ((s.passLink p).setPacket k (s.hop p))
      else if s.overflows p then happens (s.setPacket k { p with spilt := true })
      else happens s
    else if p.onWay then (if s.atWaypoint p then happens (s.setPacket k p.waypoint) else happens s)
    else
      match p.port, p.body, s.landed k with
      | .peer n, .message, some _ => happens (s.toPeer k n p)
      | _, _, _ => happens s

end Sys2Proof.Machine
end

