-- ==== Sys2Proof/Machine/Named.lean ====
section
/-! DEFINITION. Named tiles (spec 08, spec 19 R421–R423): name routing, pending interests, the rendezvous, tile stores, seals and
caches, with want, offer and seal and the events of named traffic. -/

namespace Sys2Proof.Machine
open Sys2Proof

/-! ## Names and name routing (R145–R150) -/

/-- TENSOR. -/
def nameTensor (n : W64) : Nat := n.toNat / 2 ^ 40
/-- ITER. -/
def nameIter (n : W64) : BitVec 16 := n.extractLsb' 0 16

/-- Iteration i precedes or equals s (R146). -/
def iterLe (i s : BitVec 16) : Bool := (s - i).toNat < 0x8000

/-- A tensor matches a name-routing entry. -/
def entryMatches (t : Nat) (e : W128) : Bool :=
  hdrField e 78 2 != 0 && (t &&& hdrField e 80 24) == (hdrField e 104 24 &&& hdrField e 80 24)

/-- The default rendezvous of entry 15 (R150). -/
def Launch.defaultTarget (l : Launch) (t : Nat) : Kind × Nat :=
  let first := if l.record.dpool then 0 < l.s0 else 0 < l.j0
  let second := if l.record.dpool then 0 < l.j0 else 0 < l.s0
  let pick (pool : Bool) : Kind × Nat := if pool then (.pool, t % l.s0) else (.routing, t % l.j0)
  if first then pick l.record.dpool else if second then pick (!l.record.dpool) else (.compute, t % Nat.max 1 l.c)

/-- The rendezvous of a tensor: the first entry that matches (R148). -/
def Launch.rendezvous (l : Launch) (t : Nat) : Kind × Nat :=
  match (span 0 15).find? (fun e => entryMatches t (getAt 0 e l.names)) with
  | some e =>
    let v := getAt 0 e l.names
    (if hdrField v 78 2 = 1 then .pool else .routing, hdrField v 0 20)
  | none => l.defaultTarget t

/-! ## Stores (R151, R161, R164) -/

/-- The tile-store blocks of a pool slot: the largest NST of the entries that name it. -/
def Launch.nst (l : Launch) (k : Nat) : Nat :=
  (span 0 15).foldl (fun n e =>
    let v := getAt 0 e l.names
    if hdrField v 78 2 = 1 && hdrField v 0 20 = k then Nat.max n (Nat.min 23 (hdrField v 73 5)) else n) 0

/-- The 4 KiB blocks of a host's SRAM that may hold tiles. -/
def State.storeBlocks (s : State) (place : Nat) : List Nat :=
  match (s.core place).role with
  | .host _ .routing _ => span 8 16
  | .host lid .pool k => let n := (s.launch lid).nst k; span (24 - n) n
  | _ => []

/-- A directory entry holds its tile at a clk. -/
def DirEntry.holds (d : DirEntry) (clk : Nat) : Bool := d.held && clk < d.expiry

/-- The directory entry of a name. -/
def Core.dirOf (c : Core) (lid : Nat) (n : W64) : Option DirEntry := c.dir.find? (fun d => d.lid == lid && d.name == n)

/-- The cached copy of a name. A copy of an offer serves once the offer has been accepted (R147, assumption log 66). -/
def Core.cachedOf (c : Core) (lid : Nat) (n : W64) (clk : Nat) : Option Cached :=
  c.cache.find? (fun d => d.lid == lid && d.name == n && clk < d.expiry && d.offer.isNone)

/-- The cached tiles whose expiry has come are gone (R164). -/
def Core.freshCache (c : Core) (clk : Nat) : Core := { c with cache := c.cache.filter (fun d => clk < d.expiry) }

/-- The copies of an offer after its fate: they serve, or are gone (R147). -/
def Core.fateOf (c : Core) (uid : Nat) (accepted : Bool) : Core :=
  { c with cache := if accepted then c.cache.map (fun d => if d.offer == some uid then { d with offer := none } else d)
                    else c.cache.filter (fun d => d.offer != some uid) }

/-- A train that carries a copy of an offer, after the offer's fate: it may be cached like any other, or never (R147). -/
def Packet.fateOf (p : Packet) (uid : Nat) (accepted : Bool) : Packet :=
  match p.body with
  | .train t => if t.offer == some uid then { p with body := .train { t with offer := none, barred := !accepted } } else p
  | _ => p

/-- The fate of an offer made known to every copy of it, cached or on its way. -/
def State.fateOf (s : State) (uid : Nat) (accepted : Bool) : State :=
  { s with cores := s.cores.map (fun e => (e.1, e.2.fateOf uid accepted)), net := s.net.map (fun p => p.fateOf uid accepted) }

/-- A block neither a held tile nor a live cached tile takes. -/
def State.freeBlock (s : State) (place : Nat) : Option Nat :=
  let c := s.core place
  (s.storeBlocks place).find? (fun b => !c.dir.any (fun d => d.holds s.clk && d.block == b) && !c.cache.any (fun d => s.clk < d.expiry && d.block == b))

/-- The least recently used cached tile. -/
def Core.oldestCached (c : Core) : Option Cached :=
  c.cache.foldl (fun (b : Option Cached) d => match b with | none => some d | some e => if d.used < e.used then some d else some e) none

/-- The bytes of a block. -/
def State.blockBytes (s : State) (place block n : Nat) : List Byte := Memory.readN s.mem (sramPa place (block * 0x1000)) n

/-- When a directory entry became a tombstone: at its expiry, or with a delivery (R161). -/
def DirEntry.dead (d : DirEntry) : Nat := if d.held then d.expiry else d.age

/-- A directory entry set; when all 64 are taken the oldest tombstone goes (R161). -/
def Core.putDir (c : Core) (clk : Nat) (d : DirEntry) : Core :=
  let rest := c.dir.filter (fun e => !(e.lid == d.lid && e.name == d.name))
  let rest := if rest.length < 64 then rest
    else
      match rest.foldl (fun (b : Option DirEntry) e => if e.holds clk then b
        else match b with | none => some e | some f => if e.dead < f.dead then some e else some f) none with
      | some e => rest.erase e
      | none => rest
  { c with dir := rest ++ [d] }

/-- The seal record of a tensor (R162). -/
def Core.sealOf (c : Core) (lid tensor : Nat) : Option SealRec := c.seals.find? (fun r => r.lid == lid && r.tensor.toNat == tensor)

/-- The name's iteration is sealed at a host. -/
def Core.isSealed (c : Core) (lid : Nat) (n : W64) : Bool :=
  match c.sealOf lid (nameTensor n) with
  | some r => iterLe (nameIter n) r.si
  | none => false

/-! ## Trains -/

/-- The input of a router at which what it sends itself stands until the way out takes it, one for each way out. -/
def ownFace (way : Nat) : Nat := 16 + way

/-- A train out of a router's face (R159): to its core, or toward the router one hop away. -/
def State.outFace (s : State) (place : Nat) (p : Packet) (t : Train) (face : Nat) : State :=
  let n := if face = 5 then place else stepFrom place face
  s.send { p with vn := .named, kind := 5, src := place, target := none, port := .core, pos := place, dest := n, final := n
                  face := ownFace face, ready := s.clk, dta := false, vc1 := false, seen := false
                  body := .train { t with back := true, byp := false, atCore := face == 5 } }

/-- A train sent by address to a return router (R158, R159). -/
def State.outRet (s : State) (place : Nat) (p : Packet) (t : Train) (ret : Nat) : State :=
  s.send { p with vn := .named, kind := 5, src := place, target := none, port := .core, pos := place, dest := ret, final := ret
                  face := ownFace 6, ready := s.clk, dta := false, vc1 := false, seen := false
                  body := .train { t with back := true, byp := true, ret := ret, atCore := false } }

/-- Copies of a train out of an entry's faces and to its return routers. -/
def State.serveEntry (s : State) (place : Nat) (p : Packet) (t : Train) (e : Pit) : State :=
  e.rets.foldl (fun s r => s.outRet place p t r) (e.faces.foldl (fun s f => s.outFace place p t f) s)

/-- The live pending-interest entry of a name at a router. -/
def Core.livePit (c : Core) (lid : Nat) (n : W64) (clk : Nat) : Option Pit :=
  c.pit.find? (fun e => e.lid == lid && e.name == n && clk < e.expiry)

/-- The entry of a name freed. -/
def Core.dropPit (c : Core) (lid : Nat) (n : W64) : Core := { c with pit := c.pit.filter (fun e => !(e.lid == lid && e.name == n)) }

/-- The entry of a name set, dead entries dropped. -/
def Core.putPit (c : Core) (clk : Nat) (e : Pit) : Core :=
  { c with pit := (c.pit.filter (fun f => !(f.lid == e.lid && f.name == e.name) && clk < f.expiry)) ++ [e] }

/-- Entries in use at a router. -/
def Core.pitCount (c : Core) (clk : Nat) : Nat := (c.pit.filter (fun e => clk < e.expiry)).length

/-- An answer to an interest at a router: out of its arrival face, or by address where it is a bypass. -/
def State.answerInterest (s : State) (place : Nat) (p : Packet) (i : Interest) (t : Train) : State :=
  if i.byp then s.outRet place p t i.ret else s.outFace place p t p.face

/-- A train with no data. -/
def bareTrain (n : W64) (c : DCode) : Train := { name := n, code := c, back := true }

/-! ## Interests (R155, R158) -/

/-- A routing host's cached answer to a WANT (R164). -/
def State.cacheHit (s : State) (place lid : Nat) (n : W64) : Option Cached :=
  match (s.core place).role with
  | .host l .routing _ => if l = lid then (s.core place).cachedOf lid n s.clk else none
  | _ => none

/-- The expiry that an interest carries (R154): its AGE saturates (Table 7-1). -/
def Packet.expiry (p : Packet) (left clk : Nat) : Nat := clk + left - Nat.min 0xFFFF (clk - p.born)

/-- INTEREST_AT_ROUTER: a router on the way merges an interest, records it, or marks it as a bypass (R155). ROUTER_FORWARD then sends on
what is left. -/
def execInterestAtRouter (k : Nat) (s : State) : Host.Outcome State Fault Refusal :=
  match s.net[k]? with
  | none => happens s
  | some p =>
    match p.body with
    | .interest i =>
      if s.clk < p.ready || p.pos = p.dest || i.type == .sealI || p.seen then happens s
      else
        let e := p.expiry i.left s.clk
        let place := p.pos
        let c := s.core place
        let gone := s.dropPacket k
        let onward (s : State) (i : Interest) : State := s.setPacket k { p with body := .interest i, seen := true }
        if e ≤ s.clk then happens gone
        else if i.byp then happens (onward s i)
        else
          match i.type, s.cacheHit place p.lid i.name with
          | .want, some d =>
            let t : Train := { name := i.name, code := .data, back := true, sleft := d.expiry - s.clk, data := s.blockBytes place d.block d.len }
            let gone := gone.modCore place (fun c => { c with cache := c.cache.map (fun x => if x == d then { x with used := s.clk } else x) })
            happens (gone.outFace place p t p.face)
          | ty, _ =>
            match c.livePit p.lid i.name s.clk with
            | some x =>
              let faces := if ty == .want && !x.faces.contains p.face then x.faces ++ [p.face] else x.faces
              let t := s.modCore place (fun c => c.putPit s.clk { x with faces := faces, expiry := Nat.max x.expiry e })
              if x.expiry < e then happens (onward t { i with type := .renew, lastRec := place })
              else happens (t.dropPacket k)
            | none =>
              if ty == .renew then happens gone
              else if c.pitCount s.clk < 32 then
                let t := s.modCore place (fun c => c.putPit s.clk { name := i.name, lid := p.lid, faces := [p.face], expiry := e })
                happens (onward t { i with lastRec := place })
              else happens (onward s { i with byp := true, ret := i.lastRec })
    | _ => happens s

/-- No message that its source sent before it to the same place, in the same way, is still on its way (R137). -/
def State.pairFirst (s : State) (p : Packet) : Bool := !s.net.any (fun q => q.uid < p.uid && q.samePair p)

/-- Named traffic for a rendezvous that has arrived: at its host, which holds it only while a storage role drains or moves (R93, R165,
R167). -/
def State.atRendezvous (s : State) (p : Packet) : Bool := p.back.isNone && p.pos == p.dest && p.ready ≤ s.clk && s.pairFirst p && s.atHost p

/-- An interest other than a seal, an offer, or a seal, by its turn in one clk (R166). -/
def Packet.turnOf (p : Packet) : Nat :=
  match p.body with
  | .interest i => if i.type == .sealI then 3 else 1
  | .train t => if !t.back && t.source.isNone then 2 else 0
  | _ => 0

/-- No named traffic of an earlier turn waits at the same rendezvous. -/
def State.turnFirst (s : State) (p : Packet) : Bool :=
  !s.net.any (fun q => q.dest == p.dest && 0 < q.turnOf && q.turnOf < p.turnOf && s.atRendezvous q)

/-- An interest for a name has reached a router and has not been taken: data that meets it there comes after it (R166). -/
def State.interestDue (s : State) (place lid : Nat) (n : W64) : Bool :=
  s.net.any (fun q => q.pos == place && q.lid == lid && q.ready ≤ s.clk && (match q.body with
    | .interest i => i.name == n && i.type != .sealI && (if q.pos = q.dest then s.atRendezvous q else !q.seen)
    | _ => false))

/-- The order of the ports: local, twin, north, south, east, west (Table 8-8). -/
def portRank (face : Nat) : Nat := if face = 5 then 0 else if face = 4 then 1 else face + 2

/-- No other offer of the name has reached the rendezvous earlier, or in the same clk on an earlier port (Table 8-8). -/
def State.offerFirst (s : State) (p : Packet) (t : Train) : Bool :=
  !s.net.any (fun q => q.dest == p.dest && q.lid == p.lid && s.atRendezvous q
    && (match q.body with | .train u => !u.back && u.source.isNone && u.name == t.name | _ => false)
    && (q.ready < p.ready || q.ready == p.ready && portRank q.face < portRank p.face))

/-- INTEREST_AT_RENDEZVOUS (Table 8-5). -/
def execInterestAtRendezvous (k : Nat) (s : State) : Host.Outcome State Fault Refusal :=
  match s.net[k]? with
  | none => happens s
  | some p =>
    match p.body with
    | .interest i =>
      if !s.atRendezvous p || i.type == .sealI then happens s
      else
        let place := p.dest
        let c := s.core place
        let e := p.expiry i.left s.clk
        let t := s.dropPacket k
        let x := c.livePit p.lid i.name s.clk
        if e ≤ s.clk then happens t
        else if i.type == .renew then
          match x with
          | some x => happens (t.modCore place (fun c => c.putPit s.clk { x with expiry := Nat.max x.expiry e }))
          | none => happens t
        else
          match c.dirOf p.lid i.name with
          | some d =>
            if d.holds s.clk then
              happens (t.answerInterest place p i { name := i.name, code := .data, back := true, sleft := d.expiry - s.clk
                                                    data := s.blockBytes place d.block d.len })
            else happens (t.answerInterest place p i (bareTrain i.name .expired))
          | none =>
            if c.isSealed p.lid i.name then happens (t.answerInterest place p i (bareTrain i.name .never))
            else
              match x with
              | some x =>
                let y := { x with expiry := Nat.max x.expiry e }
                if i.byp then
                  if 4 ≤ x.rets.length then happens (t.answerInterest place p i (bareTrain i.name .retry))
                  else happens (t.modCore place (fun c => c.putPit s.clk { y with rets := x.rets ++ [i.ret] }))
                else happens (t.modCore place (fun c => c.putPit s.clk { y with faces := if x.faces.contains p.face then x.faces else x.faces ++ [p.face] }))
              | none =>
                if c.pitCount s.clk < 32 then
                  happens (t.modCore place (fun c => c.putPit s.clk { name := i.name, lid := p.lid, expiry := e
                                                                      faces := if i.byp then [] else [p.face], rets := if i.byp then [i.ret] else [] }))
                else happens (t.answerInterest place p i (bareTrain i.name .retry))
    | _ => happens s

/-! ## Offers (R160) -/

/-- A passing DATA train may be copied into a free block of a routing host (R164): the choice is a free value. A copy of an offer waits
for the offer's fate (R147). DESIGN CHOICE (assumption log 101): the copy's SLEFT counts from the clk of copying. -/
def State.mayCache (s : State) (place lid : Nat) (t : Train) : State :=
  match (s.core place).role, t.code, s.freeBlock place with
  | .host l .routing _, .data, some b =>
    if l ≠ lid || t.sleft = 0 || t.barred || (s.core place).cache.any (fun d => d.lid == lid && d.name == t.name && s.clk < d.expiry) then s
    else
      let (d, s) := s.draw
      if d.getLsbD 0 then
        (s.storeHome (sramPa place (b * 0x1000)) t.data [] none).modCore place (fun c =>
          let c := c.freshCache s.clk
          { c with cache := c.cache ++ [{ lid := lid, name := t.name, expiry := s.clk + t.sleft, block := b, len := t.data.length
                                          used := s.clk, offer := t.offer }] })
      else s
  | _, _, _ => s

/-- An earlier store of an offer's core to its payload has not been acknowledged, or has not landed (R234, R422, R426): a context's, or one
that the core's L1 wrote back. Of a store issued in the clk of the offer or earlier, as of every context's, see assumption log 91. -/
def Core.payloadHeld (c : Core) (born bound : Nat) (ts : List (Piece × Target)) : Bool :=
  let hit (pa n : Nat) : Bool := ts.any (fun (q, g) => overlaps g.pa q.len pa n)
  c.outs.any (fun o => o.ctx != ctxHart && (o.ctx == ctxAny || o.id < bound) && o.stores && hit o.pa o.len)
    || c.shadows.any (fun h => h.ready ≤ born + 6 && (match h.store with | some (pa, bs, _) => hit pa bs.length | none => false))

/-- The core's L1 holds a dirty sector that pieces touch. -/
def Core.dirtyUnder (c : Core) (ts : List (Piece × Target)) : Bool :=
  ts.any (fun (_, g) => match c.line? (g.pa / 128) with
    | some l => l.dirty.extractLsb' (128 * (g.pa / 64 % 2)) 128 != 0
    | none => false)

/-- The dirty sectors that pieces touch leave a core's L1. -/
def State.flushPieces (s : State) (core : Nat) (ts : List (Piece × Target)) : State :=
  ts.foldl (fun s q => if (s.core core).dirtyUnder [q] then s.flushSector core q.2.pa else s) s

/-- The host to which a core sends named traffic for a target: as the core sees it, and by the map of the moment where a stale entry names
none (R152, assumption log 90). -/
def State.namedHost (s : State) (core lid : Nat) (g : Kind × Nat) : Nat :=
  match s.hostSeen core lid g.1 g.2 with
  | some q => q
  | none => ((s.launch lid).hostOf g.1 g.2).getD core

/-- An offer's train injected: the table and the role map are looked up now (R148). -/
def State.injectTrain (s : State) (k : Nat) (p : Packet) (t : Train) : State :=
  let g := (s.launch p.lid).rendezvous (nameTensor t.name)
  let dest := s.namedHost p.src p.lid g
  (s.dropPacket k).send { p with inner := false, dest := dest, final := dest, target := some g, born := s.clk
                                 ready := s.clk + s.delay p.src 4, body := .train { t with source := none, join := none } }

/-- An offer whose payload cannot be read: its register is poisoned and nothing is sent (R422). -/
def State.failOffer (s : State) (k : Nat) (p : Packet) (t : Train) : State :=
  match t.ticket with
  | some x => (s.dropPacket k).poison p.src x pzEngine
  | none => s.dropPacket k

/-- The reads of an offer's payload start, once the dirty sectors it covers have left the L1 and earlier stores to it are acknowledged
(R422). -/
def State.readOffer (s : State) (k : Nat) (p : Packet) (t : Train) (va n bound : Nat) : State :=
  let core := p.src
  match s.hartWants core p.lid (walkOffer p.uid) false (sectorPieces va 0 n 66) with
  | (s, .ok ts) =>
    if (s.core core).dirtyUnder ts then s.flushPieces core ts
    else if (s.core core).payloadHeld p.born bound ts then s
    else
      let (j, s) := s.startRead core p.lid false ts
      s.setPacket k { p with body := .train { t with join := some j } }
  | (s, .engine) => s.failOffer k p t
  | (s, .fault c d) => (s.dropPacket k).hartFault core c d
  | (s, .wait _) => s

/-- An offer in its core: its payload is read, and once the whole of it has come the train is injected (R422), when its rendezvous is not
held for markers (R95). -/
def State.injectOffer (s : State) (k : Nat) (p : Packet) (t : Train) (va n bound : Nat) : State :=
  match t.join.bind (s.core p.src).join? with
  | none => s.readOffer k p t va n bound
  | some j =>
    if 0 < j.left then s
    else if j.failed then (s.modCore p.src (fun c => c.dropJoin j.id)).failOffer k p t
    else if (s.core p.src).heldFor (some ((s.launch p.lid).rendezvous (nameTensor t.name))) then s
    else (s.modCore p.src (fun c => c.dropJoin j.id)).injectTrain k p { t with data := (span 0 n).map (bufByte j.buf) }

/-- OFFER_TRAIN_AT_ROUTER: a live entry gets its copies and is freed; ROUTER_FORWARD then sends the train on (R160). -/
def execOfferTrainAtRouter (k : Nat) (s : State) : Host.Outcome State Fault Refusal :=
  match s.net[k]? with
  | none => happens s
  | some p =>
    match p.body with
    | .train t =>
      if t.back || s.clk < p.ready then happens s
      else
        match t.source with
        | some (va, n, bound) => happens (s.injectOffer k p t va n bound)
        | none =>
          if p.pos = p.dest || p.seen || s.interestDue p.pos p.lid t.name then happens s
          else
            let place := p.pos
            let t := { t with offer := some p.uid }
            let u := (s.setPacket k { p with seen := true }).mayCache place p.lid t
            match (s.core place).livePit p.lid t.name s.clk with
            | some e => happens ((u.serveEntry place p t e).modCore place (fun c => c.dropPit p.lid t.name))
            | none => happens u
    | _ => happens s

/-- The answer to an offerer or sealer, sent by address. -/
def State.answerProducer (s : State) (place : Nat) (p : Packet) (core ctx : Nat) (ticket : Option (BitVec 16)) (n : W64) (status : Nat) : State :=
  s.send { vn := .named, kind := 5, lid := p.lid, src := place, dest := core, final := core, pos := place, face := ownFace 6
           born := s.clk, ready := s.clk
           body := .train { name := n, code := .answer status, back := true, atCore := true, core := core, ctx := ctx, ticket := ticket } }

/-- A block for a tile to be stored: free, or of the least recently used cached tile (R164). -/
def State.blockFor (s : State) (place : Nat) : Option (Nat × State) :=
  let s := s.modCore place (fun c => c.freshCache s.clk)
  match s.freeBlock place with
  | some b => some (b, s)
  | none =>
    match (s.core place).oldestCached with
    | some d => some (d.block, s.modCore place (fun c => { c with cache := c.cache.erase d }))
    | none => none

/-- OFFER_AT_RENDEZVOUS (Table 8-6). Statuses: 0 STORED, 1 DELIVERED, 2 REFUSED, 3 SEALED, and 4 for DUPOFFER, to
which Table 8-7 gives no number (DESIGN CHOICE, assumption log 102). -/
def execOfferAtRendezvous (k : Nat) (s : State) : Host.Outcome State Fault Refusal :=
  match s.net[k]? with
  | none => happens s
  | some p =>
    match p.body with
    | .train t =>
      if t.back || t.source.isSome || !s.atRendezvous p || !s.turnFirst p || !s.offerFirst p t then happens s
      else
        let place := p.dest
        let c := s.core place
        let u := s.dropPacket k
        let ans (u : State) (st : Nat) : State := (u.fateOf p.uid (st < 2)).answerProducer place p t.core t.ctx t.ticket t.name st
        if (c.dirOf p.lid t.name).isSome then happens (ans u 4)
        else if c.isSealed p.lid t.name then happens (ans u 3)
        else
          let x := c.livePit p.lid t.name s.clk
          let u := match x with
            | some e => (u.serveEntry place p t e).modCore place (fun c => c.dropPit p.lid t.name)
            | none => u
          match (if 0 < t.sleft then u.blockFor place else none) with
          | some (b, u) =>
            let u := u.storeHome (sramPa place (b * 0x1000)) t.data [] none
            let d : DirEntry := { lid := p.lid, name := t.name, held := true, expiry := s.clk + t.sleft, block := b, len := t.data.length }
            happens (ans (u.modCore place (fun c => c.putDir s.clk d)) 0)
          | none =>
            if x.isSome then
              happens (ans (u.modCore place (fun c => c.putDir s.clk { lid := p.lid, name := t.name, held := false, age := s.clk })) 1)
            else happens (ans (u.modTally (hallOf place) p.lid (fun y => { y with tr := y.tr + 1 })) 2)
    | _ => happens s

/-! ## Seals (R162) -/

/-- SEAL_AT_RENDEZVOUS. -/
def execSealAtRendezvous (k : Nat) (s : State) : Host.Outcome State Fault Refusal :=
  match s.net[k]? with
  | none => happens s
  | some p =>
    match p.body with
    | .interest i =>
      if i.type != .sealI || !s.atRendezvous p || !s.turnFirst p then happens s
      else
        let place := p.dest
        let c := s.core place
        let tensor := nameTensor i.name
        let it := nameIter i.name
        let r : SealRec := { lid := p.lid, tensor := BitVec.ofNat 24 tensor, si := it }
        let (seals, status) := match c.sealOf p.lid tensor with
          | none => ((if c.seals.length < 16 then c.seals else c.seals.tail) ++ [r], 0)
          | some o => if iterLe o.si it && o.si != it then (c.seals.erase o ++ [r], 0) else (c.seals, 1)
        let c' := { c with seals := seals }
        let u := (s.dropPacket k).setCore place c'
        let hit := c.pit.filter (fun e => e.lid == p.lid && nameTensor e.name == tensor && s.clk < e.expiry
          && !(match c.dirOf p.lid e.name with | some d => d.holds s.clk | none => false) && c'.isSealed p.lid e.name)
        let u := hit.foldl (fun u e =>
          (u.serveEntry place p (bareTrain e.name .never) e).modCore place (fun c => c.dropPit p.lid e.name)) u
        happens (u.answerProducer place p i.core i.ctx i.ticket i.name status)
    | _ => happens s

/-! ## Data on its way back (R159) -/

/-- DATA_TRAIN_AT_ROUTER. DESIGN CHOICE (assumption log 100): an answer that bypasses the reverse path may be cached at its last router
alone (R164). -/
def execDataTrainAtRouter (k : Nat) (s : State) : Host.Outcome State Fault Refusal :=
  match s.net[k]? with
  | none => happens s
  | some p =>
    match p.body with
    | .train t =>
      if !t.back || t.atCore || s.clk < p.ready || p.pos ≠ p.dest || s.interestDue p.pos p.lid t.name then happens s
      else
        let place := p.pos
        let u := (s.dropPacket k).mayCache place p.lid t
        match (s.core place).livePit p.lid t.name s.clk with
        | some e => happens ((u.serveEntry place p t e).modCore place (fun c => c.dropPit p.lid t.name))
        | none => happens (if t.byp && t.ret = place then u.outFace place p t 5 else u)
    | _ => happens s

/-- A waiter leaves the want list with its register poisoned. -/
def State.endWant (s : State) (core : Nat) (w : Want) (code : BitVec 8) : State :=
  (s.modCore core (fun c => { c with wants := c.wants.erase w })).poison core w.ticket code

/-- DATA for a waiter: the bytes that fit are written, then its register takes the Fill, or BOUNDS (R159). DESIGN CHOICE (assumption log 88):
where the buffer lies in a way that the L1 has taken since the want, nothing is written and the register takes BOUNDS. -/
def State.fillWant (s : State) (core : Nat) (w : Want) (data : List Byte) : State :=
  let n := capRest w.cap
  let off := capCursor w.cap % 2 ^ 24
  let s := s.modCore core (fun c => { c with wants := c.wants.erase w })
  let bs := data.take n
  if !bs.isEmpty && !((s.core core).sramOk off && (s.core core).sramOk (off + bs.length - 1)) then s.poison core w.ticket pzBounds
  else
    let s := s.storeHome (sramPa core off) bs [] none
    if n < data.length then s.poison core w.ticket pzBounds
    else s.fill core w.ticket ⟨w.name ++ BitVec.ofNat 64 data.length, false⟩

/-- The latest expiry of a name's waiters: that of the interest sent. -/
def sentExpiry (ws : List Want) (n : W64) : Nat := (ws.filter (fun w => w.name == n)).foldl (fun m w => Nat.max m w.expiry) 0

/-- NAMED_ANSWER_AT_CONSUMER. -/
def execNamedAnswerAtConsumer (k : Nat) (s : State) : Host.Outcome State Fault Refusal :=
  match s.landed k with
  | none => happens s
  | some p =>
    match p.body with
    | .train t =>
      if !t.atCore then happens s
      else
        let core := p.dest
        let u := s.dropPacket k
        let ws := (s.core core).wants.filter (fun w => w.name == t.name)
        let late := ws.filter (fun w => w.expiry ≤ s.clk)
        let due := ws.filter (fun w => s.clk < w.expiry)
        let u := late.foldl (fun u w => u.endWant core w pzExpired) u
        match t.code with
        | .data => happens (due.foldl (fun u w => u.fillWant core w t.data) u)
        | .never => happens (due.foldl (fun u w => u.endWant core w pzNever) u)
        | .expired => happens (due.foldl (fun u w => u.endWant core w pzExpired) u)
        | .retry =>
          if sentExpiry due t.name < s.clk + 1024 then happens (due.foldl (fun u w => u.endWant core w pzExpired) u)
          else happens (u.modCore core (fun c => { c with wants := c.wants.map (fun w =>
            if w.name == t.name then { w with retryAt := some (s.clk + 1024) } else w) }))
        | .answer _ => happens s
    | _ => happens s

/-- NAMED_ANSWER_TO_PRODUCER (Table 8-7, R162). -/
def execNamedAnswerToProducer (k : Nat) (s : State) : Host.Outcome State Fault Refusal :=
  match s.landed k with
  | none => happens s
  | some p =>
    match p.body with
    | .train t =>
      match t.code, t.ticket with
      | .answer 4, some x => happens ((s.dropPacket k).poison p.dest x pzDupOffer)
      | .answer st, some x => happens ((s.dropPacket k).fill p.dest x ⟨t.name ++ BitVec.ofNat 64 st, false⟩)
      | .answer _, none => happens (s.dropPacket k)
      | _, _ => happens s
    | _ => happens s

/-! ## Instructions (R421–R423) -/

/-- A named message injected by the current core toward a tensor's rendezvous. -/
def State.postNamed (s : State) (vn : VN) (kind tensor : Nat) (body : Body) (wait : Nat) : State :=
  let t := (s.launch s.lid).rendezvous tensor
  let dest := s.namedHost s.cur.core s.lid t
  s.send { vn := vn, kind := kind, lid := s.lid, src := s.cur.core, dest := dest, final := dest, target := some t, body := body
           pos := s.cur.core, born := s.clk, ready := s.clk + wait }

/-- An offer whose payload is still to be read stands in its core (R422). -/
def State.postOffer (s : State) (body : Body) : State :=
  s.send { vn := .named, kind := 5, lid := s.lid, src := s.cur.core, dest := s.cur.core, final := s.cur.core, body := body
           pos := s.cur.core, inner := true, born := s.clk, ready := s.clk + 1 }

/-- The core holds its sends to a tensor's rendezvous until markers return (R95). -/
def State.gateNamed (s : State) (tensor : Nat) : Res Unit := s.gateTarget (some ((s.launch s.lid).rendezvous tensor))

/-- An interest of the current core. -/
def State.interest (s : State) (ty : IType) (n : W64) (left : Nat) (ticket : Option (BitVec 16)) : State :=
  s.postNamed .namei 4 (nameTensor n)
    (.interest { name := n, type := ty, left := left, core := s.cur.core, ctx := s.cur.ctx, ticket := ticket, lastRec := s.cur.core })
    (s.delay s.cur.core 4)

/-- An interest of the current core, which no launch in quiescence injects (R168; DEDUCED, assumption log 89). -/
def State.interestNow (s : State) (ty : IType) (n : W64) (left : Nat) (ticket : Option (BitVec 16)) : State :=
  if (s.launch s.lid).phase == .quiescing then s else s.interest ty n left ticket

/-- The waiters of a core whose expiry has not come (R154, R156). -/
def Core.liveWants (c : Core) (clk : Nat) : List Want := c.wants.filter (fun w => clk < w.expiry)

/-- The lifetime of a name operand in units. -/
def lifeUnits (n : W128) : Nat := hdrField n 64 16

/-- want. -/
def execWant (a : Args) (s : State) : Host.Outcome State Fault Refusal :=
  conclude s do
    let (cb, n, _) ← s.operands2 .b a.s1 a.s2 [.dst a.d]
    needCap cb false true false
    needCursor cb
    let _ ← s.localRange (capCursor cb.v) (capRest cb.v)
    s.gateSignal
    parkIf (16 ≤ (s.cc.liveWants s.clk).length) s .wantList
    parkIf s.cc.ticketsFull s .ticket
    let name := low64 n.v
    s.gateNamed (nameTensor name)
    let left := Nat.max 1 (lifeUnits n.v) * 1024
    let e := s.clk + left
    let ws := (s.cc.liveWants s.clk).filter (fun w => w.name == name)
    let (x, t) := s.takeTicket 0x4 a.d
    let t := t.modCc (fun c => { c with wants := c.wants ++ [{ name := name, ctx := s.cur.ctx, ticket := x, cap := cb.v, expiry := e }] })
    let t := if ws.isEmpty then t.interestNow .want name left none
      else if sentExpiry ws name < e then t.interestNow .renew name left none else t
    .ok (t.popSrcs [a.s1, a.s2]).advance

/-- offer: the covered dirty sectors leave the L1 at issue; the engine then waits, reads and injects. -/
def execOffer (a : Args) (s : State) : Host.Outcome State Fault Refusal :=
  conclude s do
    let (cp, n, _) ← s.operands2 .b a.s1 a.s2 [.dst a.d]
    needCap cp true false false
    needCursor cp
    let len := capRest cp.v
    trapIf (len = 0 || 4096 < len) clsCommand 7
    s.gateSignal
    parkIf s.cc.ticketsFull s .ticket
    let name := low64 n.v
    s.gateNamed (nameTensor name)
    let va := capCursor cp.v
    let ps := sectorPieces va 0 len 66
    let (x, t) := s.takeTicket 0x4 a.d
    let t := match t.hartTargets s.cur.core s.lid (walkOffer t.sent) false ps with
      | .ok ts => t.flushPieces s.cur.core ts
      | _ => t
    let t := t.postOffer (.train
      { name := name, code := .data, back := false, sleft := lifeUnits n.v * 1024, source := some (va, len, t.cc.nextId)
        core := s.cur.core, ctx := s.cur.ctx, ticket := some x })
    .ok (t.popSrcs [a.s1, a.s2]).advance

/-- seal. -/
def execSeal (a : Args) (s : State) : Host.Outcome State Fault Refusal :=
  conclude s do
    let (n, _) ← s.operand1 .b a.s1 [.dst a.d]
    s.gateSignal
    parkIf s.cc.ticketsFull s .ticket
    let name := low64 n.v &&& 0xFFFFFF000000FFFF
    s.gateNamed (nameTensor name)
    let (x, t) := s.takeTicket 0x4 a.d
    .ok ((t.interestNow .sealI name 0 (some x)).popSrcs [a.s1]).advance

/-! ## Clocks of named state (R154, R157, R159, R161, R164) -/

/-- INTEREST_RETRY: one interest for the name, with the lifetime that is left, once its rendezvous is not held for markers (R95). -/
def execInterestRetry (core k : Nat) (s : State) : Host.Outcome State Fault Refusal :=
  match (s.core core).wants[k]? with
  | none => happens s
  | some w =>
    match w.retryAt, (s.core core).tile? with
    | some t, some (lid, _) =>
      let ws := (s.core core).wants.filter (fun v => v.name == w.name)
      let g := (s.launch lid).rendezvous (nameTensor w.name)
      if s.clk < t || ws.any (fun v => v.expiry ≤ s.clk) || (s.launch lid).phase == .quiescing || (s.core core).heldFor (some g) then happens s
      else
        let dest := s.namedHost core lid g
        let u := s.modCore core (fun c => { c with wants := c.wants.map (fun v => if v.name == w.name then { v with retryAt := none } else v) })
        happens (u.send { vn := .namei, kind := 4, lid := lid, src := core, dest := dest, final := dest, target := some g, pos := core
                          born := s.clk, ready := s.clk + s.delay core 4
                          body := .interest { name := w.name, type := .want, left := sentExpiry ws w.name - s.clk, core := core, lastRec := core } })
    | _, _ => happens s

/-- WANT_EXPIRY. -/
def execWantExpiry (core k : Nat) (s : State) : Host.Outcome State Fault Refusal :=
  match (s.core core).wants[k]? with
  | none => happens s
  | some w => if s.clk < w.expiry then happens s else happens (s.endWant core w pzExpired)

/-- PIT_ENTRY_EXPIRY. -/
def execPitEntryExpiry (place k : Nat) (s : State) : Host.Outcome State Fault Refusal :=
  match (s.core place).pit[k]? with
  | none => happens s
  | some e => if s.clk < e.expiry then happens s else happens (s.modCore place (fun c => { c with pit := c.pit.erase e }))

/-- STORED_TILE_EXPIRY. -/
def execStoredTileExpiry (place k : Nat) (s : State) : Host.Outcome State Fault Refusal :=
  match (s.core place).dir[k]? with
  | none => happens s
  | some d =>
    if !d.held || s.clk < d.expiry then happens s
    else happens (s.modCore place (fun c => { c with dir := setNth k { d with held := false, age := d.expiry } c.dir }))

/-- CACHED_TILE_EXPIRY. -/
def execCachedTileExpiry (place k : Nat) (s : State) : Host.Outcome State Fault Refusal :=
  match (s.core place).cache[k]? with
  | none => happens s
  | some d => if s.clk < d.expiry then happens s else happens (s.modCore place (fun c => { c with cache := dropNth k c.cache }))

end Sys2Proof.Machine
end

