-- ==== Sys2Proof/Machine/TaskMsg.lean ====
section
/-! DEFINITION. Messages, routes and requests to the hall controllers and management processors (spec 20 R429–R439, R442), and
the user trap and idle (R440, R441). -/

namespace Sys2Proof.Machine
open Sys2Proof

/-! ## Targets (Table 20-4) -/

/-- STAGE. -/
def tgtStage (t : W64) : BitVec 8 := t.extractLsb' 44 8
/-- HANDLER. -/
def tgtHandler (t : W64) : BitVec 12 := t.extractLsb' 32 12
/-- PLID. -/
def tgtPlid (t : W64) : Nat := (t.extractLsb' 26 6).toNat
/-- DEV. -/
def tgtDev (t : W64) : Nat := (t.extractLsb' 20 6).toNat
/-- L. -/
def tgtL (t : W64) : Nat := (t.extractLsb' 0 20).toNat

/-! ## Static routes (R141, R434, R437) -/

/-- A waypoint field: kind and index. -/
def wpField (v : BitVec 66) (k : Nat) : Nat × Nat :=
  let f := v.toNat / 2 ^ (22 * k) % 2 ^ 22
  (f / 2 ^ 20, f % 2 ^ 20)

/-- The waypoints before the first field of kind 0. -/
def waypoints (v : BitVec 66) : List (Nat × Nat) := ((span 0 3).map (wpField v)).takeWhile (fun w => w.1 != 0)

/-- A route as it is stored: the fields after the first of kind 0 are zero. -/
def routeStored (v : BitVec 66) : BitVec 66 := BitVec.ofNat 66 (v.toNat % 2 ^ (22 * (waypoints v).length))

/-- A waypoint that chcfg refuses (R437). -/
def State.badWaypoint (s : State) (w : Nat × Nat) : Bool :=
  match w.1 with
  | 1 => s.curC ≤ w.2
  | 2 => (s.launch s.lid).record.nroute.toNat ≤ w.2
  | _ => true

/-- The logical target of a waypoint. -/
def wpTarget (w : Nat × Nat) : Kind × Nat := (if w.1 = 1 then .compute else .routing, w.2)

/-- The places of a route's waypoints, each with its logical target, routing indices that map to NONE dropped (R141). -/
def State.routePlaces (s : State) (v : BitVec 66) : List (Nat × Kind × Nat) :=
  ((waypoints v).map wpTarget).filterMap (fun g => (s.hostSeen s.cur.core s.lid g.1 g.2).map (fun p => (p, g)))

/-! ## send, sendc, sendr (R432) -/

/-- Sends to any of the targets are held for markers. -/
def State.gateAll (s : State) (ts : List (Kind × Nat)) : Res Unit :=
  match ts with
  | [] => .ok ()
  | t :: r => do
    s.gateTarget (some t)
    s.gateAll r

/-- What the three forms share: the target and payload are met, the checks made, the release performed, the message built by
`build` from the target, the payload and the release's signature, and injected. -/
def sendForm (a : Args) (s : State) (n : Nat) (vn : VN) (rel : Bool) (sc : Scope) (static : Bool) (more : List (Kind × Nat))
    (build : State → W64 → List TagVal → Packet) : Host.Outcome State Fault Refusal :=
  conclude s do
    let (t, es) ← s.header a.s1 a.s2 n
    let t := low64 t.v
    let dev := tgtDev t
    trapIf (dev = 0 && s.curC ≤ tgtL t) clsCommand 8
    trapIf (33 ≤ dev || (static && dev != 0)) clsCommand 10
    let done (s : State) : State := ((s.popSrcs [a.s1]).popCodes (payloadCodes a.s2 n)).advance
    if dev != 0 && !s.peerUp (dev - 1) then .ok (done (s.faultAsync s.lid clsPeer s.tileL s.cur.core (BitVec.ofNat 64 (dev - 1))))
    else do
      s.gateSignal
      s.gateAll ((if dev = 0 then [(Kind.compute, tgtL t)] else []) ++ more)
      s.gateSlot vn
      let (u, sig) ← (if rel then do
          let u ← s.release sc
          .ok (u, u.cc.published sc)
        else .ok (s, none) : Res (State × Option Sig))
      let p := build u t es
      let p := if dev = 0 then { p with target := some (.compute, tgtL t) }
        else
          let q := u.peerPlace (dev - 1)
          { p with dest := q, final := q, port := .peer (dev - 1), peerLid := tgtPlid t, peerL := tgtL t }
      .ok (done (u.inject { p with vn := vn, sig := sig }))

/-- Payload values as entries; tags are kept only where Table 20-5 allows. -/
def entriesOf (keep : Bool) (es : List TagVal) : List TagVal := es.map (fun e => { e with tag := keep && e.tag })

/-- send. -/
def execSend (hi rel : Bool) (sc : Scope) (n : BitVec 4) (cap : Bool) (a : Args) (s : State) : Host.Outcome State Fault Refusal :=
  sendForm a s n.toNat (if hi then .hi else .req) rel sc false [] (fun s t es =>
    let dest := (s.hostSeen s.cur.core s.lid .compute (tgtL t)).getD s.cur.core
    { kind := 2, dest := dest, final := dest, handler := tgtHandler t, stage := tgtStage t, hiPrio := hi
      entries := entriesOf (cap && tgtDev t == 0) es })

/-- sendc. -/
def execSendc (rel : Bool) (sc : Scope) (n : BitVec 4) (ch : BitVec 3) (a : Args) (s : State) : Host.Outcome State Fault Refusal :=
  sendForm a s n.toNat .req rel sc false [] (fun s t es =>
    let dest := (s.hostSeen s.cur.core s.lid .compute (tgtL t)).getD s.cur.core
    { kind := 3, dest := dest, final := dest, ch := ch.toNat, entries := entriesOf false es })

/-- sendr. -/
def execSendr (rel : Bool) (sc : Scope) (n : BitVec 4) (ch : BitVec 3) (rt : BitVec 4) (a : Args) (s : State) :
    Host.Outcome State Fault Refusal :=
  let route := getAt 0 rt.toNat s.cc.routes
  sendForm a s n.toNat .req rel sc true ((waypoints route).map wpTarget) (fun s t es =>
    let final := (s.hostSeen s.cur.core s.lid .compute (tgtL t)).getD s.cur.core
    let ws := s.routePlaces route
    let wps := ws.map (fun w => w.1)
    { kind := 3, dest := wps.headD final, final := final, ch := ch.toNat, stat := true, route := rt.toNat, wps := wps
      wpTargets := ws.map (fun w => w.2)
      entries := entriesOf false es })

/-! ## Routes and name routes (R437, R438) -/

/-- chcfg. -/
def execChcfg (e : BitVec 4) (a : Args) (s : State) : Host.Outcome State Fault Refusal :=
  conclude s do
    let (v, t) ← s.operand1 .b a.s1 [.dst a.d]
    let r := v.v.extractLsb' 0 66
    trapIf ((waypoints r).any s.badWaypoint) clsCommand 11
    let old : BitVec 66 := getAt 0 e.toNat s.cc.routes
    let t := t.modCc (fun c => { c with routes := putAt e.toNat (routeStored r) c.routes })
    .ok (t.writeD a.d ⟨old.setWidth 128, false⟩).advance

/-- The lowest hall that a launch's region touches (R149). -/
def State.lowestHall (s : State) (lid : Nat) : Nat := (s.launchHalls lid).headD 0

/-- chcfg with .name. -/
def execChcfgName (e : BitVec 4) (a : Args) (s : State) : Host.Outcome State Fault Refusal :=
  conclude s do
    let (v, _) ← s.operand1 .b a.s1 [.dst a.d]
    s.gateSlot .hi
    parkIf s.cc.ticketsFull s .ticket
    let (k, t) := s.takeTicket 0x6 a.d
    let t := t.postHall (s.lowestHall s.lid) (.nameReq e.toNat v.v s.cur.core s.cur.ctx s.tileL (some k))
    .ok (t.popSrcs [a.s1]).advance

/-! ## Leases, roles and services (R439, R442) -/

/-- The kind of a target's bits [21:20]; 3 is read as 0. -/
def kindOf (n : Nat) : Kind := if n = 1 then .pool else if n = 2 then .routing else .compute

/-- The hall controller that a request about a target goes to: of the target's hall, else of the issuing tile's. -/
def State.targetHall (s : State) (k : Kind) (i : Nat) : Nat :=
  match s.hostSeen s.cur.core s.lid k i with
  | some p => hallOf p
  | none => hallOf s.cur.core

/-- lease and role: a class 0x6 future that a hall controller answers. -/
def askHall (a : Args) (s : State) (body : Kind → Nat → W128 → BitVec 16 → Body) : Host.Outcome State Fault Refusal :=
  conclude s do
    let (v, _) ← s.operand1 .b a.s1 [.dst a.d]
    s.gateSlot .hi
    parkIf s.cc.ticketsFull s .ticket
    let k := kindOf (hdrField v.v 20 2)
    let i := hdrField v.v 0 20
    let (x, t) := s.takeTicket 0x6 a.d
    .ok ((t.postHall (s.targetHall k i) (body k i v.v x)).popSrcs [a.s1]).advance

/-- lease. -/
def execLease (a : Args) (s : State) : Host.Outcome State Fault Refusal :=
  askHall a s (fun k i v x => .leaseReq k i (hdrField v 32 29) s.tileL s.cur.core s.cur.ctx (some x))

/-- role. -/
def execRole (a : Args) (s : State) : Host.Outcome State Fault Refusal :=
  askHall a s (fun k i _ x => .roleReq k i s.cur.core s.cur.ctx (some x))

/-- sysc. -/
def execSysc (svc : BitVec 12) (a : Args) (s : State) : Host.Outcome State Fault Refusal :=
  conclude s do
    let (v, _) ← s.operand1 .x a.s1 [.dst a.d]
    s.gateSlot .hi
    parkIf s.cc.ticketsFull s .ticket
    let (x, t) := s.takeTicket 0x6 a.d
    let t := t.inject { vn := .hi, kind := 6, dest := s.mgmtPlace, final := s.mgmtPlace, port := .mgmt
                        body := .service svc.toNat (low64 v.v) s.cur.core s.cur.ctx (some x) }
    .ok (t.popSrcs [a.s1]).advance

/-! ## trap and idle (R440, R441) -/

/-- trap. -/
def execTrap (code : BitVec 8) (a : Args) (s : State) : Host.Outcome State Fault Refusal :=
  conclude s do
    let (v, _) ← s.operand1 .x a.s1 []
    .error (.trap clsUser code (low64 v.v))

/-- idle. -/
def execIdle (a : Args) (s : State) : Host.Outcome State Fault Refusal :=
  conclude s do
    let (t, u) ← s.operand1 .x a.s1 []
    if s.cc.idleOver s.cur.ctx then .ok u.advance else .error (.park s (.idle (s.parkLimit t.v) a.s1))

end Sys2Proof.Machine
end

