-- ==== Sys2Proof/Machine/MemEvents.lean ====
section
/-! DEFINITION. What happens to memory traffic and messages as they arrive: results that land (R175, R176), accesses at their
homes (R208, R211, R219), acknowledgements, L1 fills (R206), and messages accepted into queues and channels (R106, R143, R433,
R442). -/

namespace Sys2Proof.Machine
open Sys2Proof

/-! ## Results that land (R175, R176) -/

/-- An acquire of a context is in effect (R225). -/
def State.acquired (s : State) (core ctx id : Nat) : State :=
  s.modCore core (fun c => c.modCtx ctx (fun x => { x with acquires := x.acquires.filter (fun n => n != id) }))

/-- The first damaged address that a shadowed instruction touches. -/
def State.shadowDamage (s : State) (h : Shadow) : Option Nat :=
  ((match h.store with | some (pa, _, _) => [pa] | none => []) ++ h.reads).find? s.damaged

/-- The trap of a shadowed instruction that meets a soft error: MEMORY, with its own window unless an older one is in flight
(R264, R268). -/
def State.shadowTrap (s : State) (core : Nat) (h : Shadow) (pa : Nat) : State :=
  let c := s.core core
  let own := match c.oldest h.ctx with | some g => g.same h | none => true
  let i := s.trapInfo core h.ctx clsMemory 0 (BitVec.ofNat 64 pa)
  let i : FaultInfo := { i with pc := h.pc, older := !own, opc := if own then 0 else i.opc }
  (s.recordFault c.who.1 i).modCore core (fun c =>
    { c with shadows := (abandonWindow h.ctx (h.since + 1) c.shadows).filter (fun g => !g.same h) })

/-- A shadowed result of a context reaches its destination: a bound output stream, or a register, which its core reads at once (R351). -/
def State.landD (s : State) (d : BitVec 6) (v : TagVal) : State :=
  match s.curStream? d.toNat with
  | some _ => s.writeD d v
  | none => s.landRegAt s.cur.core s.cur.ctx d.toNat (Reg.full v)

/-- SHADOW_RESULT_LAND: the k-th result in flight of a core reaches its destination or its local SRAM (R175). -/
def execShadowResultLand (core k : Nat) (s : State) : Host.Outcome State Fault Refusal :=
  match (s.core core).shadows[k]? with
  | none => happens s
  | some h =>
    if s.clk < h.ready || h.away.isSome then happens s
    else
      match s.shadowDamage h with
      | some pa => happens (s.shadowTrap core h pa)
      | none =>
        let t := s.modCore core (fun c => ({ c with shadows := dropNth k c.shadows } : Core).markLanded h)
        let t := match h.sig with | some g => t.applySig core g | none => t
        let t := match h.acq with | some id => t.acquired core h.ctx id | none => t
        match h.store with
        | some (pa, bs, tag) =>
          happens (((t.storeHome pa bs [] tag).homeSigOr core (t.core core).who.1 h.rel).fenceSteps core)
        | none => happens ((t.asCur core h.ctx (fun t => t.landD h.d h.val)).fenceSteps core)

/-- An acquire's signature is applied at its core, and at the other core that holds a twin-window register which it fills (R186, R225). -/
def State.applyHeld (s : State) (core : Nat) (t : Option (BitVec 16)) (g : Sig) : State :=
  let others := match t with | some t => (s.holders core t).filter (fun p => p != core) | none => []
  others.foldl (fun (s : State) p => s.applySig p g) (s.applySig core g)

/-- The access of a shadowed instruction that is not local has been answered: the instruction has completed (R268, R301). -/
def Core.answered (c : Core) (id : Nat) : Core :=
  match c.shadows.find? (fun h => h.away == some id) with
  | some h => ({ c with shadows := c.shadows.filter (fun g => g.away != some id) } : Core).markLanded h
  | none => c

/-- A load has all its pieces: its accesses are done, the signature of an acquire is applied, its register fills (R225). -/
def State.finishJoin (s : State) (core : Nat) (j : Join) : State :=
  let s := s.modCore core (fun c =>
    ({ c with joins := c.joins.filter (fun i => i.id != j.id), outs := c.outs.filter (fun o => o.id != j.id) } : Core).answered j.id)
  let s := if j.sig = 0 then s else s.applyHeld core j.ticket j.sig
  let s := (s.acquired core j.ctx j.id).fenceSteps core
  match j.ticket with
  | some t => s.deliver core t (if j.failed then Reg.poison pzEngine else Reg.full (j.fmt.result j.buf j.tagBit))
  | none => s

/-- The bytes of a response in a load's buffer: at its offset, or, for a gather, at each lane part that its bytes cover. -/
def Join.place (j : Join) (r : Rsp) : List (Nat × Byte) :=
  match j.parts with
  | [] => bufPut j.buf r.off r.data
  | ps => ps.foldl (fun b (off, pa, n) =>
      if r.pa ≤ pa && pa + n ≤ r.pa + r.data.length then bufPut b off ((r.data.drop (pa - r.pa)).take n) else b)
      (if ps.any (fun p => p.1 == r.off) then j.buf else bufPut j.buf r.off r.data)

/-- A load with one more piece. -/
def Join.take (j : Join) (r : Rsp) : Join :=
  { j with left := j.left - 1, buf := j.place r, tagBit := if r.off = 0 then r.tag else j.tagBit
           failed := j.failed || r.failed, sig := match r.sig with | some g => sigUnion j.sig g | none => j.sig }

/-- A piece of a load returns to its core; an engine's bytes stay for the engine. -/
def State.joinPiece (s : State) (core : Nat) (r : Rsp) : State :=
  match (s.core core).joins.find? (fun j => j.id == r.join) with
  | none => s
  | some j =>
    let n := j.take r
    if 0 < n.left || j.fmt == .hart then s.modCore core (fun c => { c with joins := c.joins.map (fun i => if i.id == j.id then n else i) })
    else s.finishJoin core n

/-- FUTURE_FILL: a load's data, or a producer's Fill or Poison, arrives (R176). -/
def execFutureFill (k : Nat) (s : State) : Host.Outcome State Fault Refusal :=
  match s.landed k with
  | none => happens s
  | some p =>
    match p.body with
    | .response r =>
      match r.op, r.ticket with
      | .load, _ => happens ((s.dropPacket k).joinPiece p.dest r)
      | .store, some t =>
        happens ((s.dropPacket k).deliverAcq p.dest t (match r.poison with | some c => Reg.poison c | none => Reg.full r.fill) r.sig)
      | _, _ => happens s
    | _ => happens s

/-- ACCESS_ACK: a store, write-back or atomic is acknowledged; an atomic's value fills its register (R219, R225). -/
def execAccessAck (k : Nat) (s : State) : Host.Outcome State Fault Refusal :=
  match s.landed k with
  | none => happens s
  | some p =>
    match p.body with
    | .response r =>
      let t := ((s.dropPacket k).modCore p.dest (fun c =>
        ({ c with outs := c.outs.filter (fun o => o.id != r.id) } : Core).answered r.id)).fenceSteps p.dest
      match r.op, r.ticket with
      | .store, none => happens t
      | .writeBack, _ => happens t
      | .amo _ _ _ _, x =>
        let t := match r.sig with | some g => t.applyHeld p.dest x g | none => t
        let t := t.acquired p.dest r.ctx r.id
        match x with
        | some x => happens (t.deliver p.dest x (if r.failed then Reg.poison pzEngine else Reg.full r.fill))
        | none => happens t
      | _, _ => happens s
    | _ => happens s

/-! ## L1 fills (R206, R230) -/

/-- A load that waits on a line has its bytes: its piece as the line holds it, or failed. -/
def Line.serve (l : Line) (w : Waiter) (failed : Bool) : Rsp :=
  { op := .load, join := w.join, off := w.off, pa := w.pa, data := l.bytes (w.pa % 128) w.len, tag := l.tagAt w.pa, failed := failed }

/-- L1_FILL: a sector of a line arrives; the loads whose bytes the line now holds are answered. When both have arrived the line
is full or, if a signature marked it meanwhile, written back and dropped. -/
def execL1Fill (k : Nat) (s : State) : Host.Outcome State Fault Refusal :=
  match s.landed k with
  | none => happens s
  | some p =>
    match p.body with
    | .response r =>
      if r.op != .lineFill then happens s
      else
        let core := p.dest
        let la := r.pa / 128
        let c := s.core core
        match c.line? la, c.misses.find? (fun m => m.la == la) with
        | some l, some m =>
          let l := if r.failed then l else (l.fillTags (r.pa / 64 % 2) r.gtags).fillBytes (r.pa % 128) r.data
          let last := m.left ≤ 1
          let ready (w : Waiter) : Bool := last || r.failed && w.pa / 64 == r.pa / 64 || l.covers (w.pa % 128) w.len
          let (go, stay) := m.waiters.partition ready
          let l := { l with fill := !last }
          let t := (s.dropPacket k).modCore core (fun c =>
            { (c.putLine l) with misses :=
                if last then c.misses.filter (fun n => n.la != la)
                else c.misses.map (fun n => if n.la == la then { m with left := m.left - 1, waiters := stay } else n) })
          let t := go.foldl (fun (t : State) w => t.joinPiece core (l.serve w (!l.covers (w.pa % 128) w.len))) t
          happens (if last && l.doomed then (t.cleanLine core la).modCore core (fun c => c.dropLine la) else t)
        | _, _ => happens (s.dropPacket k)
    | _ => happens s

/-! ## Accesses at their homes (R208–R211, R219) -/

/-- An access performed at the core, endpoint or peer port that it has reached. -/
def State.performAt (s : State) (r : Req) (place : Nat) : State :=
  let (t, a) := s.perform r
  t.answerTo r a place (s.delay place 4)

/-- An access lost on a peer port that is down: a future is poisoned, a store raises PEER (R35). -/
def State.lostAt (s : State) (r : Req) (place n : Nat) : State :=
  let t := if r.op.writes && r.ticket.isNone then s.faultAsync r.lid clsPeer r.l r.core (BitVec.ofNat 64 n) else s
  t.answerTo r { r.answer with failed := true } place (s.delay place 4)

/-- A request that is no write-back waits at the mesh input of a column's landing. -/
def State.meshWaits (s : State) (col : Nat) : Bool :=
  (span 0 s.net.length).any (fun k => match s.accept k with
    | some (p, _) => (match p.body, p.port with
      | .access r, .stair => paCol r.pa == col && !r.isWriteBack
      | _, _ => false)
    | none => false)

/-- What is held at the stair enters the table of a landing that has room. While both inputs hold work, the entries that come free go to
them in turns (R208, R209). -/
def State.fillTable (s : State) (col : Nat) : State :=
  let mesh := s.meshWaits col
  s.modColumn col (fun c =>
    let d := ({ c with meshTurn := c.meshTurn && mesh } : Column).fromStair s.clk
    let took := (c.stairQ.filter (fun r => !r.isWriteBack)).length != (d.stairQ.filter (fun r => !r.isWriteBack)).length
    { d with meshTurn := d.meshTurn || (mesh && took) })

/-- HOME_ACCESS: an access is performed at its home, or enters the request table of its landing or edge controller. -/
def execHomeAccess (k : Nat) (s : State) : Host.Outcome State Fault Refusal :=
  match s.accept k with
  | none => happens s
  | some (p, t) =>
    match p.body, p.port with
    | .access r, .core => happens (t.performAt r p.dest)
    | .access r, .host => happens (t.performAt r p.dest)
    | .access r, .peer n => if s.peerUp n then happens (t.performAt r p.dest) else happens (t.lostAt r p.dest n)
    | .access r, .stair =>
      let col := paCol r.pa
      if tableRoom ((s.column col).table.map (fun e => e.req)) 16 4 r
      then happens ((t.modColumn col (fun c => { c with table := c.table ++ [{ stair := false, at_ := s.clk, req := r }], meshTurn := false })).fillTable col)
      else happens s
    | .access r, .edge c =>
      if tableRoom (s.edge c).table 64 8 r then happens (t.modEdge c (fun e => { e with table := e.table ++ [r] })) else happens s
    | _, _ => happens s

/-- The place in the table of the access that a slot serves: the oldest of the input whose turn it is, unless an access of the other
input that entered in an earlier clk touches its bytes; then the oldest of all. -/
def Column.pick (c : Column) : Option Nat :=
  let turn := c.lastMesh
  match c.table.findIdx? (fun e => e.stair == turn) with
  | none => if c.table.isEmpty then none else some 0
  | some i =>
    match c.table[i]? with
    | none => none
    | some e => if (c.table.take i).any (fun f => f.at_ < e.at_ && f.req.meets e.req) then some 0 else some i

/-- LANDING_ACCESS: one access of a landing in its slot of 8 clk (R208); its answer goes up the stair or into the mesh 52 clk
later, and its entry is free for what is held at the stair. -/
def execLandingAccess (col : Nat) (s : State) : Host.Outcome State Fault Refusal :=
  let c := s.column col
  if s.clk < c.nextSlot then happens s
  else
    match c.pick with
    | none => happens (s.fillTable col)
    | some i =>
      match c.table[i]? with
      | none => happens s
      | some e =>
        let t := s.modColumn col (fun _ =>
          { c with table := dropNth i c.table, lastMesh := !e.stair, nextSlot := s.clk + s.delay (2 * col) 8 })
        let t := t.fillTable col
        let (t, a) := t.perform e.req
        let place := if e.stair then e.req.core else 2 * col
        happens (t.answerTo e.req a place (s.delay (2 * col) 52))

/-- EDGE_ACCESS: one access of a second-tier controller in a reference clk; its answer leaves 325 clk later (R211). -/
def execEdgeAccess (ctl : Nat) (s : State) : Host.Outcome State Fault Refusal :=
  let e := s.edge ctl
  match e.table with
  | [] => happens s
  | r :: q =>
    if s.clk < e.nextClk then happens s
    else
      let t := s.modEdge ctl (fun e => { e with table := q, nextClk := s.clk + 1 })
      let (t, a) := t.perform r
      happens (t.answerTo r a (s.edgePlace ctl) 325)

/-! ## Messages accepted (R106, R143, R144, R228) -/

/-- s.lat after a message is accepted; of those of one clk the highest virtual network, then channel, stays (R144). DESIGN CHOICE
(assumption log 99): an active message counts as channel 0 there, and of two of equal rank the later in the schedule stays. -/
def State.noteLat (s : State) (core : Nat) (p : Packet) : State :=
  let rank := vnIndex p.vn * 8 + p.ch
  let w : W64 := BitVec.ofNat 64
    (Nat.min 0xFFFF (s.clk - p.born) * 2 ^ 24 + p.hops * 2 ^ 16 + vnIndex p.vn * 2 ^ 13 + (if p.vc1 then 2 ^ 12 else 0))
  s.modCore core (fun c =>
    match c.latMark with
    | some (t, n) => if t = s.clk && rank < n then c else { c with lat := w, latMark := some (s.clk, rank) }
    | none => { c with lat := w, latMark := some (s.clk, rank) })

/-- The signature sent ahead of a message is applied as it is accepted (R232). -/
def State.applyMark (s : State) (core : Nat) (g : Option Sig) : State :=
  match g with
  | some g => s.applySig core g
  | none => s

/-- An active message in its queue. -/
def Packet.toMsg (p : Packet) : Msg := { handler := p.handler, stage := p.stage, args := p.entries }

/-- ACTIVE_MESSAGE_ACCEPT: into the low- or high-priority queue of the tile, when it has room (R106). -/
def execActiveMessageAccept (k : Nat) (s : State) : Host.Outcome State Fault Refusal :=
  match s.accept k with
  | none => happens s
  | some (p, t) =>
    let c := s.core p.dest
    match p.body, p.port with
    | .message, .core =>
      if p.kind != 2 then happens s
      else
        let u := (t.applyMark p.dest p.sig).noteLat p.dest p
        if p.hiPrio then
          if c.highQ.length < 8 then happens (u.modCore p.dest (fun c => { c with highQ := c.highQ ++ [p.toMsg] })) else happens s
        else if c.lowQ.length < 16 then happens (u.modCore p.dest (fun c => { c with lowQ := c.lowQ ++ [p.toMsg] })) else happens s
    | _, _ => happens s

/-- Entries written into a ring from the i-th free place on. -/
def State.ringWrite (s : State) (core : Nat) (h : Chan) (i : Nat) (es : List TagVal) : State :=
  match es with
  | [] => s
  | e :: r => (s.storeHome (sramPa core (h.entryOff i)) (natBytes 16 e.v.toNat) [] none).ringWrite core h (i + 1) r

/-- CHANNEL_MESSAGE_ACCEPT: into the ring when all its entries fit; for a disabled channel the receiving tile faults (R143). -/
def execChannelMessageAccept (k : Nat) (s : State) : Host.Outcome State Fault Refusal :=
  match s.accept k with
  | none => happens s
  | some (p, t) =>
    let h := (s.core p.dest).chan p.ch
    let n := p.entries.length
    match p.body, p.port with
    | .message, .core =>
      if p.kind != 3 then happens s
      else if !h.en then
        let l := match (s.core p.dest).tile? with | some (_, l) => l | none => 0
        happens (t.faultAsync p.lid clsChannel l p.dest (BitVec.ofNat 64 p.ch))
      else if h.size < h.count.toNat + n then happens s
      else
        let u := ((t.applyMark p.dest p.sig).noteLat p.dest p).ringWrite p.dest h h.count.toNat p.entries
        happens (u.modCore p.dest (fun c => { c with chans := putAt p.ch { h with count := BitVec.ofNat 9 (h.count.toNat + n) } c.chans }))
    | _, _ => happens s

/-- PEER_MESSAGE_REFUSAL: the k-th message given to a peer port names no launch or tile there (R433). -/
def execPeerMessageRefusal (k : Nat) (s : State) : Host.Outcome State Fault Refusal :=
  match s.peerOut[k]? with
  | none => happens s
  | some (n, p) =>
    let l := match (s.core p.src).tile? with | some (_, l) => l | none => 0
    happens (({ s with peerOut := dropNth k s.peerOut }).faultAsync p.lid clsPeer l p.src (BitVec.ofNat 64 n))

/-! ## Services (R442) -/

/-- The feature bitmap (Table 2-4, report offset 0x090). -/
def State.featureBits (s : State) : Nat :=
  (if s.out.peerPorts then 1 else 0) + (if s.out.ttTable then 2 else 0) + (if s.out.stochastic then 4 else 0)
    + (if s.out.tierCrypt then 8 else 0)

/-- The status and value of a service (Table 20-8). -/
def State.service (s : State) (lid n : Nat) (arg : W64) : Nat × W64 :=
  match n with
  | 0 => (0, arg)
  | 1 => (0, (if s.timeLocked then 1#1 else 0#1) ++ s.time.extractLsb' 0 63)
  | 2 => (0, (s.launch lid).grant.setWidth 64)
  | 3 => (0, BitVec.ofNat 64 s.featureBits)
  | 4 => (0, BitVec.ofNat 64 (((span 0 32).map (fun i => if s.peerUp i then 2 ^ i else 0)).sum))
  | 5 => (0, s.mb.turns.setWidth 64)
  | _ => (1, 0)

/-- SERVICE_REQUEST: the management processors answer. -/
def execServiceRequest (k : Nat) (s : State) : Host.Outcome State Fault Refusal :=
  match s.landed k with
  | none => happens s
  | some p =>
    match p.body with
    | .service n arg core ctx ticket =>
      let (st, v) := s.service p.lid n arg
      happens ((s.dropPacket k).sendIn
        { vn := .rsp, kind := 1, lid := p.lid, src := p.dest, dest := core, final := core, pos := p.dest, born := s.clk
          ready := s.clk + s.delay p.dest 4
          body := .response { op := .store, ctx := ctx, ticket := ticket, fill := ⟨BitVec.ofNat 64 st ++ v, false⟩ } })
    | _ => happens s

end Sys2Proof.Machine
end

