-- ==== Sys2Proof/Machine/Roles.lean ====
section
/-! DEFINITION. Roles, leases, notices, the census and re-casts (spec 05), with name-route decisions (R149, R438) and the
privileged rolew (R447). -/

namespace Sys2Proof.Machine
open Sys2Proof

/-! ## Grants (R75, R76) -/

/-- The available cores of a region, in increasing ly, lx, z (R75). -/
def State.available (s : State) (r : LRec) : List Nat :=
  (s.regionCols r).flatMap (fun col => [2 * col, 2 * col + 1].filter (fun p => !s.routerDead p && !s.isHallCtl p))

/-- A grant: compute, pool and routing places (R76). -/
def grantOf (r : LRec) (av : List Nat) : List Nat × List Nat × List (Option Nat) :=
  let c := Nat.min r.ncomp.toNat av.length
  let back := (av.drop c).reverse
  let n := Nat.min (r.nstore.toNat - r.sresv.toNat) back.length
  let j := Nat.min r.nroute.toNat (back.length - n)
  (av.take c, back.take n, ((back.drop n).take j).map some ++ List.replicate (r.nroute.toNat - j) none)

/-- The logical target that a core hosts for a launch. -/
def State.targetOn (s : State) (lid p : Nat) : Option (Kind × Nat) :=
  match (s.core p).role with
  | .host l k i => if l = lid then some (k, i) else none
  | .idle => none

/-! ## Leases (R82–R84, R91) -/

/-- A lease held now. -/
def Lease.held (e : Lease) (clk : Nat) : Bool := clk < e.expiry

/-- A lease is on a target. -/
def Lease.on (e : Lease) (lid : Nat) (k : Kind) (i : Nat) : Bool := e.lid == lid && e.kind == k && e.idx == i

/-- The lease held on a target, at the hall controller of its host. -/
def State.leaseOf (s : State) (lid : Nat) (k : Kind) (i : Nat) : Option Lease :=
  match (s.launch lid).hostOf k i with
  | none => none
  | some p => (s.hall (hallOf p)).leases.find? (fun e => e.on lid k i && e.held s.clk)

/-- A core hosts a leased target. -/
def State.leasedCore (s : State) (lid p : Nat) : Bool :=
  match s.targetOn lid p with
  | some (k, i) => (s.leaseOf lid k i).isSome
  | none => false

/-- A core has a notice out or a re-cast in progress. -/
def State.recasting (s : State) (p : Nat) : Bool := s.recasts.any (fun r => r.dec.src == p || r.dec.dst == p)

/-- The twin of a core is a compute tile whose own re-cast is not eligible (R90). -/
def State.twinBlocks (s : State) (lid p : Nat) : Bool :=
  let q := twinOf p
  match s.targetOn lid q with
  | some (.compute, _) => s.leasedCore lid q || s.recasting q
  | _ => false

/-- A core is eligible (R90), its index's duties apart. -/
def State.eligible (s : State) (lid p : Nat) : Bool := !s.recasting p && !s.leasedCore lid p && !s.twinBlocks lid p

/-! ## Notices (R86, Table 5-5) -/

/-- The code of a role side. -/
def roleCode (t : Option (Kind × Nat)) : Nat :=
  match t with
  | none => 0
  | some (.compute, _) => 1
  | some (.pool, _) => 2
  | some (.routing, _) => 3

/-- The index of a role side. -/
def sideIndex (t : Option (Kind × Nat)) : Nat :=
  match t with
  | none => 0
  | some (_, i) => i

/-- The notice word of a re-cast; TARGET is read on the new side where there is one. -/
def Recast.word (r : Recast) (kind : Nat) : W64 :=
  let d := r.dec
  let target := match d.new with | some _ => sideIndex d.new | none => sideIndex d.old
  BitVec.ofNat 4 kind ++ BitVec.ofNat 2 (roleCode d.old) ++ BitVec.ofNat 2 (roleCode d.new) ++ BitVec.ofNat 4 d.cause
    ++ BitVec.ofNat 20 target ++ r.whenNs

/-- The lessees of leases of a launch in a hall, each once. -/
def State.lessees (s : State) (hall lid : Nat) : List Nat :=
  ((s.hall hall).leases.filter (fun e => e.lid == lid && e.held s.clk)).foldl
    (fun l e => if l.contains e.lessee then l else l ++ [e.lessee]) []

/-- The notices of one event: to the hosts that are compute tiles, each its own word, then to every other lessee. -/
def State.noticeAll (s : State) (kind : Nat) (rs : List Recast) (hosts : Bool) : State :=
  match rs with
  | [] => s
  | r :: _ =>
    let hs := if hosts then rs.filterMap (fun r => match r.dec.old with
      | some (.compute, l) => some (l, r.word kind)
      | _ => none) else []
    let ls := (s.lessees r.hall r.dec.lid).filter (fun l => !(hs.map (fun h => h.1)).contains l)
    (hs ++ ls.map (fun l => (l, r.word kind))).foldl (fun s h => s.hallToTile r.hall r.dec.lid h.1 .hi (.notice h.2)) s

/-- NOTICE_ACCEPT: into the high-priority queue of a compute tile, when it has room. -/
def execNoticeAccept (k : Nat) (s : State) : Host.Outcome State Fault Refusal :=
  match s.accept k with
  | none => happens s
  | some (p, t) =>
    match p.body, p.port with
    | .notice w, .core =>
      if (s.core p.dest).tile?.isNone then happens t
      else if s.holdsItems p.dest || 8 ≤ (s.core p.dest).highQ.length then happens s
      else happens (t.modCore p.dest (fun c => { c with highQ := c.highQ ++ [{ notice := some w }] }))
    | _, _ => happens s

/-! ## Census decisions (R88–R91, R99) -/

/-- A re-cast of each decision starts: T0 is now, and PENDING goes out (R92). -/
def State.startRecasts (s : State) (ds : List Decision) : State :=
  let pair := decide (1 < ds.length)
  let w := BitVec.ofNat 32 ((s.time13 + 10 * Config.epochClk) / 13)
  let rs := ds.map (fun d => ({ dec := d, hall := hallOf d.src, t0 := s.clk, due := s.clk + Config.epochClk, whenNs := w, pair := pair } : Recast))
  ({ s with recasts := s.recasts ++ rs }).noticeAll 1 rs true

/-- PO is at least 75 % (Table 5-7). -/
def State.poolFull (s : State) (l : Launch) : Bool :=
  l.pool.isEmpty || 72 * l.pool.length ≤ 4 * (l.pool.map (fun p => (s.core p).written.length)).sum

/-- RO in percent: flit-clk over seven ports of ten 8-flit buffers in 512 routers (R131, R132). -/
def roOf (t : Tally) : Nat := t.occ * 100 / (512 * 7 * 80 * Config.epochClk)

/-- The pool size when the growths in progress are done. -/
def State.poolAfter (s : State) (lid : Nat) : Nat :=
  (s.launch lid).pool.length + (s.recasts.filter (fun r => r.dec.lid == lid
    && (match r.dec.new with | some (.pool, _) => r.dec.old != r.dec.new | _ => false))).length

/-- A routing index that an entry of the name-routing table can select (R152). -/
def Launch.selects (l : Launch) (j : Nat) : Bool :=
  (span 0 15).any (fun e => let v := getAt 0 e l.names; hdrField v 78 2 == 2 && hdrField v 0 20 == j)
    || (j < l.j0 && (!l.record.dpool || l.s0 == 0))

/-- A routing index whose tile in the hall the census may take. -/
def State.takable (s : State) (lid hall j : Nat) : Option Nat :=
  let l := s.launch lid
  match l.hostOf .routing j with
  | none => none
  | some p =>
    if hallOf p = hall && !l.selects j && s.eligible lid p && !(s.core p).dir.any (fun d => d.lid == lid) then some p else none

/-- The eligible idle cores of a launch's region in list order. -/
def State.idleCores (s : State) (lid : Nat) : List Nat :=
  (s.available (s.launch lid).record).filter (fun p => (s.core p).role == .idle && s.eligible lid p)

/-- An eligible idle core of a hall. -/
def State.idleIn (s : State) (lid hall : Nat) : Option Nat := (s.idleCores lid).find? (fun p => hallOf p == hall)

/-- The core that a growth in a hall takes, and its routing index. -/
def State.growCore (s : State) (lid hall : Nat) : Option (Nat × Option (Kind × Nat)) :=
  match (span 0 (s.launch lid).record.nroute.toNat).find? (fun j => (s.takable lid hall j).isSome) with
  | some j => (s.takable lid hall j).map (fun p => (p, some (.routing, j)))
  | none => (s.idleIn lid hall).map (fun p => (p, none))

/-- A hall qualifies for pool growth (Table 5-8 row 1), the launch's own conditions apart. -/
def State.growHall (s : State) (lid hall : Nat) : Bool :=
  let t := (s.hall hall).tally lid
  roOf t < 25 && t.tr == 0 && (s.growCore lid hall).isSome

/-- Row 1. -/
def State.growth (s : State) (lid hall n : Nat) : Option Decision :=
  let l := s.launch lid
  let k := s.poolAfter lid
  if !s.poolFull l || l.record.nstore.toNat ≤ k || l.growEpoch == some n || !s.growHall lid hall then none
  else
    let better := (s.launchHalls lid).any (fun g => g != hall && getAt 0 g l.epochs < n && s.growHall lid g
      && (s.qd lid g < s.qd lid hall || (s.qd lid g == s.qd lid hall && g < hall)))
    if better then none
    else (s.growCore lid hall).map (fun c => { lid := lid, old := c.2, new := some (.pool, k), src := c.1, dst := c.1, cause := 0 })

/-- Row 2. -/
def State.pressure (s : State) (lid hall : Nat) : Option Decision :=
  let t := (s.hall hall).tally lid
  let l := s.launch lid
  let due (j : Nat) : Bool := (l.hostOf .routing j).isNone && !s.recasts.any (fun r => r.dec.lid == lid && r.dec.new == some (.routing, j))
  if roOf t < 50 && t.tr < 16 then none
  else
    match (span 0 l.record.nroute.toNat).find? due, s.idleIn lid hall with
    | some j, some p => some { lid := lid, old := none, new := some (.routing, j), src := p, dst := p, cause := 1 }
    | _, _ => none

/-- Row 3. -/
def State.surplus (s : State) (lid hall quiet : Nat) : Option Decision :=
  if quiet < 4 then none
  else
    match (span 0 (s.launch lid).record.nroute.toNat).reverse.find? (fun j => (s.takable lid hall j).isSome) with
    | some j => (s.takable lid hall j).map (fun p => { lid := lid, old := some (.routing, j), new := none, src := p, dst := p, cause := 2 })
    | none => none

/-- The candidate with the fewest hops, the first of those equal. -/
def nearest (p : Nat) (qs : List Nat) : Option Nat :=
  qs.foldl (fun (b : Option Nat) q => match b with
    | none => some q
    | some r => if hopsBetween p q < hopsBetween p r then some q else some r) none

/-- The move of a compute tile or pool slot to an idle core in a cool hall; both twins of a column move together (R94, R99). -/
def State.moveAway (s : State) (lid p : Nat) : List Decision :=
  let cool := (s.idleCores lid).filter (fun q => (s.hall (hallOf q)).temp < 85)
  let dec (p q : Nat) : Decision := { lid := lid, old := s.targetOn lid p, new := s.targetOn lid p, src := p, dst := q, cause := 3 }
  match s.targetOn lid p, s.targetOn lid (twinOf p) with
  | some (.compute, _), some (.compute, _) =>
    match nearest p (cool.filter (fun q => placeZ q == placeZ p && cool.contains (twinOf q))) with
    | some q => [dec p q, dec (twinOf p) (twinOf q)]
    | none => []
  | some (.routing, _), _ => []
  | none, _ => []
  | _, _ => match nearest p cool with
    | some q => [dec p q]
    | none => []

/-- A core that moves, or its twin that moves with it, is leased. -/
def State.leaseHolds (s : State) (lid p : Nat) : Bool :=
  s.leasedCore lid p || (match s.targetOn lid p, s.targetOn lid (twinOf p) with
    | some (.compute, _), some (.compute, _) => s.leasedCore lid (twinOf p)
    | _, _ => false)

/-- A thermal request about the hottest core (R99): moved, or deferred where a lease holds it. None when it names no move. -/
def State.thermalMove (s : State) (lid hall p : Nat) : Option State :=
  match s.moveAway lid p with
  | [] => none
  | d :: ds =>
    if s.leaseHolds lid p then some (s.modHall hall (fun h => { h with deferred := some d }))
    else if (d :: ds).any (fun e => !s.eligible lid e.src) then none
    else some (s.startRecasts (d :: ds))

/-- The core of a hall that a free value picks: where the sensors read the most (R99). -/
def hallCore (hall n : Nat) : Nat :=
  placeOf (hall % 32 * 16 + n % 16) (hall / 32 * 16 + n / 16 % 16) (n / 256 % 2)

/-- A lease request has reached a hall's controller: it is recorded before a decision of the same clk (Table 5-12). -/
def State.leaseWaits (s : State) (hall : Nat) : Bool :=
  (span 0 s.net.length).any (fun j => match s.landedAtHall j with
    | some (h, p, _) => h == hall && (match p.body with | .leaseReq _ _ _ _ _ _ _ => true | _ => false)
    | none => false)

/-- CENSUS_EPOCH: it goes on while the launch is halted or frozen (R273). -/
def execCensusEpoch (hall lid : Nat) (s : State) : Host.Outcome State Fault Refusal :=
  match s.launch? lid with
  | none => happens s
  | some l =>
    let n := (s.clk - l.startClk) / Config.epochClk
    if (l.fault.isSome && !l.frozen) || !(l.phase == .running || l.phase == .admission) || n ≤ getAt 0 hall l.epochs || s.leaseWaits hall then happens s
    else
      let t := (s.hall hall).tally lid
      let quiet := if roOf t < 10 && t.tr = 0 then t.quiet + 1 else 0
      let close (s : State) (quiet : Nat) : State :=
        (s.modLaunch lid (fun l => { l with epochs := putAt hall n l.epochs })).modTally hall lid (fun _ => { quiet := quiet })
      let hot := match (s.hall hall).hotSince with
        | some c => 2 ≤ n && c ≤ l.startClk + (n - 1) * Config.epochClk
        | none => false
      let (v, s') := if hot then s.draw else (0, s)
      match (if hot then s'.thermalMove lid hall (hallCore hall v.toNat) else none) with
      | some u => happens (close u 0)
      | none =>
        match s.growth lid hall n with
        | some d => happens (close ((s'.startRecasts [d]).modLaunch lid (fun l => { l with growEpoch := some n })) 0)
        | none =>
          match s.pressure lid hall with
          | some d => happens (close (s'.startRecasts [d]) 0)
          | none =>
            match s.surplus lid hall quiet with
            | some d => happens (close (s'.startRecasts [d]) 0)
            | none => happens (close s' quiet)

/-- The deferred decision of a hall goes ahead when its lease has ended; without a destination it is dropped (R91, R99). -/
def State.undefer (s : State) (hall : Nat) : State :=
  match (s.hall hall).deferred with
  | none => s
  | some d =>
    if s.leaseHolds d.lid d.src then s
    else
      let t := s.modHall hall (fun h => { h with deferred := none })
      let ds := s.moveAway d.lid d.src
      if s.targetOn d.lid d.src != d.old || ds.any (fun e => !s.eligible d.lid e.src) then t else t.startRecasts ds

/-! ## Lease requests and role queries (R83, R84, R439) -/

/-- The hall controller's answer to a core\'s future. -/
def State.answerCore (s : State) (h lid core ctx : Nat) (ticket : Option (BitVec 16)) (v : W64) : State :=
  let src := (s.hallCtlCore h).getD core
  s.ctlPost .rsp 1 lid src core .core none (.response { op := .store, ctx := ctx, ticket := ticket, fill := ⟨reg64 v, false⟩ })

/-- A target a lease may be on. -/
def Launch.leasable (l : Launch) (k : Kind) (i : Nat) : Bool :=
  match k with
  | .compute => i < l.compute.length
  | .pool => i < l.pool.length
  | .routing => false

/-- A re-cast and, for a pair, that of its twin. -/
def State.members (s : State) (r : Recast) : List Recast :=
  if r.pair then s.recasts.filter (fun q => q.dec.lid == r.dec.lid && (q.dec.src == r.dec.src || q.dec.src == twinOf r.dec.src)) else [r]

/-- Re-casts replaced one by one. -/
def State.modRecasts (s : State) (rs : List Recast) (f : Recast → Option Recast) : State :=
  { s with recasts := s.recasts.filterMap (fun r => if rs.contains r then f r else some r) }

/-- A lease recorded on a target refuses its re-cast in grace (R92). -/
def State.refuseRecast (s : State) (lid : Nat) (k : Kind) (i : Nat) : State :=
  match s.recasts.find? (fun r => r.dec.lid == lid && r.dec.old == some (k, i) && r.phase == .grace && s.clk < r.due) with
  | none => s
  | some r =>
    let rs := r :: (s.members r).filter (fun q => q != r)
    (s.noticeAll 2 rs true).modRecasts rs (fun _ => none)

/-- A lease request recorded at a hall: the state, status and duration of Table 5-4. -/
def State.recordLease (s : State) (h lid : Nat) (k : Kind) (i dur lessee : Nat) : State × Nat × Nat :=
  let mine (e : Lease) : Bool := e.on lid k i
  let live := (s.hall h).leases.filter (fun e => e.held s.clk)
  if !(s.launch lid).leasable k i then (s, 3, 0)
  else if dur = 0 then
    if live.any mine then ((s.modHall h (fun x => { x with leases := x.leases.filter (fun e => !mine e) })).undefer h, 1, 0)
    else (s, 4, 0)
  else if !live.any mine && 32 ≤ live.length then (s, 2, 0)
  else
    let d := Nat.min dur (2 ^ 28)
    let e : Lease := { lid := lid, kind := k, idx := i, expiry := s.clk + d, lessee := lessee }
    ((s.modHall h (fun x => { x with leases := x.leases.filter (fun e => !mine e) ++ [e] })).refuseRecast lid k i, 0, d)

/-- The hall whose controller holds the leases on a target. -/
def State.leaseHall (s : State) (lid : Nat) (k : Kind) (i h : Nat) : Nat :=
  match (s.launch lid).hostOf k i with
  | some p => hallOf p
  | none => h

/-- LEASE_RECORD. -/
def execLeaseRecord (k : Nat) (s : State) : Host.Outcome State Fault Refusal :=
  match s.landedAtHall k with
  | none => happens s
  | some (h, p, t) =>
    match p.body with
    | .leaseReq kd i dur l core ctx ticket =>
      let (u, st, d) := t.recordLease (t.leaseHall p.lid kd i h) p.lid kd i dur l
      happens (u.answerCore h p.lid core ctx ticket (BitVec.ofNat 64 (st * 2 ^ 60 + d)))
    | _ => happens s

/-- LEASE_EXPIRY: the k-th lease of a hall has reached its E. -/
def execLeaseExpiry (hall k : Nat) (s : State) : Host.Outcome State Fault Refusal :=
  match (s.hall hall).leases[k]? with
  | none => happens s
  | some e =>
    if e.held s.clk then happens s
    else happens ((s.modHall hall (fun h => { h with leases := dropNth k h.leases })).undefer hall)

/-- The role word of a target (Table 5-3). -/
def State.roleWord (s : State) (lid : Nat) (k : Kind) (i : Nat) : W64 :=
  let l := s.launch lid
  let inRange := match k with
    | .compute => i < l.compute.length
    | .pool => i < l.pool.length
    | .routing => i < l.record.nroute.toNat
  if !inRange then 0
  else
    let bit (b : Bool) (n : Nat) : Nat := if b then 2 ^ n else 0
    let rs := s.recasts.filter (fun r => r.dec.lid == lid && (r.dec.old == some (k, i) || r.dec.new == some (k, i)))
    let grace := rs.any (fun r => r.phase == .grace && s.clk < r.due)
    let left := match s.leaseOf lid k i with | some e => e.expiry - s.clk | none => 0
    let host := l.hostOf k i
    let place := match host with | some p => placeX p * 2 ^ 42 + placeY p * 2 ^ 33 + placeZ p * 2 ^ 32 | none => 0
    BitVec.ofNat 64 (roleCode (some (k, i)) * 2 ^ 62 + bit (s.leaseOf lid k i).isSome 61 + bit grace 60
      + bit (!rs.isEmpty && !grace) 59 + bit host.isNone 58 + place + left)

/-- ROLE_QUERY. -/
def execRoleQuery (k : Nat) (s : State) : Host.Outcome State Fault Refusal :=
  match s.landedAtHall k with
  | none => happens s
  | some (h, p, t) =>
    match p.body with
    | .roleReq kd i core ctx ticket => happens (t.answerCore h p.lid core ctx ticket (s.roleWord p.lid kd i))
    | _ => happens s

/-! ## Name routes (R149, R438) -/

/-- A name-routing entry as it is stored. -/
def nameStored (v : W128) : W128 :=
  v.extractLsb' 78 50 ++ BitVec.ofNat 5 (Nat.min 23 (hdrField v 73 5)) ++ 0#53 ++ v.extractLsb' 0 20

/-- What a name-route request comes to: 0 OK, 1 USED, 2 BADTARGET. A routing index whose re-cast has been decided is refused, so that no
entry ever selects one that maps to NONE (R152, assumption log 67). -/
def State.nameStatus (s : State) (lid e : Nat) (v : W128) : Nat :=
  let l := s.launch lid
  let i := hdrField v 0 20
  let leaves := s.recasts.any (fun r => r.dec.lid == lid && r.dec.old == some (.routing, i))
  if hdrField (getAt 0 e l.names) 78 2 != 0 then 1
  else
    match hdrField v 78 2 with
    | 1 => if i < l.pool.length then 0 else 2
    | 2 => if (l.hostOf .routing i).isSome && !leaves then 0 else 2
    | _ => 2

/-- The clk at which a message was accepted at its destination. -/
def Packet.arrival (p : Packet) : Nat := p.due

/-- A name-route request of the launch has reached the hall controller earlier, or in the same clk from a lower L (R438). -/
def State.requestFirst (s : State) (p : Packet) (l : Nat) : Bool :=
  (span 0 s.net.length).any (fun j => match s.landed j with
    | some q => q.lid == p.lid && q.port == p.port && (match q.body with
        | .nameReq _ _ _ _ m _ => q.arrival < p.arrival || (q.arrival = p.arrival && m < l)
        | _ => false)
    | none => false)

/-- NAME_ROUTE_DECIDE. -/
def execNameRouteDecide (k : Nat) (s : State) : Host.Outcome State Fault Refusal :=
  match s.landedAtHall k with
  | none => happens s
  | some (h, p, t) =>
    match p.body with
    | .nameReq e v core ctx l ticket =>
      if s.requestFirst p l then happens s
      else
        let st := s.nameStatus p.lid e v
        let t := if st = 0 then t.modLaunch p.lid (fun l => { l with names := putAt e (nameStored v) l.names }) else t
        happens (t.answerCore h p.lid core ctx ticket (BitVec.ofNat 64 st))
    | _ => happens s

/-! ## The phases of a re-cast (R92–R94) -/

/-- RECAST_GRACE_END. -/
def execRecastGraceEnd (r : Nat) (s : State) : Host.Outcome State Fault Refusal :=
  match s.recasts[r]? with
  | none => happens s
  | some c =>
    if c.phase != .grace || s.clk < c.due then happens s
    else happens (s.modRecasts (s.members c) (fun c => some { c with phase := .drain }))

/-- What a core's drain waits for (Table 5-10), dirty lines apart. -/
def State.busyCore (s : State) (p : Nat) : Bool :=
  let c := s.core p
  c.ctxs.any (fun x => x.2.task.isSome) || !c.shadows.isEmpty || !c.copyQ.isEmpty || !c.mqueue.isEmpty || !c.closing.isEmpty
    || !c.wants.isEmpty || !c.outs.isEmpty || !c.joins.isEmpty || c.stealOut
    || s.net.any (fun q => q.src == p && (match q.body with | .train t => t.source.isSome | _ => false))

/-- The drain of a re-cast has ended. -/
def State.drained (s : State) (r : Recast) : Bool :=
  match r.dec.old with
  | some (.compute, _) => !s.busyCore r.dec.src && !(s.core r.dec.src).l1.any (fun l => l.dirty != 0)
  | some (.routing, _) => !s.net.any (fun p => p.spilt && p.pos == r.dec.src)
  | _ => true

/-- 96 KiB copied from one core's SRAM to another's, tags included, and the old one zeroed. -/
def State.copySram (s : State) (p q : Nat) : State :=
  let a := sramPa p 0
  let b := sramPa q 0
  let cells := s.mem.filter (fun c => a ≤ c.1 && c.1 < a + Config.sramBytes)
  let tags := s.tags.filter (fun g => a ≤ 16 * g && 16 * g < a + Config.sramBytes)
  let t := (s.zeroRange b Config.sramBytes).zeroRange a Config.sramBytes
  { t with mem := cells.foldl (fun m c => Memory.write m (b + (c.1 - a)) c.2) t.mem
           tags := tags.foldl (fun l g => tagPut (b / 16 + (g - a / 16)) l) t.tags }

/-- What a core keeps that is its own or its router's, not its role's (R74). -/
def Core.bare (c : Core) : Core :=
  { pit := c.pit, tickets := c.tickets, serial := c.serial, nextId := c.nextId, nextIssue := c.nextIssue
    nextAdmit := c.nextAdmit, divBusy := c.divBusy }

/-- The new host of a compute tile: its own parts, and what moves (Table 5-10). -/
def Core.movedTo (old new : Core) (tlim : BitVec 32) : Core :=
  { new.bare with
    role := new.role, fmc := old.fmc, seed := old.seed, tlimit := tlim, lowQ := old.lowQ, highQ := old.highQ, fifo := old.fifo
    deque := old.deque, spill := old.spill, counters := old.counters, passed := old.passed, barriers := old.barriers
    waitTable := old.waitTable, chans := old.chans, routes := old.routes, l1Ways := old.l1Ways, acc := old.acc, sigs := old.sigs
    banks := old.banks, bankViews := old.bankViews, mcfg := old.mcfg, mcfgView := old.mcfgView
    dir := old.dir, seals := old.seals, stale := old.stale, holds := old.holds, poolView := old.poolView, genView := old.genView
    routesView := old.routesView, lastVictim := old.lastVictim }

/-- The new host of a pool slot. -/
def Core.slotMovedTo (old new : Core) : Core :=
  { new.bare with role := new.role, dir := old.dir, seals := old.seals, sigs := old.sigs, written := old.written }

/-- The tickets of twin-window registers of a column deliver to another column, or nowhere. -/
def State.moveTwinTickets (s : State) (a : Nat) (b : Option Nat) : State :=
  let go (k : Ticket) : Loc := match k.loc with
    | .twin c n => if c = a then (match b with | some b => .twin b n | none => .nowhere) else k.loc
    | l => l
  { s with cores := s.cores.map (fun e => (e.1, e.2.relocate go)) }

/-- The twin window and licence of a column that a compute tile leaves (R94). A future that is PENDING in the window moves with it. -/
def State.leaveColumn (s : State) (r : Recast) : State :=
  let a := colOf r.dec.src
  let z := placeZ r.dec.src
  let s := if r.pair then
      (if z = 0 then (s.modColumn (colOf r.dec.dst) (fun c => { c with tw := (s.column a).tw })).modColumn a (fun c => { c with tw := [] })
        |>.moveTwinTickets a (some (colOf r.dec.dst)) else s)
    else (s.modColumn a (fun c => { c with tw := [] })).moveTwinTickets a none
  if (s.column a).lic.holder = some z then s.passLic a z else s

/-- The content of one re-cast moved (Table 5-10). -/
def State.moveOne (s : State) (r : Recast) : State :=
  let p := r.dec.src
  let q := r.dec.dst
  if p = q then (s.zeroRange (sramPa p 0) Config.sramBytes).modCore p (fun c => { c.bare with role := c.role })
  else
    let s := (s.fireAt (sramPa p 0) Config.sramBytes).copySram p q
    let old := s.core p
    match r.dec.old with
    | some (.compute, _) =>
      let s := s.setCore q (old.movedTo (s.core q) (s.launch r.dec.lid).record.tlim)
      (s.modCore p (fun c => { c.bare with role := c.role })).leaveColumn r
    | _ => (s.setCore q (old.slotMovedTo (s.core q))).modCore p (fun c => { c.bare with role := c.role })

/-- RECAST_MOVE: dirty sectors of a drained compute tile are written back first. -/
def execRecastMove (r : Nat) (s : State) : Host.Outcome State Fault Refusal :=
  match s.recasts[r]? with
  | none => happens s
  | some c =>
    let rs := s.members c
    if c.phase != .drain then happens s
    else if rs.all s.drained then
      happens ((rs.foldl State.moveOne s).modRecasts rs (fun c => some { c with phase := .moved }))
    else if rs.any (fun r => s.busyCore r.dec.src) then happens s
    else happens (rs.foldl (fun s r => s.cleanLines r.dec.src (fun _ => true)) s)

/-! ## The re-map, stubs and markers (R92, R95, R97) -/

/-- A map with one entry written; a pool index at the end grows the pool. -/
def Launch.setHost (l : Launch) (k : Kind) (i : Nat) (p : Option Nat) : Launch :=
  match k, p with
  | .compute, some p => { l with compute := l.compute.set i p }
  | .pool, some p => { l with pool := if i < l.pool.length then l.pool.set i p else l.pool ++ [p] }
  | .routing, p => { l with routing := l.routing.set i p }
  | _, none => l

/-- One entry of a map written: the cores' roles, stale entries until each core has applied it, invalidations on HI to every
core of the launch, to a compute tile as to its logical target, and the stub at the old host. -/
def State.writeMap (s : State) (hall lid : Nat) (k : Kind) (i : Nat) (p : Option Nat) : State :=
  let old := (s.launch lid).hostOf k i
  let grow := k == .pool && (s.launch lid).pool.length ≤ i
  let s := s.modLaunch lid (fun l => l.setHost k i p)
  let s := match old with
    | some q => s.modCore q (fun c => { c with role := if c.role == Role.host lid k i then .idle else c.role })
    | none => s
  let s := match p with
    | some q => s.modCore q (fun c => { c with role := .host lid k i })
    | none => s
  let l := s.launch lid
  let src := (s.hallCtlCore hall).getD 0
  let s := l.cores.foldl (fun (s : State) c =>
    let s := if grow || some c == p then s
      else s.modCore (s.nowAt c) (fun x =>
        if x.stale.any (fun e => e.kind == k && e.idx == i) then x else { x with stale := x.stale ++ [{ kind := k, idx := i, old := old }] })
    s.ctlPost .hi 6 lid src c .core ((s.core c).tile?.map (fun e => (Kind.compute, e.2))) (.invalidate k i l.generation grow)) s
  match old with
  | some q => { s with stubs := s.stubs ++ [{ lid := lid, kind := k, idx := i, old := q, new := p, closes := s.clk + 16384 }] }
  | none => s

/-- Interests that wait at a rendezvous that has moved go on to the new host, ahead of the items held; the old router keeps its entries
(R97, R167). -/
def State.sendPits (s : State) (lid : Nat) (k : Kind) (i old new : Nat) : State :=
  let l := s.launch lid
  ((s.core old).pit.filter (fun e => e.lid == lid && s.clk < e.expiry && l.rendezvous (nameTensor e.name) == (k, i))).foldl
    (fun (s : State) e =>
      let p : Packet := { vn := .namei, kind := 4, lid := lid, src := old, dest := new, final := new, pos := old, target := some (k, i)
                          face := ownFace 6, seen := true, held := some 0, born := s.clk, ready := s.clk
                          body := .interest { name := e.name, type := .want, left := e.expiry - s.clk, core := old, lastRec := old } }
      s.send p) s

/-- The items that a storage host held take their turns at the new one, in the order in which they arrived (R93, R96, R167). -/
def State.markHeld (s : State) (lid : Nat) (k : Kind) (i old : Nat) : State :=
  let mine (q : Packet) : Bool := k == .pool && q.lid == lid && q.target == some (k, i) && q.pos == old && q.dest == old && q.ready ≤ s.clk
  { s with net := s.net.map (fun p => if mine p then { p with held := some ((s.net.filter (fun q => mine q && q.before p)).length + 1) } else p) }

/-- The re-map of one re-cast. -/
def State.remapOne (s : State) (r : Recast) : State :=
  let d := r.dec
  let s := s.modLaunch d.lid (fun l => { l with generation := l.generation + 1 })
  match d.old, d.new with
  | some (k, i), some (k', i') =>
    if (k, i) == (k', i') then
      ((s.markHeld d.lid k i d.src).writeMap r.hall d.lid k i (some d.dst)).sendPits d.lid k i d.src d.dst
    else (s.writeMap r.hall d.lid k i none).writeMap r.hall d.lid k' i' (some d.dst)
  | some (k, i), none => s.writeMap r.hall d.lid k i none
  | none, some (k, i) => s.writeMap r.hall d.lid k i (some d.dst)
  | none, none => s

/-- Leases on a target that has moved stand at the controller of its new hall, which may then hold more than 32 (DESIGN CHOICE, assumption
log 86). -/
def State.moveLeases (s : State) (r : Recast) : State :=
  let d := r.dec
  match d.old with
  | some (k, i) =>
    if d.old != d.new then s
    else
      let (mine, rest) := (s.hall (hallOf d.src)).leases.partition (fun e => e.on d.lid k i)
      (s.modHall (hallOf d.src) (fun h => { h with leases := rest })).modHall (hallOf d.dst) (fun h => { h with leases := h.leases ++ mine })
  | none => s

/-- RECAST_REMAP: the role map is written and DONE goes to the lessees. -/
def execRecastRemap (r : Nat) (s : State) : Host.Outcome State Fault Refusal :=
  match s.recasts[r]? with
  | none => happens s
  | some c =>
    if c.phase != .moved then happens s
    else
      let rs := s.members c
      let t := (rs.foldl State.remapOne s).noticeAll 3 rs false
      happens ((rs.foldl State.moveLeases t).modRecasts rs (fun _ => none))

/-- Routing indices that a core sees mapped to a core. -/
def State.routesSeen (s : State) (core lid : Nat) : Nat :=
  ((span 0 (s.launch lid).record.nroute.toNat).filter (fun j => (s.hostSeen core lid .routing j).isSome)).length

/-- The virtual networks. -/
def allVns : List VN := [.req, .rsp, .namei, .named, .hi]

/-- ROLE_MAP_INVALIDATION: the core applies the entry; a compute tile sends a marker on each virtual network to the old host and
holds its sends to the target until they return. -/
def execRoleMapInvalidation (k : Nat) (s : State) : Host.Outcome State Fault Refusal :=
  match s.accept k with
  | none => happens s
  | some (p, u) =>
    match p.body with
    | .invalidate kd i gen grow =>
      let core := p.dest
      let old := ((s.core core).stale.find? (fun e => e.kind == kd && e.idx == i)).bind (fun e => e.old)
      let t := u.modCore core (fun c =>
        { c with stale := c.stale.filter (fun e => !(e.kind == kd && e.idx == i)), genView := Nat.max c.genView gen
                 poolView := if grow then Nat.max c.poolView (i + 1) else c.poolView })
      let t := t.modCore core (fun c => { c with routesView := t.routesSeen core p.lid })
      match old, (s.core core).tile? with
      | some q, some _ =>
        let t := t.modCore core (fun c => { c with holds := c.holds ++ [{ kind := kd, idx := i, markers := 5 }] })
        happens (allVns.foldl (fun (t : State) v => t.post v 7 p.lid core q .core none (.marker kd i false)) t)
      | _, _ => happens t
    | _ => happens s

/-- An access that follows its target to a new host. -/
def Body.rehost (b : Body) (q : Nat) : Body :=
  match b with
  | .access r => .access (if paRegion r.pa = 0 then { r with pa := sramPa q (r.pa % 2 ^ 18), was := some (r.was.getD r.pa) } else r)
  | b => b

/-- An item that came to the same place, for the same target, before this one (R93, R96). -/
def State.itemFirst (s : State) (p : Packet) : Bool :=
  s.net.any (fun q => q.pos == p.pos && q.dest == p.dest && q.lid == p.lid && q.target == p.target && q.before p)

/-- An item that a marker's source sent before it, on its network, to the marker's place or by way of it (R95). -/
def State.markerWaits (s : State) (p : Packet) : Bool :=
  s.net.any (fun q => q.uid < p.uid && q.src == p.src && q.vn == p.vn && q.lid == p.lid
    && (q.dest == p.dest || q.stat && (q.wps.drop q.step).contains p.dest))

/-- The stub of a logical target at its old router is open (R92). -/
def State.stubOpen (s : State) (lid : Nat) (k : Kind) (i place : Nat) : Bool :=
  s.stubs.any (fun t => t.lid == lid && t.kind == k && t.idx == i && t.old == place && s.clk < t.closes)

/-- A message sent on from an old router (R95): it goes on as it stands, on the virtual channel it came by (R139). An interest keeps the
face by which it came, which the old router records (R97). -/
def Packet.sendOn (p : Packet) (clk : Nat) : Packet :=
  let keep : Bool := match p.body with | .interest _ => true | _ => false
  { p with dta := false, ready := clk, face := if keep then p.face else ownFace 6, seen := false }

/-- A message bounced: it travels back to its source, and every router passes it on (R95). -/
def Packet.bounce (p : Packet) (clk : Nat) : Packet :=
  { p.sendOn clk with dest := p.src, final := p.src, back := some (p.back.getD p.final), step := p.wps.length, face := ownFace 6, seen := true }

/-- A message for a target that has moved to `q`: by the stub while it is open, else bounced (R95). -/
def Packet.redirect (p : Packet) (q : Nat) (open_ : Bool) (clk : Nat) : Packet :=
  if open_ then ({ p with dest := q, final := q, body := p.body.rehost q } : Packet).sendOn clk else p.bounce clk

/-- The waypoints of a static route as the current map places them, those that map to NONE dropped (R141). -/
def State.replaced (s : State) (p : Packet) : Packet :=
  let ws := p.wpTargets.filterMap (fun t => ((s.launch p.lid).hostOf t.1 t.2).map (fun q => (q, t)))
  let f := match p.target with | some (k, i) => ((s.launch p.lid).hostOf k i).getD p.final | none => p.final
  { p with wps := ws.map (fun e => e.1), wpTargets := ws.map (fun e => e.2), dest := ((ws.map (fun e => e.1))[0]?).getD f, final := f
           body := p.body.rehost f }

/-- A message that has come back to its source sent again through the current map: a new sending, with its header's counts from the start
(R95). -/
def State.resend (s : State) (p : Packet) : Packet :=
  let r := s.clk + s.delay p.pos 4
  (s.replaced { p with final := p.back.getD p.final, back := none, born := s.clk, ready := r, ripe := s.ripens p p.pos r, hops := 0, step := 0
                       dta := false, vc1 := false, slow := false, face := ownFace 6, seen := true }).settled

/-- A static-route message at an old router of its waypoint: the stub sends it to the waypoint's new host, or straight to the final
destination where the index maps to NONE; once the stub is closed it is bounced (R95). -/
def State.sendWay (s : State) (p : Packet) : Packet :=
  match p.wpTargets[p.step]? with
  | none => p
  | some (k, i) =>
    if !s.stubOpen p.lid k i p.pos then p.bounce s.clk
    else
      match (s.launch p.lid).hostOf k i with
      | some q => { (p.sendOn s.clk) with dest := q, wps := p.wps.set p.step q }
      | none => { (p.sendOn s.clk) with dest := p.final, step := p.wps.length }

/-- A static-route message waits at an old router of its waypoint, and none that came before it does (R95). -/
def State.wayMoved (s : State) (p : Packet) : Bool :=
  p.onWay && p.pos == p.dest && p.ready ≤ s.clk && !s.atWaypoint p
    && !s.net.any (fun q => q.onWay && q.pos == p.pos && q.dest == p.dest && q.lid == p.lid && q.before p)

/-- STUB_FORWARD: an item for a target that has moved goes on to the new host in the order of arrival, or back to its source once the stub
is closed, which sends it again; a static-route message at a waypoint that has moved does likewise; a marker follows the items ahead of it
and then returns to its source (R95). -/
def execStubForward (k : Nat) (s : State) : Host.Outcome State Fault Refusal :=
  match s.net[k]? with
  | none => happens s
  | some w =>
    if s.wayMoved w then happens (s.setPacket k (s.sendWay w))
    else if w.back.isSome then happens (if (s.arrived k).isSome then s.setPacket k (s.resend w) else s)
    else
      match s.landed k with
      | none => happens s
      | some p =>
        match p.body, p.target with
        | .marker kd i false, _ =>
          if s.markerWaits p then happens s
          else
            match (s.launch p.lid).hostOf kd i with
            | some q =>
              if q != p.dest && s.stubOpen p.lid kd i p.dest then happens (s.setPacket k (p.redirect q true s.clk))
              else happens ((s.dropPacket k).post p.vn 7 p.lid p.dest p.src .core none (.marker kd i true))
            | none => happens ((s.dropPacket k).post p.vn 7 p.lid p.dest p.src .core none (.marker kd i true))
        | _, some (kd, i) =>
          match (s.launch p.lid).hostOf kd i with
          | none => happens s
          | some q =>
            if q = p.dest || s.itemFirst p then happens s
            else happens (s.setPacket k (p.redirect q (s.stubOpen p.lid kd i p.dest) s.clk))
        | _, none => happens s

/-- A hold with one marker fewer. -/
def Hold.less (h : Hold) (kd : Kind) (i : Nat) : Option Hold :=
  if h.kind = kd && h.idx = i then (if h.markers ≤ 1 then none else some { h with markers := h.markers - 1 }) else some h

/-- MARKER_RETURN. -/
def execMarkerReturn (k : Nat) (s : State) : Host.Outcome State Fault Refusal :=
  match s.landed k with
  | none => happens s
  | some p =>
    match p.body with
    | .marker kd i true => happens ((s.dropPacket k).modCore p.dest (fun c => { c with holds := c.holds.filterMap (fun h => h.less kd i) }))
    | _ => happens s

/-- STUB_CLOSE. -/
def execStubClose (k : Nat) (s : State) : Host.Outcome State Fault Refusal :=
  match s.stubs[k]? with
  | none => happens s
  | some t => if s.clk < t.closes then happens s else happens { s with stubs := dropNth k s.stubs }

/-! ## rolew (R447) -/

/-- A privileged instruction outside a hall controller is one that no scanned code holds: CODE_SCAN (R305). -/
def State.needPrivilege (s : State) : Res Unit :=
  let va := s.cx.pc.toNat
  let pa := match s.cc.tlbFind s.lid va with | some e => e.phys va | none => va
  trapIf (!s.isHallCtl s.cur.core) clsCodeScan (scanDetail (unitOf pa) (pa / 4096 % 16) (pa % 4096 / 2)).toNat

/-- rolew: the entry is written and the re-map sent; the context goes on when every core has applied it. -/
def execRolew (a : Args) (s : State) : Host.Outcome State Fault Refusal :=
  conclude s do
    s.needPrivilege
    let (v, w, t) ← s.operands2 .b a.s1 a.s2 []
    let lid := hdrField v.v 22 6
    let k := kindOf (hdrField v.v 20 2)
    let i := hdrField v.v 0 20
    let p := if w.v.getLsbD 19 then none else some (hdrField w.v 0 19)
    let t := (t.modLaunch lid (fun l => { l with generation := l.generation + 1 })).writeMap (hallOf s.cur.core) lid k i p
    .ok (t.advance.parkCur (.remap lid (t.launch lid).generation))

end Sys2Proof.Machine
end

