-- ==== Sys2Proof/Machine/System.lean ====
section
/-! DEFINITION. Context save and restore (spec 20 R443–R445), the privileged tlbi and pwrc (R446, R448), and the power block with
its events: droop, throttle, governor, thermal trip (spec 01 R20–R26, spec 05 R98). -/

namespace Sys2Proof.Machine
open Sys2Proof

/-! ## ctxsv and ctxld (R443–R445) -/

/-- The image range lies in the issuing tile's own local SRAM, outside the L1 ways (R443). -/
def State.imageOk (s : State) (va : Nat) : Bool :=
  let off := va % 2 ^ 24
  va / 2 ^ 44 == 0xF && va / 2 ^ 24 % 2 ^ 20 == s.tileL && off + 640 ≤ Config.sramBytes
    && (s.cc.l1Ways == 0 || 0x8000 ≤ off || off + 640 ≤ (8 - s.cc.l1Ways) * 0x1000)

/-- The checks of an image (R443). -/
def State.checkImage (s : State) (c : TagVal) (write : Bool) : Res Unit := do
  let va := capCursor c.v
  trapIf (!c.tag || (write && !capW c.v) || (!write && !capR c.v)) clsCapability va
  trapIf (!capCovers c.v va 640) clsBounds va
  trapIf (!s.imageOk va) clsCommand 3
  trapIf (va % 16 != 0) clsCommand 12
  trapIf (!s.cx.streams.isEmpty) clsCommand 13

/-- No result is in flight to a register of the context (R175). -/
def State.noShadows (s : State) : Res Unit :=
  match (span 0 32).find? (fun n => s.inShadow (BitVec.ofNat 6 n)) with
  | some n => .error (.park s (.shadow (BitVec.ofNat 6 n)))
  | none => .ok ()

/-- A register as an image holds it: PENDING is POISONED CANCELLED (R444). -/
def Reg.saved (r : Reg) : Reg := if r.state = .pending then Reg.poison pzCancelled else r

/-- The metadata of a register in an image (Table 20-9). -/
def Reg.metaWord (r : Reg) : Nat :=
  (if r.tag then 2 ^ 10 else 0) + (match r.state with | .full => 0 | .pending => 1 | .poisoned => 2) * 2 ^ 8
    + (if r.state = .poisoned then r.code.toNat else 0)

/-- Saves register n of the current context at an image in local SRAM. One that is PENDING leaves that state: it is POISONED CANCELLED,
and its delivery is discarded (R173, R444). -/
def State.saveReg (s : State) (off : Nat) (capc : Bool) (n : Nat) : State :=
  let r := s.cx.reg n
  let m := r.saved
  let s := if r.state = .pending then (s.abandon s.cur.core s.cur.ctx n r.ticket).modCx (fun x => x.setReg n m) else s
  let pa := sramPa s.cur.core off
  (s.storeHome (pa + 16 * n) (natBytes 16 m.read.v.toNat) [] (some (m.read.tag && capc))).storeHome (pa + 0x200 + 4 * n)
    (natBytes 4 m.metaWord) [] none

/-- The context goes on 40 of its clk later (R443). -/
def State.advanceHeld (s : State) : State := s.advance.parkCur (.untilClk (s.clk + s.delay s.cur.core 40))

/-- ctxsv: a POISONED c does not trap; it reads zero, untagged, which is CAPABILITY (Table 9-3, R443). -/
def execCtxsv (cancel : Bool) (a : Args) (s : State) : Host.Outcome State Fault Refusal :=
  conclude s do
    s.meetMask (srcMeet a.s1)
    let (c, _) := s.takeSrc .b a.s1
    s.checkImage c true
    s.noShadows
    parkIf (!cancel && !(s.cx.masked (BitVec.allOnes 32) true).isEmpty) s (.allDone (BitVec.allOnes 32))
    .ok (((span 0 32).foldl (fun s n => s.saveReg (capCursor c.v % 2 ^ 24) (capC c.v) n) s).popSrcs [a.s1]).advanceHeld

/-- The register that an image's metadata, value and granule tag give (R445). -/
def imageReg (m : Nat) (v : W128) (granTag capc : Bool) : Reg :=
  let code := BitVec.ofNat 8 (m % 256)
  match m / 2 ^ 8 % 4 with
  | 0 => Reg.full ⟨v, m / 2 ^ 10 % 2 == 1 && granTag && capc⟩
  | 2 => if 1 ≤ m % 256 && m % 256 ≤ 10 then Reg.poison code else Reg.poison pzCancelled
  | _ => Reg.poison pzCancelled

/-- Register n of an image of the current core. -/
def State.loadReg (s : State) (off : Nat) (capc : Bool) (n : Nat) : Reg :=
  let pa := sramPa s.cur.core off
  imageReg (bytesNat (Memory.readN s.mem (pa + 0x200 + 4 * n) 4)) (BitVec.ofNat 128 (bytesNat (Memory.readN s.mem (pa + 16 * n) 16)))
    (s.tagOf (pa + 16 * n)) capc

/-- ctxld. -/
def execCtxld (a : Args) (s : State) : Host.Outcome State Fault Refusal :=
  conclude s do
    let (c, t) ← s.operand1 .b a.s1 []
    let ds := (span 0 32).map (fun n => Meet.dst (BitVec.ofNat 6 n))
    checkAll (s.meetState ds) ds
    s.checkImage c false
    let off := capCursor c.v % 2 ^ 24
    .ok ((span 0 32).foldl (fun (t : State) n => t.modCx (fun x => x.setReg n (s.loadReg off (capC c.v) n))) t).advanceHeld

/-! ## tlbi (R446) -/

/-- An entry that a tlbi of a span invalidates. -/
def tlbiHits (sp : Span) (v : W64) (e : TlbEntry) : Bool :=
  let lid := (v.extractLsb' 48 6).toNat
  match sp with
  | .page => e.maps lid (v.toNat % 2 ^ 48 / 2 ^ 16 * 2 ^ 16)
  | .launch => e.lid == lid
  | .hall => true

/-- A walker's entry that a tlbi of a span invalidates: for a page, the entries of the launch that lead to it (R214, R446). -/
def tlbiHitsWalk (sp : Span) (v : W64) (e : WalkEntry) : Bool :=
  let lid := (v.extractLsb' 48 6).toNat
  match sp with
  | .page => e.lid == lid && e.top == v.toNat % 2 ^ 48 / 2 ^ 16 * 2 ^ 16 / 2 ^ e.shift
  | .launch => e.lid == lid
  | .hall => true

/-- The entries of every core and walker of a hall that a tlbi hits are gone. -/
def State.dropTlb (s : State) (hall : Nat) (sp : Span) (v : W64) : State :=
  let t : State := { s with cores := s.cores.map (fun (e : Nat × Core) =>
    if hallOf e.1 = hall then (e.1, { e.2 with tlb := e.2.tlb.filter (fun x => !tlbiHits sp v x) }) else e) }
  t.modHall hall (fun h => { h with walkers := h.walkers.map (fun (e : Nat × List WalkEntry) =>
    (e.1, e.2.filter (fun x => !tlbiHitsWalk sp v x))) })

/-- tlbi: in every core and walker of the issuing hall. -/
def execTlbi (sp : Span) (a : Args) (s : State) : Host.Outcome State Fault Refusal :=
  conclude s do
    s.needPrivilege
    let (v, t) ← s.operand1 .b a.s1 []
    .ok (t.dropTlb (hallOf s.cur.core) sp (low64 v.v)).advance

/-! ## The power block (R21, R25, Tables 1-3, 1-4) -/

/-- HALVED. -/
def State.halvedBits (s : State) : BitVec 16 := BitVec.ofNat 16 (((span 0 16).map (fun g => if s.halved g then 2 ^ g else 0)).sum)
/-- PWR_STEP as read. -/
def State.stepWord (s : State) : W64 := s.stepA.setWidth 64
/-- PWR_DROOP as read. -/
def State.droopWord (s : State) : W64 := (s.alarm ++ s.halvedBits).setWidth 64
/-- A write of PWR_STEP. -/
def State.writeStep (s : State) (v : W64) : State := { s with stepA := v.extractLsb' 0 16 }
/-- A write of PWR_DROOP: ALARM is W1C, HALVED ignores it. -/
def State.writeDroop (s : State) (v : W64) : State := { s with alarm := s.alarm &&& ~~~(v.extractLsb' 16 16) }

/-- pwrc (R448). -/
def execPwrc (droop : Bool) (a : Args) (s : State) : Host.Outcome State Fault Refusal :=
  conclude s do
    s.needPrivilege
    let (v, t) ← s.operand1 .b a.s1 [.dst a.d]
    let w := (low64 v.v).extractLsb' 0 32
    let old := if droop then s.droopWord else s.stepWord
    let t := if droop then t.writeDroop (w.setWidth 64) else t.writeStep (w.setWidth 64)
    .ok (t.writeD a.d ⟨reg64 old, false⟩).advance

/-- Changes a power group. -/
def State.modGroup (s : State) (g : Nat) (f : PowerGroup → PowerGroup) : State := { s with groups := putAt g (f (s.group g)) s.groups }

/-- Changes the clk at which the waits of a core's own clk end. -/
def Core.retime (c : Core) (f : Nat → Nat) : Core :=
  let park : Option Park → Option Park := fun p => match p with
    | some (.untilClk k) => some (.untilClk (f k))
    | p => p
  { c with
    ctxs := c.ctxs.map (fun (e : Nat × Ctx) => (e.1, { e.2 with park := park e.2.park, first := f e.2.first }))
    nextIssue := f c.nextIssue, nextAdmit := f c.nextAdmit, backoff := c.backoff.map f, divBusy := f c.divBusy, wbNext := f c.wbNext
    shadows := c.shadows.map (fun h => { h with ready := f h.ready })
    mqueue := c.mqueue.map (fun m => { m with earliest := f m.earliest, finish := m.finish.map f })
    slots := c.slots.map (fun (e : Nat × Nat) => (e.1, f e.2)) }

/-- Changes the clk at which what a column's clock times ends: its licence's handover and its landing's next slot. -/
def Column.retime (c : Column) (f : Nat → Nat) : Column :=
  { c with lic := { c.lic with handover := c.lic.handover.map (fun h => (h.1, f h.2)) }, nextSlot := f c.nextSlot }

/-- What a message waits for that counts the own clk of a power group, as the group's clock changes from `s` to `t`: its injection or its
answer's access, a hop whose slower router the group has become or has been, and its ejection. What a gallery block times counts reference
clk (R211). -/
def State.retimePacket (s t : State) (pg : Nat) (f : Nat → Nat) (p : Packet) : Packet :=
  let here := groupOf p.pos == pg
  let prev := stepFrom p.pos p.face
  let hop := p.hops != 0 && p.face < 5 && (here || groupOf prev == pg)
    && !(s.group (if here then groupOf prev else groupOf p.pos)).halvedAt s.clk || p.hops != 0 && p.face < 5 && here && groupOf prev == pg
  let start := p.hops == 0 && p.pos == p.src && here && p.face != 7
  let ready := if hop || start then f p.ready else p.ready
  let ripe := if p.inner then ready
    else if here then (if s.clk < p.ready && ready = p.ready then t.ripens p p.pos ready else f p.ripe)
    else p.ripe + ready - p.ready
  { p with ready := ready, ripe := ripe, slow := p.slow || p.ready < ready }

/-- A power group's clock changes, and every wait that counts its own clk is retimed (R21, R465): those of its cores and columns, and those
of messages. -/
def State.retimeGroup (s : State) (pg : Nat) (f : Nat → Nat) (g : PowerGroup → PowerGroup) : State :=
  let t := s.modGroup pg g
  { t with
    cores := s.cores.map (fun (e : Nat × Core) => if groupOf e.1 = pg then (e.1, e.2.retime f) else e)
    columns := s.columns.map (fun (e : Nat × Column) => if groupOf (2 * e.1) = pg then (e.1, e.2.retime f) else e)
    net := s.net.map (s.retimePacket t pg f) }

/-- The first clk of a throttle that starts now is the next one (R465). What ends later ends after twice the clk that are left. -/
def stretch (b k : Nat) : Nat := if b < k then 2 * k - b else k

/-- What ends after a throttle's end comes after half of the clk that are left. -/
def shrink (e k : Nat) : Nat := if e < k then e + (k - e + 1) / 2 else k

/-- DROOP_ALARM: from the next clk the group's clock is halved, for 4,096 reference clk (R21, R465); an alarm while it is halved restarts
the count. -/
def execDroopAlarm (pg : Nat) (s : State) : Host.Outcome State Fault Refusal :=
  if 16 ≤ pg then happens s
  else
    let b := s.clk + 1
    let t :=
      if (s.group pg).until_.isSome then s.modGroup pg (fun g => { g with until_ := some (b + 4096) })
      else s.retimeGroup pg (stretch b) (fun g => { g with until_ := some (b + 4096), since := b })
    happens { t with alarm := s.alarm ||| BitVec.ofNat 16 (2 ^ pg) }

/-- THROTTLE_END. -/
def execThrottleEnd (pg : Nat) (s : State) : Host.Outcome State Fault Refusal :=
  match (s.group pg).until_ with
  | some t =>
    if s.clk < t then happens s
    else
      let lost := (s.clk - (s.group pg).since + 1) / 2
      happens { s.settleLinks.retimeGroup pg (shrink s.clk) (fun g => { g with until_ := none, since := 0, lost := g.lost + lost }) with
        throttleEnded := some s.clk }
  | none => happens s

/-- A hall's sensor reads a temperature: the governor's steps are set at 95 and 100, and lifted at 90 and 95 (R98). -/
def State.readTemp (s : State) (hall temp : Nat) : State :=
  s.modHall hall (fun h =>
    { h with temp := temp
             gate95 := 95 ≤ temp || (h.gate95 && 90 < temp)
             gate100 := 100 ≤ temp || (h.gate100 && 95 < temp)
             hotSince := if 100 ≤ temp then some (h.hotSince.getD s.clk) else none })

/-- One clk in how many the cores of a hall may issue (R98). -/
def Hall.gating (h : Hall) : Nat := if h.gate100 then 4 else if h.gate95 then 2 else 1

/-- A launch that runs: it holds its region's cores. -/
def Launch.holdsRegion (l : Launch) : Bool := l.phase != .saved

/-- A thermal trip of a hall: a fault of every running launch whose region it touches (R26). -/
def State.tripHall (s : State) (hall : Nat) : State :=
  (s.launches.filter (fun e => e.2.holdsRegion && (s.launchHalls e.1).contains hall)).foldl
    (fun (t : State) e => t.faultAsync e.1 clsThermal 0 0 (BitVec.ofNat 64 (hall % 32 * 32 + hall / 32))) s

/-- GOVERNOR_GATE: a reading of a hall's sensor; one of 105 degrees C or more is a thermal trip as well (R26, R98). -/
def execGovernorGate (hall temp : Nat) (s : State) : Host.Outcome State Fault Refusal :=
  if 1024 ≤ hall then happens s
  else
    let t := s.readTemp hall temp
    happens (if 105 ≤ temp then t.tripHall hall else t)

/-- THERMAL_TRIP: a hall reaches 105 degrees C. -/
def execThermalTrip (hall : Nat) (s : State) : Host.Outcome State Fault Refusal :=
  if 1024 ≤ hall then happens s else happens ((s.readTemp hall (Nat.max 105 (s.hall hall).temp)).tripHall hall)

end Sys2Proof.Machine
end

