-- ==== Sys2Proof/Machine/Teardown.lean ====
section
/-! DEFINITION. How a launch ends: what its stores in flight come to (R65), what the W7 discards (R64, R270), its records
(R62–R64, R267), and the freeze of a fault under debug (R273). -/

namespace Sys2Proof.Machine
open Sys2Proof

/-! ## Stores in flight (R65) -/

/-- What a free value decides: the change is made, or it is not (assumption log 2). -/
def State.perhaps (s : State) (f : State → State) : State :=
  let (v, t) := s.draw
  if v.getLsbD 0 then f t else t

/-- An access that has not reached its home: a store of it is performed whole or not at all. -/
def State.settleReq (s : State) (r : Req) : State := if r.op.writes then s.perhaps (fun t => (t.perform r).1) else s

/-- Pieces of one store. -/
def Req.partOf (q r : Req) : Bool := q.core == r.core && q.whole == r.whole

/-- Stores on their way settle. The pieces of one store do so together: all are performed where one has been already (R65). -/
def State.settleReqs (s : State) (rs : List Req) (fuel : Nat) : State :=
  match fuel, rs with
  | f + 1, r :: rest =>
    match r.whole with
    | none => (s.settleReq r).settleReqs rest f
    | some (_, n) =>
      let mine := (r :: rest).filter (fun q => q.partOf r)
      let all (t : State) : State := mine.foldl (fun (t : State) q => (t.perform q).1) t
      let t := if (mine.filter (fun q => q.done.isNone)).length = n then s.perhaps all else all s
      t.settleReqs (rest.filter (fun q => !q.partOf r)) f
  | _, _ => s

/-- The accesses of a launch that are on their way: in the network, and in the tables of landings and edge controllers. -/
def State.reqsInFlight (s : State) (lid : Nat) : List Req :=
  (s.net.filterMap (fun p => match p.body with | .access r => some r | _ => none)
    ++ s.columns.flatMap (fun (e : Nat × Column) => e.2.stairQ ++ e.2.table.map (fun x => x.req))
    ++ s.edges.flatMap (fun (e : Nat × EdgeCtl) => e.2.table)).filter (fun r => r.lid == lid)

/-- The dirty sectors of a core's L1, as their write-backs. -/
def Core.dirtyReqs (c : Core) (core : Nat) : List Req :=
  let (lid, tile) := c.who
  c.l1.flatMap (fun l => l.writeBacks core ctxAny lid tile 0)

/-- Shadowed pieces of one store. -/
def Shadow.partOf (h k : Shadow) : Bool := h.store.isSome && h.ctx == k.ctx && h.pc == k.pc && h.ready == k.ready

/-- Shadowed local stores that have not landed settle, the pieces of one together; one whose other pieces have been sent to other homes is
performed, as they are (R65). -/
def State.settleShadowsOf (s : State) (core : Nat) (hs : List Shadow) (fuel : Nat) : State :=
  match fuel, hs with
  | f + 1, h :: rest =>
    let mine := (h :: rest).filter (fun k => k.partOf h)
    let all (t : State) : State := mine.foldl (fun (t : State) k =>
      match k.store with | some (pa, bs, tag) => t.storeHome pa bs [] tag | none => t) t
    let t :=
      if h.store.isNone then s
      else if (s.core core).shadows.any (fun k => k.away.isSome && k.ctx == h.ctx && k.pc == h.pc) then all s
      else s.perhaps all
    t.settleShadowsOf core (rest.filter (fun k => !k.partOf h)) f
  | _, _ => s

/-- The shadowed local stores of a core that have not landed. -/
def State.settleShadows (s : State) (core : Nat) : State :=
  s.settleShadowsOf core (s.core core).shadows (s.core core).shadows.length

/-- The pieces that a core's copy engine has read and not written: each is written, or is not. -/
def State.settleFlight (s : State) (core lid : Nat) (c : CopyCmd) (fuel : Nat) : State :=
  match fuel, c.flight with
  | f + 1, p :: rest =>
    let t := if p.wrote.isSome then s else s.perhaps (fun t => (t.writePiece core lid { c with flight := [p] }).1)
    t.settleFlight core lid { c with flight := rest } f
  | _, _ => s

/-- The elements that an output stream has taken and not stored, up to four a store. -/
def State.settleStream (s : State) (core walk : Nat) (t : Stream) (fuel : Nat) : State :=
  match fuel with
  | 0 => s
  | f + 1 =>
    let k := Nat.min 4 t.buf.length
    if !t.out || t.failed || k = 0 then s
    else (s.perhaps (fun u => (u.storeStream core walk t k).1)).settleStream core walk { t with engine := t.engine + k, buf := t.buf.drop k } f

/-- A number of block additions for each element of C, each a free value from 0 to `k` (R270). -/
def blocksDone (free k e : Nat) : Nat := (Config.draw64 (free + e)).toNat % (k + 1)

/-- The running mmac or mrmt of a core stops at a block boundary: each element of C has had a free number of its additions. -/
def State.stopMultiply (s : State) (core : Nat) (m : MCmd) (ca cc : W128) (input : MatIn) : State :=
  let n := blocksDone s.free (matK (capTy ca) / 32)
  match ({ s with free := s.free + 1024 } : State).runMatrix core input cc m.sig n with
  | .ok (t, _) => t
  | _ => s

/-- The codes of a block of 32 elements have come for an mbld. -/
def Join.blockCame (j : Join) (cap : W128) (b : Nat) : Bool :=
  let here (o : Nat) : Bool := j.buf.any (fun x => x.1 == o)
  (span (32 * b) 32).all (fun e => here (elemBit cap e / 8) && here ((elemBit cap e + (capTy cap).bits - 1) / 8))

/-- The running mbld of a core stops: a free number of the blocks of 32 elements that have come for it stand in the bank's SRAM. -/
def State.stopLoad (s : State) (core k : Nat) (m : MCmd) (cap : W128) : State :=
  match m.join.bind (s.core core).join? with
  | none => s
  | some j =>
    let n := 64 * matK (capTy cap)
    let came := ((span 0 (n / 32)).takeWhile (j.blockCame cap)).length
    let (v, s) := s.draw
    if s.bankDamaged core k then s
    else s.storeHome (sramPa core (bankOff k)) (bankBytes cap (j.bytes cap n) (32 * (v.toNat % (came + 1)))) [] none

/-- The running matrix command of a core stops at its next block boundary (R270). -/
def State.stopMatrix (s : State) (core : Nat) : State :=
  let c := s.core core
  match c.mqueue with
  | [] => s
  | m :: _ =>
    if m.finish.isNone then s
    else
      match m.op with
      | .mbld k cap _ _ => s.stopLoad core k m cap
      | .mmac ca cc fmc =>
        if !(c.bank c.mcfgBank).loaded then s
        else match s.matOwn core ca (16 * matK (capTy ca)) with
          | .ok buf => s.stopMultiply core m ca cc (s.matIn core c.mcfgBank (capTy ca) fmc (codeIn ca buf) (scaleIn ca buf))
          | _ => s
      | .mrmt ca cc fmc =>
        if m.failed || !(c.bank c.mcfgBank).loaded then s
        else
          let codes := m.codes.toArray
          let scales := m.scales.toArray
          s.stopMultiply core m ca cc (s.matIn core c.mcfgBank (capTy ca) fmc
            (fun e => (codes.getD (2 * e) 0).toNat + 256 * (codes.getD (2 * e + 1) 0).toNat) (fun b => (scales.getD b 127).toNat))
      | _ => s

/-- The stores that the engines of a core had taken and not sent. -/
def State.settleEngines (s : State) (lid core : Nat) : State :=
  let c := s.core core
  let s := c.copyQ.foldl (fun (s : State) k => s.settleFlight core lid k 16) s
  let s := (c.ctxs.flatMap (fun (x : Nat × Ctx) => x.2.streams.map (fun e => (walkStream x.1 e.1, e.2)))).foldl
    (fun (s : State) t => s.settleStream core t.1 t.2 2) s
  c.closing.foldl (fun (s : State) k => s.settleStream core (walkClosing k.ctx k.reg) k.stream 2) s

/-- What the matrix unit, the shadows and the L1 of a core had not finished. -/
def State.settleCore (s : State) (lid core : Nat) : State :=
  let c := s.core core
  let rs := (c.dirtyReqs core).filter (fun r => r.lid == lid)
  ((s.stopMatrix core).settleShadows core).settleReqs rs rs.length

/-- The accesses of a launch that are on their way are gone. -/
def State.dropReqs (s : State) (lid : Nat) : State :=
  { s with
    net := s.net.filter (fun p => !(match p.body with | .access r => r.lid == lid | _ => false))
    columns := s.columns.map (fun (e : Nat × Column) =>
      (e.1, { e.2 with stairQ := e.2.stairQ.filter (fun r => r.lid != lid), table := e.2.table.filter (fun x => x.req.lid != lid) }))
    edges := s.edges.map (fun (e : Nat × EdgeCtl) => (e.1, { e.2 with table := e.2.table.filter (fun r => r.lid != lid) })) }

/-- Every store that a launch had not performed when it ended is performed, or is not, as free values decide (R65). -/
def State.settleStores (s : State) (lid : Nat) : State :=
  let s := (s.launch lid).cores.foldl (fun (s : State) p => s.settleEngines lid p) s
  let t := (s.settleReqs (s.reqsInFlight lid) (s.reqsInFlight lid).length).dropReqs lid
  (s.launch lid).cores.foldl (fun (s : State) p => s.settleCore lid p) t

/-! ## What the W7 discards (R64, R270) -/

/-- A core without what belongs to a launch; a core that hosted it is idle. -/
def Core.forget (c : Core) (lid : Nat) : Core :=
  let mine := match c.role with
    | .host l _ _ => l == lid
    | .idle => false
  let c := if mine then { c.bare with tickets := [] } else c
  { c with pit := c.pit.filter (fun e => e.lid != lid), dir := c.dir.filter (fun e => e.lid != lid)
           cache := c.cache.filter (fun e => e.lid != lid), seals := c.seals.filter (fun e => e.lid != lid)
           sigs := c.sigs.filter (fun e => e.lid != lid), watches := c.watches.filter (fun e => e.lid != lid)
           tlb := c.tlb.filter (fun e => e.lid != lid) }

/-- A column without what belongs to a launch. -/
def Column.forget (c : Column) (lid : Nat) : Column :=
  { c with stairQ := c.stairQ.filter (fun r => r.lid != lid), table := c.table.filter (fun e => e.req.lid != lid)
           sigs := c.sigs.filter (fun e => e.lid != lid), watches := c.watches.filter (fun e => e.lid != lid) }

/-- An edge controller without what belongs to a launch. -/
def EdgeCtl.forget (c : EdgeCtl) (lid : Nat) : EdgeCtl :=
  { c with table := c.table.filter (fun r => r.lid != lid), sigs := c.sigs.filter (fun e => e.lid != lid)
           watches := c.watches.filter (fun e => e.lid != lid) }

/-- A hall controller without what belongs to a launch. -/
def Hall.forget (h : Hall) (lid : Nat) : Hall :=
  { h with walkers := h.walkers.map (fun (w : Nat × List WalkEntry) => (w.1, w.2.filter (fun e => e.lid != lid)))
           leases := h.leases.filter (fun e => e.lid != lid), tallies := dropAt lid h.tallies
           deferred := match h.deferred with
             | some d => if d.lid = lid then none else some d
             | none => none
           combined := h.combined.filter (fun e => e.lid != lid), waits := h.waits.filter (fun w => w.lid != lid) }

/-- Everything in flight or at rest in the module that belongs to a launch is gone; the launch itself and its code marks stay. -/
def State.forgetParts (s : State) (lid : Nat) : State :=
  { s with
    net := s.net.filter (fun p => p.lid != lid)
    recasts := s.recasts.filter (fun r => r.dec.lid != lid)
    stubs := s.stubs.filter (fun t => t.lid != lid)
    cores := s.cores.map (fun (e : Nat × Core) =>
      (e.1, if s.recasts.any (fun r => r.dec.lid == lid && r.phase == .moved && r.dec.dst == e.1) then e.2.bare.forget lid else e.2.forget lid))
    columns := s.columns.map (fun (e : Nat × Column) => (e.1, e.2.forget lid))
    edges := s.edges.map (fun (e : Nat × EdgeCtl) => (e.1, e.2.forget lid))
    halls := s.halls.map (fun (e : Nat × Hall) => (e.1, e.2.forget lid)) }

/-- The licence of a column whose holder has gone: the twin that has a command for it takes it, else it is free (R126, R270). -/
def State.freeLic (s : State) (col : Nat) : State :=
  let s := s.modColumn col (fun c => { c with lic := { c.lic with handover := none, due := false, waitSince := [none, none] } })
  match (s.column col).lic.holder with
  | some z => s.passLic col z
  | none => s

/-- The launch's cores are idle, its licences pass, its LID is free (DESIGN CHOICE, assumption log 96: from here on, though its final record
may still wait for the ring), and every time-triggered entry has lost sight of it. -/
def State.forget (s : State) (lid : Nat) : State :=
  let cols := s.regionCols (s.launch lid).record
  let t := s.forgetParts lid
  let t := cols.foldl (fun (t : State) c => t.freeLic c) t
  { t with launches := dropAt lid t.launches
           codeMarks := t.codeMarks.filter (fun m => m.2 != lid)
           tt := t.tt.map (fun (e : Nat × TTEntry) => (e.1, { e.2 with lids := e.2.lids.filter (fun x => x != lid) })) }

/-! ## The records of an end (R63, R64, R72) -/

/-- The completion record of a launch. TEND is the time at which the record is made, also where it then waits for room in the ring
(assumption log 39). -/
def Launch.crec (l : Launch) (lid : Nat) (st : Status) (now : W64) : CRec :=
  { tag := l.record.tag, src := l.src, lid := lid, status := st, entry := l.entry, tstart := l.tstart, tend := now, grant := l.grant
    tasks := l.tasks, irq := l.record.irq }

/-- PREEMPT finishes with a result and signals vector 18 (R70). -/
def State.preemptDone (s : State) (result : BitVec 3) : State :=
  { s with cmd := { s.cmd with preResult := result, preGo := false } }.vector 18

/-- A pending pre-emption of a launch that ends otherwise is NOT_RUNNING (R72). -/
def State.cancelPreempt (s : State) (lid : Nat) : State :=
  if s.cmd.preGo && s.cmd.preLid.toNat = lid then s.preemptDone 2 else s

/-- The records of an end, the fault's first where there is one. -/
def State.endRecords (s : State) (r : CRec) (f : Option FaultInfo) : State :=
  match f with
  | some f => (s.record { r with fault := some f }).record r
  | none => s.record r

/-- THE END OF A LAUNCH BY FAULT, ABORT OR TURNOVER (R64, R65, R270): its stores in flight settle, everything else of it is
discarded, and its records wait for the ring. -/
def State.tearDown (s : State) (lid : Nat) (st : Status) (f : Option FaultInfo) : State :=
  match s.launch? lid with
  | none => s
  | some l => ((((s.settleStores lid).forget lid).endRecords (l.crec lid st s.time) f)).cancelPreempt lid

/-! ## The freeze (R273) -/

/-- A message that a re-cast of a launch holds: it has arrived at the old host of a target in drain or move (R93). -/
def State.heldByRecast (s : State) (lid : Nat) (p : Packet) : Bool :=
  p.lid == lid && p.pos == p.dest && s.holdsItems p.dest
    && s.recasts.any (fun r => r.dec.lid == lid && r.dec.src == p.dest && r.dec.old.isSome && p.target == r.dec.old)

/-- The tickets whose registers are pending on a message, with their core. -/
def State.pendingOn (s : State) (p : Packet) : List (Nat × BitVec 16) :=
  match p.body with
  | .access r =>
    (r.ticket.toList ++ ((s.core r.core).joins.filter (fun j => r.op == .load && j.id == r.join)).filterMap (fun j => j.ticket)).map
      (fun t => (r.core, t))
  | .interest i =>
    (i.ticket.toList ++ ((s.core i.core).wants.filter (fun w => w.name == i.name)).map (fun w => w.ticket)).map (fun t => (i.core, t))
  | .train t => t.ticket.toList.map (fun x => (t.core, x))
  | .barWait w =>
    let ws := match w.hall with | some h => (s.hall h).waits.filter w.same | none => []
    (w :: ws).flatMap (fun w => w.ticket.toList.map (fun t => (w.core, t)))
  | _ => []

/-- The re-casts of a launch are abandoned, with the messages they held, whose registers become POISONED RECAST (R97, R273). -/
def State.abandonRecasts (s : State) (lid : Nat) : State :=
  let held := s.net.filter (s.heldByRecast lid)
  let t := (held.flatMap s.pendingOn).foldl (fun (t : State) e => t.poison e.1 e.2 pzRecast) s
  { t with net := t.net.filter (fun p => !s.heldByRecast lid p), recasts := t.recasts.filter (fun r => r.dec.lid != lid) }

/-- A core whose contexts' loop stacks are empty (R339). -/
def Core.noLoops (c : Core) : Core := { c with ctxs := c.ctxs.map (fun x => (x.1, { x.2 with loops := [] })) }

/-- A fault under a session with FHALT: a halt in place of the teardown (R273), with the loop stacks empty (R339). -/
def State.freeze (s : State) (lid : Nat) : State :=
  let s := (s.launch lid).compute.foldl (fun (s : State) p => s.modCore p Core.noLoops) s
  (((s.haltLaunch lid).abandonRecasts lid).modLaunch lid (fun l => { l with frozen := true })).cancelPreempt lid

/-- THE FAULT OF A LAUNCH TAKES EFFECT, once the clk in which it was recorded has ended (R64, R266, R273). -/
def State.settleFault (s : State) (lid : Nat) : State :=
  let l := s.launch lid
  match l.fault with
  | none => s
  | some (c, f) =>
    if l.frozen || s.clk ≤ c then s
    else
      let s := s.undoEnds lid c
      if s.armedFor lid && s.cmd.dbgFhalt then s.freeze lid else s.tearDown lid .fault (some f)

/-- Every launch's. -/
def State.settleFaults (s : State) : State := s.launches.foldl (fun (s : State) e => s.settleFault e.1) s

end Sys2Proof.Machine
end

