-- ==== Sys2Proof/Machine/Launch.lean ====
section
/-! DEFINITION. Launch records and their checks, the start arbiter, staggered admission, the end of a launch, pre-emption and
resume (spec 04 R55–R72, spec 01 R23, R24, spec 06 R121, R122, R126–R130). -/

namespace Sys2Proof.Machine
open Sys2Proof

/-! ## The launch record (Table 4-3) -/

/-- A 64-bit word of bytes. -/
def wordAt (bs : List Byte) (o : Nat) : Nat := bytesNat ((bs.drop o).take 8)

/-- A 128-bit value of bytes. -/
def wideAt (bs : List Byte) (o : Nat) : W128 := BitVec.ofNat 128 (bytesNat ((bs.drop o).take 16))

/-- A field of a 64-bit word of bytes. -/
def fieldAt (bs : List Byte) (o lo n : Nat) : Nat := wordAt bs o / 2 ^ lo % 2 ^ n

/-- Every reserved field of a record is zero. -/
def recordClean (bs : List Byte) : Bool :=
  fieldAt bs 0 24 8 == 0 && fieldAt bs 0 11 5 == 0 && fieldAt bs 0x10 60 4 == 0 && fieldAt bs 0x18 56 8 == 0
    && fieldAt bs 0x20 52 12 == 0 && fieldAt bs 0x28 60 4 == 0 && fieldAt bs 0x30 12 20 == 0 && fieldAt bs 0x38 14 18 == 0
    && (bs.drop 0x78).all (fun b => b == 0)

/-- The fields of a launch record's 256 bytes. -/
def parseRecord (bs : List Byte) : LRec :=
  let f (o lo n : Nat) : BitVec n := BitVec.ofNat n (fieldAt bs o lo n)
  { tag := f 0 32 32, rlid := f 0 16 8, dpool := f 0 10 1 == 1, irq := f 0 9 1 == 1, resume := f 0 8 1 == 1, ver := f 0 0 8
    clean := recordClean bs, h := f 8 48 16, w := f 8 32 16, fy := f 8 16 16, fx := f 8 0 16, nroute := f 0x10 40 20
    nstore := f 0x10 20 20, ncomp := f 0x10 0 20, sresv := f 0x18 36 20, nmin := f 0x18 16 20, cw := f 0x18 0 16
    ptroot := f 0x20 0 52, hcnt := f 0x28 48 12, htab := f 0x28 0 48, tlim := f 0x30 32 32, init := f 0x30 0 12
    seed := f 0x38 32 32, fmc := f 0x38 0 14, arg0 := wideAt bs 0x40, arg1 := wideAt bs 0x50, arg2 := wideAt bs 0x60
    notafter := f 0x70 0 64 }

/-- A launch that runs or is in staggered admission holds its region; a saved one does not (R61). -/
def Launch.sameRegion (r : LRec) (l : Launch) : Bool :=
  r.fx == l.record.fx && r.fy == l.record.fy && r.w == l.record.w && r.h == l.record.h

/-- The region lies inside the logical field (R18). -/
def State.regionInField (s : State) (r : LRec) : Bool :=
  1 ≤ r.w.toNat && 1 ≤ r.h.toNat && r.fx.toNat + r.w.toNat ≤ fieldWidth s.mb.grade && r.fy.toNat + r.h.toNat ≤ 512

/-- With RESUME: RLID names a saved launch of the same region (Table 4-4). -/
def State.resumable (s : State) (r : LRec) : Bool :=
  match s.launch? r.rlid.toNat with
  | some l => l.phase == .saved && Launch.sameRegion r l
  | none => false

/-- The head checks, in the order of Table 4-4: the status and DETAIL of the first that fails. A resume record's ignored
fields are not checked (R60). -/
def State.headCheck (s : State) (r : LRec) : Option (Status × BitVec 8) :=
  if r.ver != 1 || !r.clean || (r.rlid != 0 && !r.resume) then some (.badRecord, 1)
  else if s.mb.grade == 0 then some (.gradeNone, 0)
  else if !s.regionInField r || (!r.resume && (r.nmin == 0 || r.ncomp < r.nmin || r.nstore < r.sresv)) then some (.badRecord, 2)
  else if r.tlim == 0 || (!r.resume && (r.ptroot.extractLsb' 0 12 != 0 || r.hcnt < r.init)) then some (.badRecord, 3)
  else if r.resume && !s.resumable r then some (.badRecord, 4)
  else none

/-! ## Candidates (R61) -/

/-- The record of a candidate that does not start: no LID, TSTART 0 (R59). -/
def unstarted (r : LRec) (src entry : Nat) (st : Status) (detail : BitVec 8) (now : W64) : CRec :=
  { tag := r.tag, src := src, status := st, detail := detail, entry := entry, tend := now, irq := r.irq }

/-- A candidate: its source, 16 for the time-triggered table, its entry there, and its record. -/
structure Candidate where
  src : Nat
  entry : Nat := 0
  record : LRec
  deriving DecidableEq, Repr

/-- The candidates in the order in which the arbiter takes them. -/
def State.candidates (s : State) : List Candidate :=
  s.tt.filterMap (fun (e : Nat × TTEntry) => e.2.cand.map (fun r => ({ src := 16, entry := e.1, record := r } : Candidate)))
    ++ ((span 1 16).map (fun i => (s.cmd.lastQueue + i) % 16)).filterMap (fun q =>
      (s.queue q).latched.map (fun r => ({ src := q, record := r } : Candidate)))

/-- Two regions have a column in common. -/
def regionsMeet (a b : LRec) : Bool :=
  a.fx.toNat < b.fx.toNat + b.w.toNat && b.fx.toNat < a.fx.toNat + a.w.toNat
    && a.fy.toNat < b.fy.toNat + b.h.toNat && b.fy.toNat < a.fy.toNat + a.h.toNat

/-- LIDs that no launch holds. -/
def State.freeLids (s : State) : List Nat := (span 0 64).filter (fun n => (s.launch? n).isNone)

/-- A candidate could start now: a LID is free, and its region overlaps no launch that holds its own (R61). A resume waits for a
free LID like any start (R129), though it takes none (R71). -/
def State.couldStart (s : State) (c : Candidate) : Bool :=
  !s.freeLids.isEmpty && !s.launches.any (fun e => e.2.holdsRegion && regionsMeet e.2.record c.record)

/-- The candidate consumed. -/
def State.consume (s : State) (c : Candidate) : State :=
  if c.src = 16 then s.modTt c.entry (fun e => { e with cand := none })
  else
    let t := s.modQueue c.src (fun q => { q with head := q.head + 1, latched := none })
    { t with cmd := { t.cmd with lastQueue := c.src } }

/-- GRANT of a completion record (Table 4-5). -/
def grantWord (g : List Nat × List Nat × List (Option Nat)) : BitVec 60 :=
  BitVec.ofNat 20 (g.2.2.filterMap id).length ++ BitVec.ofNat 20 g.2.1.length ++ BitVec.ofNat 20 g.1.length

/-- The start checks (Table 4-4), for a resume also that its launch is still saved: status, DETAIL and the GRANT reported. -/
def State.startCheck (s : State) (r : LRec) : Option (Status × BitVec 8 × BitVec 60) :=
  let g := grantOf r (s.available r)
  if r.resume && !s.resumable r then some (.badRecord, 4, 0)
  else if !r.resume && g.1.length < r.nmin.toNat then some (.noFit, 0, grantWord g)
  else if r.notafter != 0 && r.notafter < s.time then some (.skipped, 0, 0)
  else none

/-! ## Starting (R23, R60, R61, R71, R129) -/

/-- The group rows that hold compute tiles, in the order of R23. -/
def groupRows (compute : List Nat) : List Nat := compute.foldl (fun l p => tagPut (rowOf p) l) []

/-- The seed of a core (Table 4-3). -/
def seedOf (base : BitVec 32) (l : Nat) : BitVec 32 :=
  let v := base ^^^ BitVec.ofNat 32 l
  if v = 0 then 1 else v

/-- A core at the start of a launch, in a role. -/
def Core.begin (c : Core) (r : LRec) (role : Role) (l pool routes : Nat) : Core :=
  { pit := c.pit, role := role, fmc := r.fmc, seed := seedOf r.seed l, tlimit := r.tlim, poolView := pool
    routesView := routes }

/-- Cores given a role each, by index. -/
def State.beginCores (s : State) (lid : Nat) (k : Kind) (r : LRec) (pool routes i : Nat) (ps : List (Option Nat)) : State :=
  match ps with
  | [] => s
  | none :: rest => s.beginCores lid k r pool routes (i + 1) rest
  | some p :: rest =>
    (s.modCore p (fun c => c.begin r (.host lid k i) i pool routes)).beginCores lid k r pool routes (i + 1) rest

/-- The columns of a region at a launch's start: twin windows FULL and zero, the licence free and never held. -/
def State.beginColumns (s : State) (cols : List Nat) : State :=
  cols.foldl (fun (s : State) k => s.modColumn k (fun c => { c with tw := [], lic := {}, lastMesh := true })) s

/-- A candidate starts: a fresh launch under a free LID, which one a free value decides (assumption log 2). -/
def State.beginLaunch (s : State) (c : Candidate) : State :=
  let r := c.record
  let (v, s) := s.draw
  let lids := s.freeLids
  let lid := lids.getD (v.toNat % lids.length) 0
  let g := grantOf r (s.available r)
  let (comp, pool, routing) := g
  let j := (routing.filterMap id).length
  let l : Launch :=
    { record := r, src := c.src, entry := c.entry, phase := .admission, rows := groupRows comp, nextStep := s.clk, startClk := s.clk
      tstart := s.time, grant := grantWord g, compute := comp, pool := pool, routing := routing, j0 := j, s0 := pool.length }
  let s := { s with launches := putAt lid l s.launches }
  let s := s.beginColumns (s.regionCols r)
  let s := s.beginCores lid .compute r pool.length j 0 (comp.map some)
  let s := s.beginCores lid .pool r pool.length j 0 (pool.map some)
  let s := s.beginCores lid .routing r pool.length j 0 routing
  if c.src = 16 then s.modTt c.entry (fun e => { e with lids := e.lids ++ [lid], fired := e.fired + 1 }) else s

/-- The leases of a saved launch run out what they had left (R85). -/
def State.restoreLeases (s : State) (lid : Nat) (ls : List Lease) : State :=
  ls.foldl (fun (s : State) e =>
    match (s.launch lid).hostOf e.kind e.idx with
    | some p => s.modHall (hallOf p) (fun h => { h with leases := h.leases ++ [{ e with expiry := s.clk + e.expiry }] })
    | none => s) s

/-- A directory entry as it is restored. -/
def DirEntry.restored (d : DirEntry) (clk : Nat) : DirEntry := if d.held then { d with expiry := clk + d.expiry } else d

/-- A saved launch resumes: its state is back in place, and its tiles wait for staggered admission (R71, R129). -/
def State.resumeSaved (s : State) (c : Candidate) : State :=
  let lid := c.record.rlid.toNat
  match (s.launch lid).saved with
  | none => s
  | some v =>
    let r := c.record
    let s := s.modLaunch lid (fun l =>
      { l with record := { l.record with tag := r.tag, irq := r.irq, tlim := r.tlim, notafter := r.notafter, resume := true }
               src := c.src, entry := c.entry, phase := .admission, rows := groupRows l.compute, nextStep := s.clk, startClk := s.clk
               tstart := s.time, tasks := 0, epochs := [], donations := [], combines := [], growEpoch := none, saved := none
               goAt := none, sigsFresh := true })
    let s := s.beginColumns (s.regionCols (s.launch lid).record)
    let s := v.twins.foldl (fun (s : State) e => s.modColumn e.1 (fun k => { k with tw := e.2 })) s
    let s := v.cores.foldl (fun (s : State) e =>
      (s.zeroRange (sramPa e.1 0) Config.sramBytes).modCore e.1 (fun k =>
        { e.2 with pit := k.pit, dir := e.2.dir.map (fun d => d.restored s.clk) })) s
    let s := { s with mem := v.bytes.foldl (fun m (b : Host.Cell) => Memory.write m b.1 b.2) s.mem, tags := v.tags.foldl (fun l g => tagPut g l) s.tags }
    let s := s.restoreLeases lid v.leases
    if c.src = 16 then s.modTt c.entry (fun e => { e with lids := e.lids ++ [lid], fired := e.fired + 1 }) else s

/-- A ring of 2^LOG2N entries (R62). -/
def Cmd.ringSize (c : Cmd) : Nat := if 6 ≤ c.log2n.toNat && c.log2n.toNat ≤ 16 then 2 ^ c.log2n.toNat else 64

/-- Room for a record: EN, and not full. -/
def Cmd.ringRoom (c : Cmd) : Bool := c.crEn && (c.crTail.toNat + 1) % c.ringSize != c.crHead.toNat

/-- The arbiter may start a candidate in this clk (R52, R61, R62). -/
def State.arbiterOpen (s : State) : Bool := s.mb.state == .ready && s.cmd.ringRoom && s.cmd.lastStart != some s.clk

/-- LAUNCH_START: the first candidate that could start is consumed, and starts if it passes the start checks (R59, R61). -/
def execLaunchStart (s : State) : Host.Outcome State Fault Refusal :=
  if !s.arbiterOpen then happens s
  else
    match s.candidates.find? s.couldStart with
    | none => happens s
    | some c =>
      let t := s.consume c
      let t : State := { t with cmd := { t.cmd with lastStart := some s.clk } }
      match s.startCheck c.record with
      | some (st, d, g) => happens (t.record { unstarted c.record c.src c.entry st d s.time with grant := g })
      | none => happens (if c.record.resume then t.resumeSaved c else t.beginLaunch c)

/-! ## Staggered admission (R23, R24) -/

/-- Group rows admitted at a step. -/
def State.stepRows (s : State) : Nat := Nat.max 1 (Nat.min 3520 s.stepA.toNat / 440)

/-- The next step of a start is due: no throttle runs, and one that ran when the step fell due ended 260 clk ago (R24). -/
def State.stepDue (s : State) (l : Launch) : Bool :=
  l.nextStep ≤ s.clk && !(span 0 16).any s.halved
    && (match s.throttleEnded with | some t => t ≤ l.nextStep || t + 260 ≤ s.clk | none => true)

/-- The initial task of a tile (R60). -/
def LRec.initial (r : LRec) (l : Nat) : Work :=
  { handler := r.init.toNat, src := 0, regs := [⟨r.arg0, false⟩, ⟨r.arg1, false⟩, ⟨r.arg2, false⟩, val64 l] }

/-- Group rows admitted: a fresh launch's initial tasks start on their tiles. -/
def State.admitRows (s : State) (lid : Nat) (rows : List Nat) : State :=
  let l := s.launch lid
  if l.record.resume then s
  else
    ((span 0 l.c).zip l.compute).foldl (fun (s : State) e =>
      if rows.contains (rowOf e.2) then s.startTask e.2 1 lid (l.record.initial e.1) else s) s

/-- STAGGER_STEP. -/
def execStaggerStep (lid : Nat) (s : State) : Host.Outcome State Fault Refusal :=
  match s.launch? lid with
  | none => happens s
  | some l =>
    if l.phase != .admission || !l.live || !s.stepDue l then happens s
    else
      let n := s.stepRows
      let rest := l.rows.drop n
      let t := s.modLaunch lid (fun l =>
        { l with rows := rest, nextStep := s.clk + 260, phase := if rest.isEmpty then .running else .admission })
      happens (t.admitRows lid (l.rows.take n))

/-! ## The end of a launch (R121, R122) -/

/-- A message of a launch other than those of named transactions. -/
def Packet.ofLaunch (p : Packet) (lid : Nat) : Bool := p.lid == lid && p.kind != 4 && p.kind != 5

/-- An access of a launch waits at a landing or an edge controller. -/
def State.tablesHold (s : State) (lid : Nat) : Bool :=
  s.columns.any (fun (e : Nat × Column) => e.2.stairQ.any (fun r => r.lid == lid) || e.2.table.any (fun x => x.req.lid == lid))
    || s.edges.any (fun (e : Nat × EdgeCtl) => e.2.table.any (fun r => r.lid == lid))

/-- A core has no task, no waiting work and no command left. -/
def Core.atRest (c : Core) : Bool :=
  c.ctxs.all (fun x => x.2.task.isNone) && c.shadows.isEmpty && c.lowQ.isEmpty && c.highQ.isEmpty && c.fifo.isEmpty && c.deque.isEmpty
    && c.spill.isEmpty && c.copyQ.isEmpty && c.mqueue.isEmpty && c.closing.isEmpty && c.outs.isEmpty && !c.stealOut

/-- The conditions of R121. -/
def State.workDone (s : State) (lid : Nat) : Bool :=
  let l := s.launch lid
  l.live && l.rows.isEmpty && (l.phase == .running || l.phase == .quiescing) && l.cores.all (fun p => (s.core (s.nowAt p)).atRest)
    && !s.net.any (fun p => p.ofLaunch lid) && !s.tablesHold lid && !s.halls.any (fun (h : Nat × Hall) => h.2.combined.any (fun e => e.lid == lid))

/-- The first counter of a launch that still has a bound record: its L and index. -/
def State.stranded (s : State) (lid : Nat) : Option (Nat × Nat) :=
  let l := s.launch lid
  ((span 0 l.c).zip l.compute).findSome? (fun e =>
    ((s.core (s.nowAt e.2)).counters.find? (fun k => k.2.bound.isSome)).map (fun k => (e.1, k.1)))

/-- Dirty lines of a launch. -/
def State.dirtyCores (s : State) (lid : Nat) : List Nat := (s.launch lid).cores.filter (fun p => (s.core p).l1.any (fun l => l.dirty != 0))

/-- Every dirty line of a launch written back. -/
def State.cleanLaunch (s : State) (lid : Nat) : State :=
  (s.dirtyCores lid).foldl (fun (s : State) p => s.cleanLines p (fun _ => true)) s

/-- LAUNCH_END: dirty sectors go back first; a counter that still holds a record strands it (R122); else the launch ends OK. -/
def execLaunchEnd (lid : Nat) (s : State) : Host.Outcome State Fault Refusal :=
  if (s.launch? lid).isNone || !s.workDone lid then happens s
  else
    match s.stranded lid with
    | some (l, n) => happens (s.faultAsync lid clsStranded l (((s.launch lid).hostOf .compute l).getD 0) (BitVec.ofNat 64 (l * 2 ^ 32 + n)))
    | none =>
      if !(s.dirtyCores lid).isEmpty then happens (s.cleanLaunch lid)
      else happens (((s.forget lid).record ((s.launch lid).crec lid .ok s.time)).cancelPreempt lid)

/-! ## Pre-emption (R70–R72, R126–R128) -/

/-- A column of the region already holds two saved launches. -/
def State.noSlot (s : State) (r : LRec) : Bool :=
  (s.regionCols r).any (fun c =>
    2 ≤ (s.launches.filter (fun e => e.2.phase == .saved && (s.regionCols e.2.record).contains c)).length)

/-- Re-casts of a launch in grace and deferred decisions are abandoned, without a notice (R100). -/
def State.dropGrace (s : State) (lid : Nat) : State :=
  { s with recasts := s.recasts.filter (fun r => !(r.dec.lid == lid && r.phase == .grace))
           halls := s.halls.map (fun (e : Nat × Hall) =>
             (e.1, { e.2 with deferred := match e.2.deferred with
               | some d => if d.lid = lid then none else some d
               | none => none })) }

/-- GO written for a launch: it quiesces, or the request finishes at once (Table 4-11). A write while GO is 1 is ignored. -/
def State.askPreempt (s : State) (lid : BitVec 8) : State :=
  if s.cmd.preGo then s
  else
    let s : State := { s with cmd := { s.cmd with preLid := lid } }
    let l := s.launch lid.toNat
    if l.compute.isEmpty || l.phase != .running || l.fault.isSome then s.preemptDone 2
    else if s.noSlot l.record then s.preemptDone 3
    else
      let t := (s.modLaunch lid.toNat (fun l => { l with phase := .quiescing, goAt := some s.clk })).dropGrace lid.toNat
      { t with cmd := { t.cmd with preGo := true } }

/-- PREEMPT. -/
def execPreempt (lid : BitVec 8) (s : State) : Host.Outcome State Fault Refusal := happens (s.askPreempt lid)

/-- The queue or ring of a message's tile has no room for it. -/
def State.lacksRoom (s : State) (p : Packet) : Bool :=
  let c := s.core p.dest
  match p.body with
  | .notice _ => 8 ≤ c.highQ.length
  | .message =>
    if p.kind = 3 then (c.chan p.ch).en && (c.chan p.ch).size < (c.chan p.ch).count.toNat + p.entries.length
    else if p.hiPrio then 8 ≤ c.highQ.length
    else 16 ≤ c.lowQ.length
  | _ => false

/-- A message that may stay in the network over a save: it waits for room in a queue of its tile, or behind one that does (Table 6-9
step 3). -/
def State.waitsForRoom (s : State) (p : Packet) : Bool :=
  (match p.body with | .message => true | .notice _ => true | _ => false) && p.ready ≤ s.clk
    && (if p.pos = p.dest then p.dest == p.final && s.lacksRoom p else !s.wantsOut p && !s.overflows p)

/-- Steps 1 to 3 of Table 6-9 have finished: no task runs, engines, named transactions and re-casts are done, and what is left
in the network waits for room in a queue. -/
def State.quiet (s : State) (lid : Nat) : Bool :=
  let l := s.launch lid
  l.live && l.cores.all (fun p => !s.busyCore p)
    && !s.cores.any (fun (e : Nat × Core) => e.2.pit.any (fun x => x.lid == lid && s.clk < x.expiry))
    && s.net.all (fun p => p.lid != lid || s.waitsForRoom p) && !s.tablesHold lid
    && !s.halls.any (fun (h : Nat × Hall) => h.2.combined.any (fun e => e.lid == lid))
    && !s.recasts.any (fun r => r.dec.lid == lid) && !s.stubs.any (fun t => t.lid == lid)

/-- A directory entry as it is saved: what is left of a lifetime, which does not count while the launch is saved (R168). -/
def DirEntry.stored (d : DirEntry) (clk : Nat) : DirEntry :=
  if d.holds clk then { d with expiry := d.expiry - clk } else { d with held := false, age := d.dead }

/-- What a core's part of a save slot holds (Table 6-10), the static routes with the channel configuration (R437). -/
def Core.kept (c : Core) (clk : Nat) : Core :=
  { role := c.role, fmc := c.fmc, seed := c.seed, tlimit := c.tlimit, lowQ := c.lowQ, highQ := c.highQ, fifo := c.fifo, deque := c.deque
    spill := c.spill, counters := c.counters, barriers := c.barriers, chans := c.chans, routes := c.routes, dir := c.dir.map (fun d => d.stored clk), seals := c.seals
    written := c.written, poolView := c.poolView, genView := c.genView, routesView := c.routesView }

/-- The bytes of a core's local SRAM. -/
def inSram (core : Nat) (pa : Nat) : Bool := sramPa core 0 ≤ pa && pa < sramPa core 0 + Config.sramBytes

/-- The save slots' content for a launch. -/
def State.saveOf (s : State) (lid : Nat) : Saved :=
  let l := s.launch lid
  { cores := l.cores.map (fun p => (p, (s.core p).kept s.clk))
    bytes := s.mem.filter (fun b => l.cores.any (fun p => inSram p b.1))
    tags := s.tags.filter (fun g => l.cores.any (fun p => inSram p (16 * g)))
    twins := (s.regionCols l.record).map (fun c => (c, (s.column c).tw))
    leases := (s.halls.flatMap (fun (h : Nat × Hall) => h.2.leases)).filterMap (fun e =>
      if e.lid = lid && e.held s.clk then some { e with expiry := e.expiry - s.clk } else none) }

/-- The save of a quiet launch: its cores are idle, its licences pass, its messages wait, and PREEMPTED is recorded. -/
def State.saveLaunch (s : State) (lid : Nat) : State :=
  let l := s.launch lid
  let v := s.saveOf lid
  let t := { s.forgetParts lid with net := s.net }
  let t := (s.regionCols l.record).foldl (fun (t : State) c => t.freeLic c) t
  let t := t.modLaunch lid (fun l => { l with phase := .saved, saved := some v })
  (t.record (l.crec lid .preempted s.time)).preemptDone 1

/-- QUIESCENCE_SAVE: dirty sectors go back first; a launch whose work has all ended is left to end (R72). -/
def execQuiescenceSave (lid : Nat) (s : State) : Host.Outcome State Fault Refusal :=
  if (s.launch lid).phase != .quiescing || !s.quiet lid || s.workDone lid then happens s
  else if !(s.dirtyCores lid).isEmpty then happens (s.cleanLaunch lid)
  else happens (s.saveLaunch lid)

end Sys2Proof.Machine
end

