-- ==== Sys2Proof/Machine/Boot.lean ====
section
/-! DEFINITION. Power, boot, identity, turnover and the attestation report (spec 03 R41–R54, spec 01 R16, R17, spec 07 R138). -/

namespace Sys2Proof.Machine
open Sys2Proof

/-! ## Self-test: rectangles, harvest, grade (R16, R17, R138) -/

/-- A rectangle of dead routers on a layer: z, x0, y0, x1, y1. -/
abbrev Rect := Nat × Nat × Nat × Nat × Nat

/-- Two ranges lie within 2 of each other. -/
def nearRange (a0 a1 b0 b1 : Nat) : Bool := a0 ≤ b1 + 2 && b0 ≤ a1 + 2

/-- Two rectangles of one layer that self-test merges. -/
def nearRects (a b : Rect) : Bool :=
  match a, b with
  | (z, x0, y0, x1, y1), (w, u0, v0, u1, v1) => z == w && nearRange x0 x1 u0 u1 && nearRange y0 y1 v0 v1

/-- Their bounding rectangle. -/
def boundRects (a b : Rect) : Rect :=
  match a, b with
  | (z, x0, y0, x1, y1), (_, u0, v0, u1, v1) => (z, Nat.min x0 u0, Nat.min y0 v0, Nat.max x1 u1, Nat.max y1 v1)

/-- A rectangle added to those found, merged with every one it lies close to. -/
def addRect (rs : List Rect) (r : Rect) (fuel : Nat) : List Rect :=
  match fuel with
  | 0 => rs ++ [r]
  | f + 1 =>
    match rs.find? (nearRects r) with
    | none => rs ++ [r]
    | some q => addRect (rs.filter (fun p => p != q)) (boundRects r q) f

/-- The final rectangles of dead routers given by place. -/
def finalRects (dead : List Nat) : List Rect :=
  dead.foldl (fun rs p => addRect rs (placeZ p, placeX p, placeY p, placeX p, placeY p) dead.length) []

/-- A column inside a rectangle, or beyond one that touches both field edges: the part of the field without the column (0, 0),
nearest the host connector, is cut off (assumption log 14). -/
def rectTakes (r : Rect) (x y : Nat) : Bool :=
  match r with
  | (_, x0, y0, x1, y1) =>
    (x0 ≤ x && x ≤ x1 && y0 ≤ y && y ≤ y1) || (y0 == 0 && y1 == 511 && x0 != 0 && x1 < x) || (x0 == 0 && x1 == 511 && y0 != 0 && y1 < y)

/-- The columns that the hedge rules out. -/
def rectColumns (rs : List Rect) : List Nat :=
  if rs.isEmpty then [] else (span 0 262144).filter (fun c => rs.any (fun r => rectTakes r (c / 512) (c % 512)))

/-- Good columns of a hall row. -/
def goodCount (bad : List Nat) (hx y : Nat) : Nat := ((span (16 * hx) 16).filter (fun x => !bad.contains (x * 512 + y))).length

/-- The hall rows, as hx and y. -/
def hallRows : List (Nat × Nat) := (span 0 512).flatMap (fun y => (span 0 32).map (fun hx => (hx, y)))

/-- The measured grade of bad columns: the best whose count every hall row meets (R17). -/
def measureGrade (bad : List Nat) : BitVec 8 :=
  if hallRows.all (fun h => 15 ≤ goodCount bad h.1 h.2) then 0x0A
  else if hallRows.all (fun h => 14 ≤ goodCount bad h.1 h.2) then 0x0B
  else 0

/-- Exposed columns in all, as physical columns. -/
def State.exposedAll (s : State) : List Nat := hallRows.flatMap (fun h => (s.exposedXs h.1 h.2).map (fun x => x * 512 + h.2))

/-- Steps 5 and 6 of Table 3-6: self-test sets the harvest map and the grade; the health test then harvests the exposed columns
that fail and the grade is recomputed. -/
def State.measure (s : State) : State :=
  let rects := finalRects s.out.deadRouters
  let bad := s.out.badColumns ++ rectColumns rects
  let s : State := { s with mb := { s.mb with badCols := some bad, rects := rects, grade := measureGrade bad, mapGrade := measureGrade bad } }
  let fails := s.out.unhealthy.filter s.exposedCol
  { s with mb := { s.mb with badCols := some (bad ++ fails), grade := measureGrade (bad ++ fails), mapGrade := measureGrade (bad ++ fails)
                             healthFails := BitVec.ofNat 32 fails.length
                             featuresBuilt := true } }

/-! ## The wipe (Table 3-6 steps 2 to 4) -/

/-- A hall controller after the wipe: its sensor and the governor's steps stay. -/
def Hall.wiped (h : Hall) : Hall := { temp := h.temp, gate95 := h.gate95, gate100 := h.gate100, hotSince := h.hotSince }

/-- Memory outside the module: the host's and the peers'. -/
def outside (m : List Host.Cell) : List Host.Cell := m.filter (fun c => 3 ≤ paRegion c.1)

/-- Registers, tables, SRAM, stacked DRAM and the second tier are zero, every register FULL, and every key is new. -/
def State.wipe (s : State) : State :=
  { s with
    launches := [], cores := [], columns := [], edges := [], recasts := [], stubs := [], net := [], links := [], ports := [], codeMarks := []
    tags := []
    halls := s.halls.map (fun (e : Nat × Hall) => (e.1, e.2.wiped))
    mem := outside s.mem, lineKeys := [], keyEpoch := s.keyEpoch + 1 }

/-- The registers of W0 whose maps give a reset value take it, and s.cyc counts from here (R6, R192). DESIGN CHOICE (assumption log 79):
DBG_DATA, DBG_META, the breakpoints, MB_IMG, MB_NONCE and MB_REPORT, whose maps give none, keep their values, and so do the START and PERIOD
of a time-triggered entry that the host wrote while step 1 waited (assumption log 95). A turnover lasts longer than any throttle, so every
group has its full clock again (R21, assumption log 80). -/
def State.resetRegs (s : State) : State :=
  { s with
    tt := s.tt.map (fun (e : Nat × TTEntry) => (e.1, { start := e.2.start, period := e.2.period }))
    throttleEnded := if s.groups.any (fun (e : Nat × PowerGroup) => e.2.until_.isSome) then some s.clk else s.throttleEnded
    w2Base := 0, w2Err := false, stepA := 0x04B0, alarm := 0
    cmd := { s.cmd with preResult := 0, preGo := false, preLid := 0, dbgLid := 0, dbgHalt := false, dbgFhalt := false, dbgArmed := false
                        selOp := 0, selStatus := 0, selL := 0, selCtx := 0, selOpnd := 0 }
    groups := (span 0 16).map (fun g => (g, { s.group g with until_ := none, since := 0, lost := s.clk - s.groupClk g, base := s.groupClk g })) }

/-! ## Identity (R46–R48) -/

/-- The identity private key. -/
def Surround.identity (o : Surround) : Nat := o.secret.toNat % ecN

/-- The four values that the alias key is bound to, as bytes: measurement, security version, BOOTID, TURNS. -/
def Mailbox.boundBytes (m : Mailbox) : List Byte :=
  natBytes 32 m.measure.toNat ++ natBytes 4 m.secver.toNat ++ natBytes 8 m.bootId.toNat ++ natBytes 8 m.turns.toNat

/-- The alias private key. The most significant byte of the HMAC comes first (PRESUMED, assumption log 13). -/
def State.aliasKey (s : State) : Nat :=
  let k := bytesNat (hmac256 (natBytes 32 s.out.secret.toNat) s.mb.boundBytes).reverse % ecN
  if k = 0 then 1 else k

/-- The alias key and its certificate derived; the identity key signs the certificate (R48). -/
def State.deriveAlias (s : State) : State :=
  let k := s.aliasKey
  let part := Config.aliasToSign (publicKey k) s.mb.measure s.mb.secver s.mb.bootId (s.mb.turns.setWidth 64)
  let sig := ecdsaSign s.out.identity (digestInt part) (Config.ecdsaNonce s.free)
  { s with free := s.free + 1, mb := { s.mb with aliasPriv := BitVec.ofNat 256 k, aliasCert := Config.aliasCertBytes part sig } }

/-! ## Commands (R41–R43, R49–R52) -/

/-- A command completes: BUSY clear, RESULT set, vector 63. -/
def State.commandDone (s : State) (r : MbResult) (st : BootState) : State :=
  { s with mb := { s.mb with busy := false, waiting := none, result := r, state := st } }.vector 63

/-- The resident image still measures as it did when it was loaded (Table 3-6 step 7). -/
def State.imageHolds (s : State) : Bool := digest s.mb.image == s.mb.measure

/-- Steps 5 and 6 of Table 3-5. -/
def State.bootMeasure (s : State) : State :=
  let s := s.wipe.measure
  if s.imageHolds then s.deriveAlias.commandDone .ok .ready else s.commandDone .imageBad .romWait

/-- Steps 3 and 4 of Table 3-5: a new BOOTID, TURNS 0, and the identity checked against the certificate. -/
def State.bootIdentity (s : State) (img : List Byte) (secver : BitVec 32) : State :=
  let (id, s) := s.draw
  let ok := publicKey s.out.identity == s.out.certKey
  let s : State := { s with mb := { s.mb with
    state := .booting, image := img, measure := digest img, secver := secver, bootId := id, turns := 0, devCert := s.out.cert, idOk := ok } }
  if ok then s.bootMeasure else s.commandDone .idFail .halted

/-- The firmware image that LOAD_IMAGE names in host memory: from the low 48 bits of MB_IMG on (assumption log 69). -/
def State.hostImage (s : State) (img : W64) (len : Nat) : List Byte := Memory.readN s.mem (3 * 2 ^ 48 + img.toNat % 2 ^ 48) len

/-- The checks of R45. -/
def imageGood (img : List Byte) : Bool :=
  let (key, _, sig, rest) := Config.imageHeader img
  digest (keyBytes key) == Config.romKeyHash && ecdsaVerify key (digestInt rest) sig

/-- A new boot has not measured yet: GRADE reads 0 (Table 3-3), and there is no feature list (R39). TURNS keeps its value until step 4
(assumption log 69). -/
def State.unmeasured (s : State) : State := { s with mb := { s.mb with grade := 0, featuresBuilt := false } }

/-- The boot from step 2 of Table 3-5. DESIGN CHOICE (assumption log 94): a boot that LOAD_IMAGE starts in READY leaves every other register of
W0 as it is, those with a reset value too. -/
def State.bootFrom2 (s : State) (img : W64) (len : Nat) : State :=
  let s := s.unmeasured
  let bytes := s.hostImage img (if len ≤ 0x1000000 then len else 0)
  if len ≤ 0x1000000 && !s.out.hostReadError && imageGood bytes then s.bootIdentity bytes (Config.imageHeader bytes).2.1
  else s.commandDone .imageBad .romWait

/-- Steps 2 to 8 of Table 3-6. -/
def State.turnoverRest (s : State) : State :=
  let s := s.wipe.resetRegs.measure
  let s : State := { s with mb := { s.mb with ideUp := false, op := 0, arg := 0 } }
  if s.imageHolds then
    ({ s with mb := { s.mb with turns := s.mb.turns + 1 } } : State).deriveAlias.commandDone .ok .ready
  else s.commandDone .imageBad .romWait

/-- What a command does once its records are written or dropped. -/
def State.goOn (s : State) : State :=
  match s.mb.waiting with
  | none => s
  | some .turnover => s.turnoverRest
  | some (.reboot img len) => ({ s with mb := { s.mb with ideUp := false } } : State).bootFrom2 img len

/-- The bytes of a queue's slot. -/
def State.slotBytes (s : State) (q slot : Nat) : List Byte := Memory.readN s.w0 (0x100000 + q * 0x4000 + slot * 0x100) 0x100

/-- The slots of a queue that hold records, from HEAD on. -/
def Queue.slots (q : Queue) : List Nat := (span 0 ((q.tail - q.head).toNat)).map (fun i => (q.head.toNat + i) % 64)

/-- A CANCELLED record for each record of a queue that has not started. -/
def State.cancelQueue (s : State) (q : Nat) : State :=
  let k := s.queue q
  k.slots.foldl (fun (s : State) slot =>
    let r := if slot = k.head.toNat then k.latched.getD (parseRecord (s.slotBytes q slot)) else parseRecord (s.slotBytes q slot)
    s.record (unstarted r q 0 .cancelled 0 s.time)) s

/-- W0 without the launch queues' slots and the time-triggered table. -/
def clearCommands (w : List Host.Cell) : List Host.Cell :=
  w.filter (fun c => !(0x100000 ≤ c.1 && c.1 < 0x140000) && !(0x160000 ≤ c.1 && c.1 < 0x180000))

/-- LIDs of launches, rising, active or saved. -/
def State.lids (s : State) (saved : Bool) : List Nat := (s.launches.filter (fun e => (e.2.phase == .saved) == saved)).map (fun e => e.1)

/-- Step 1 of Table 3-6: active launches end with TURNOVER, queued records with CANCELLED, saved launches with SAVE_LOST, in the
order of R50; queues and table are cleared. A fault of an earlier event of the clk ends its launch first (R269). -/
def State.endTenancy (s : State) : State :=
  let s := (s.lids false).foldl (fun (s : State) n =>
    let l := s.launch n
    match l.fault with
    | some (_, f) => s.tearDown n .fault (some f)
    | none => s.tearDown n .turnover none) s
  let s := (span 0 16).foldl (fun (s : State) q => s.cancelQueue q) s
  let s := (s.lids true).foldl (fun (s : State) n => (s.forget n).record ((s.launch n).crec n .saveLost s.time)) s
  { s with queues := [], tt := [], w0 := clearCommands s.w0 }

/-- A command that ends the tenancy: step 1, and the rest at once where no record waits. DESIGN CHOICE (assumption log 95): queue slots and
table entries are cleared here, and what the host writes to them while records wait stays. -/
def State.beginWait (s : State) (w : Waiting) (st : BootState) : State :=
  let s : State := { s with mb := { s.mb with busy := true, waiting := some w, state := st, budgetEnd := s.clk + 13000000 } }
  let s := s.endTenancy
  let s := if st == .booting then s.unmeasured else s
  if s.records.isEmpty then s.goOn else s

/-- TURNOVER. -/
def State.doTurnover (s : State) : State :=
  if s.mb.state == .ready then s.beginWait .turnover .turnover else s.commandDone .busy s.mb.state

/-- LOAD_IMAGE. -/
def State.doLoad (s : State) (len : Nat) : State :=
  match s.mb.state with
  | .ready => s.beginWait (.reboot s.mb.img len) .booting
  | .romWait => s.bootFrom2 s.mb.img len
  | .halted => s.bootFrom2 s.mb.img len
  | _ => s.commandDone .busy s.mb.state

/-! ## The report (R53, R54) -/

/-- MB_HARVEST: a bit for each physical column, y * 512 + x. -/
def State.harvestBytes (s : State) : List Byte :=
  (span 0 512).flatMap (fun y => (span 0 32).flatMap (fun hx =>
    let xs := s.exposedXs hx y
    natBytes 2 ((xs.map (fun x => 2 ^ (x - 16 * hx))).sum)))

/-- Routers that R138 treats as dead. -/
def deadCount (rs : List Rect) : Nat := (rs.map (fun r => match r with | (_, x0, y0, x1, y1) => (x1 - x0 + 1) * (y1 - y0 + 1))).sum

/-- Bytes 0x000 to 0x0DF of the report (Table 3-7). -/
def State.reportBody (s : State) : List Byte :=
  let m := s.mb
  let flags := (if s.timeLocked then 1 else 0) + (if s.out.tierCrypt then 2 else 0) + (if m.idOk then 4 else 0)
  natBytes 2 1 ++ natBytes 2 0x120 ++ natBytes 4 Config.bootRomVersion.toNat ++ natBytes 32 m.nonce.toNat ++ natBytes 8 s.time.toNat
    ++ natBytes 8 m.turns.toNat ++ natBytes 1 m.grade.toNat ++ natBytes 1 flags ++ natBytes 2 0 ++ natBytes 4 s.exposedAll.length
    ++ natBytes 32 m.measure.toNat ++ natBytes 4 m.secver.toNat ++ natBytes 4 m.healthFails.toNat ++ sha256 s.harvestBytes
    ++ natBytes 4 (deadCount m.rects) ++ natBytes 4 0 ++ natBytes 8 s.featureBits ++ keyBytes (publicKey m.aliasPriv.toNat)
    ++ natBytes 8 m.bootId.toNat

/-- REPORT: in READY, the report filled and signed with the alias key. The nonce of the signature is a free value. -/
def State.doReport (s : State) : State :=
  if s.mb.state != .ready then s.commandDone .busy s.mb.state
  else
    let body := s.reportBody
    let (r, t) := ecdsaSign s.mb.aliasPriv.toNat (digestInt body) (Config.ecdsaNonce s.free)
    ({ s with free := s.free + 1, mb := { s.mb with report := body ++ natBytes 32 r ++ natBytes 32 t } } : State).commandDone .ok .ready

/-! ## MB_CMD (R41, R42) -/

/-- A write of MB_CMD: ignored while a command runs, or without power. A command that then ends with BUSY or BAD_OP has started like any
other: its OP and ARG are stored, and RLOST is clear (assumption log 69). -/
def State.command (s : State) (op : BitVec 8) (arg : BitVec 32) : State :=
  if s.mb.busy || !s.powered then s
  else
    let s : State := { s with mb := { s.mb with op := op, arg := arg, rlost := false } }
    match op.toNat with
    | 1 => s.doReport
    | 2 => s.doTurnover
    | 3 => s.doLoad arg.toNat
    | _ => s.commandDone .badOp s.mb.state

/-- REPORT. -/
def execReport (s : State) : Host.Outcome State Fault Refusal := happens (s.command 1 0)

/-- TURNOVER. -/
def execTurnover (s : State) : Host.Outcome State Fault Refusal := happens (s.command 2 0)

/-- LOAD_IMAGE. -/
def execLoadImage (arg : BitVec 32) (s : State) : Host.Outcome State Fault Refusal := happens (s.command 3 arg)

/-- BAD_OP: an OP that names no command; one that does is no such event. -/
def execBadOp (op : BitVec 8) (arg : BitVec 32) (s : State) : Host.Outcome State Fault Refusal :=
  if 1 ≤ op.toNat && op.toNat ≤ 3 then happens s else happens (s.command op arg)

/-- TURNOVER_RECORD_BUDGET_EXPIRY: the records that still wait are dropped, RLOST is set, and the command goes on (R50). -/
def execTurnoverRecordBudgetExpiry (s : State) : Host.Outcome State Fault Refusal :=
  if s.mb.waiting.isNone || s.clk < s.mb.budgetEnd then happens s
  else happens ({ s with records := [], mb := { s.mb with rlost := s.mb.rlost || !s.records.isEmpty } } : State).goOn

/-! ## Power (R44, R52) -/

/-- The module without what power keeps: what stands outside it, and the model's own fields, stay. -/
def State.cold (s : State) (powered : Bool) : State :=
  { schedule := s.schedule, cur := s.cur, free := s.free, powered := powered, out := s.out, mem := outside s.mem, keyEpoch := s.keyEpoch + 1
    msix := s.msix, hostData := s.hostData, peerOut := s.peerOut }

/-- POWER_UP: the boot ROM waits for an image. -/
def execPowerUp (s : State) : Host.Outcome State Fault Refusal := happens (s.cold true)

/-- POWER_LOSS. -/
def execPowerLoss (s : State) : Host.Outcome State Fault Refusal := happens (s.cold false)

/-- What the board controller reads over I3C (R38). -/
inductive BoardReading where
  | power
  | temperature (hall : Nat)
  deriving DecidableEq, Repr

/-- A reading over I3C (R38): the module's power in mW, or a hall's junction temperature in degrees. The port reaches nothing else. -/
def State.boardRead (s : State) (r : BoardReading) : Nat :=
  match r with
  | .power => s.out.powerMw
  | .temperature h => (s.hall h).temp

/-- I3C_RESET: the boot sequence from its first step. Time, the clocks and what the sensors read go on. -/
def execI3cReset (s : State) : Host.Outcome State Fault Refusal :=
  if !s.powered then happens s
  else happens { s.cold true with
    clk := s.clk, time13 := s.time13, timeLocked := s.timeLocked, slew := s.slew, groups := s.groups, throttleEnded := s.throttleEnded
    halls := s.halls.map (fun (e : Nat × Hall) => (e.1, e.2.wiped)) }

end Sys2Proof.Machine
end

