-- ==== Sys2Proof/Machine/Debug.lean ====
section
/-! DEFINITION. The debugger (spec 13 R272–R275): halts, freezes, breakpoints and access to a halted launch's registers. -/

namespace Sys2Proof.Machine
open Sys2Proof

/-! ## DBG_CTL (R272, R273, Table 13-4) -/

/-- A launch halts in this clk by the debugger: a limit that is reached in it faults first (R269, R273). -/
def State.haltNow (s : State) (lid : Nat) : State :=
  ((s.tasked.filter (fun e => (s.core e.1).who.1 == lid)).foldl (fun (s : State) e => s.expireAt e.1 e.2) s).haltLaunch lid

/-- HALT written for a launch: 1 halts it; 0 resumes it, or tears it down where it is frozen. -/
def State.setHalt (s : State) (lid : Nat) (halt : Bool) : State :=
  let l := s.launch lid
  let s : State := { s with cmd := { s.cmd with dbgHalt := halt } }
  if halt then (if l.phase == .saved then s else s.haltNow lid)
  else if l.frozen then s.tearDown lid .fault (l.fault.map (fun f => f.2))
  else s.resumeLaunch lid

/-- A write of DBG_CTL. LID is kept while ARMED is 1, and HALT acts only within a session. -/
def State.writeDbgCtl (s : State) (lid : BitVec 8) (halt fhalt armed : Bool) : State :=
  let was := s.cmd.dbgArmed
  let lid := if was then s.cmd.dbgLid else lid
  let t : State := { s with cmd := { s.cmd with dbgLid := lid, dbgFhalt := fhalt, dbgArmed := armed } }
  if was || armed then t.setHalt lid.toNat halt else { t with cmd := { t.cmd with dbgHalt := false } }

/-- DEBUG_HALT: HALT written 1. -/
def execDebugHalt (lid : BitVec 8) (fhalt armed : Bool) (s : State) : Host.Outcome State Fault Refusal :=
  happens (s.writeDbgCtl lid true fhalt armed)

/-- DEBUG_RESUME: HALT written 0. -/
def execDebugResume (lid : BitVec 8) (fhalt armed : Bool) (s : State) : Host.Outcome State Fault Refusal :=
  happens (s.writeDbgCtl lid false fhalt armed)

/-- DEBUG_TEARDOWN: HALT written 0 for a frozen launch. -/
def execDebugTeardown (lid : BitVec 8) (fhalt armed : Bool) (s : State) : Host.Outcome State Fault Refusal :=
  happens (s.writeDbgCtl lid false fhalt armed)

/-! ## Breakpoints (R274) -/

/-- A breakpoint names the instruction that a context of a core is about to issue. -/
def State.atBreakpoint (s : State) (core ctx : Nat) : Bool :=
  match (s.core core).tile? with
  | none => false
  | some (lid, l) =>
    s.armedFor lid && s.cmd.bps.any (fun b => match b.2 with
      | (va, en, anyl, bl) => en && va == ((s.core core).ctx ctx).pc && (anyl || bl.toNat == l))

/-- The order in which a core takes its contexts (R114). -/
def Core.issueOrder (c : Core) : List Nat := 0 :: (span 1 4).map (fun i => (c.lastLow - 1 + i) % 4 + 1)

/-- A context is about to issue: it is the runnable one that its core takes next (R114), its entry has been read, its core may issue in this
clk, and its pc is a start that it may fetch (R304). -/
def State.aboutToIssue (s : State) (core ctx : Nat) : Bool :=
  (s.core core).issueOrder.find? (s.runnable core) == some ctx && ((s.core core).ctx ctx).entry.isNone && (s.core core).nextIssue ≤ s.clk
    && (match ({ s with cur := ⟨core, ctx⟩ } : State).checkFetch core (s.core core).who.1 ((s.core core).ctx ctx).pc.toNat with | .ok _ => true | .error _ => false)

/-- BREAKPOINT_HALT: the launch halts before the instruction issues. -/
def execBreakpointHalt (core ctx : Nat) (s : State) : Host.Outcome State Fault Refusal :=
  match (s.core core).tile? with
  | none => happens s
  | some (lid, _) =>
    if (s.launch lid).live && s.aboutToIssue core ctx && s.atBreakpoint core ctx then happens (s.haltNow lid) else happens s

/-! ## DBG_SEL (R275, Table 13-5) -/

/-- DBG_META of a register: code, ticket, tag and state. -/
def Reg.dbgMeta (r : Reg) : BitVec 32 :=
  r.code ++ r.ticket ++ 0#5 ++ (if r.tag then 1#1 else 0#1) ++ (match r.state with | .full => 0#2 | .pending => 1#2 | .poisoned => 2#2)

/-- The fields of DBG_SEL set, and its STATUS. -/
def State.selSet (s : State) (op : BitVec 2) (l : BitVec 20) (ctx : BitVec 3) (opnd : BitVec 6) (st : BitVec 2) : State :=
  { s with cmd := { s.cmd with selOp := op, selL := l, selCtx := ctx, selOpnd := opnd, selStatus := st } }

/-- The register that a selection names: its core, context and operand code, or the STATUS that refuses it. -/
def State.selected (s : State) (l : BitVec 20) (ctx : BitVec 3) (opnd : BitVec 6) : Except (BitVec 2) (Nat × Nat × Nat) :=
  let k := s.launch s.cmd.dbgLid.toNat
  let n := opnd.toNat
  if k.halted.isNone && !k.frozen then .error 1
  else
    match k.hostOf .compute l.toNat with
    | none => .error 3
    | some p =>
      let p := s.nowAt p
      if n < 32 then (if ctx.toNat ≤ 4 then .ok (p, ctx.toNat, n) else .error 3)
      else if 40 ≤ n && n < 48 then .ok (p, 0, n) else .error 3

/-- A register copied into DBG_DATA and DBG_META. -/
def State.showReg (s : State) (r : Reg) : State := { s with cmd := { s.cmd with dbgData := r.read.v, dbgMeta := r.dbgMeta } }

/-- DBG_SEL with READ. -/
def State.dbgRead (s : State) (op : BitVec 2) (l : BitVec 20) (ctx : BitVec 3) (opnd : BitVec 6) : State :=
  match s.selected l ctx opnd with
  | .error e => s.selSet op l ctx opnd e
  | .ok (p, x, n) => (s.selSet op l ctx opnd 0).showReg (s.regAt p x n)

/-- A poison code as a register may hold it: one that Table 9-5 does not list is stored as DEBUGCANCEL (R182, assumption log 65). -/
def poisonCode (c : BitVec 8) : BitVec 8 := if 1 ≤ c.toNat && c.toNat ≤ 10 then c else pzDebugCancel

/-- The register that a WRITE stores: DBG_DATA with the tag; where META's state is 2, POISONED with META's code, and then its value
reads as zero (R172, R275). -/
def Cmd.dbgReg (c : Cmd) : Reg :=
  if c.dbgMeta.extractLsb' 0 2 = 2 then
    Reg.poison (poisonCode (c.dbgMeta.extractLsb' 24 8))
  else { value := c.dbgData, tag := c.dbgMeta.getLsbD 2 }

/-- DBG_SEL with WRITE. -/
def State.dbgWrite (s : State) (l : BitVec 20) (ctx : BitVec 3) (opnd : BitVec 6) : State :=
  match s.selected l ctx opnd with
  | .error e => s.selSet 1 l ctx opnd e
  | .ok (p, x, n) =>
    if (s.regAt p x n).state = .pending then s.selSet 1 l ctx opnd 2
    else (s.selSet 1 l ctx opnd 0).setRegAt p x n s.cmd.dbgReg

/-- DBG_SEL with CANCEL. -/
def State.dbgCancel (s : State) (l : BitVec 20) (ctx : BitVec 3) (opnd : BitVec 6) : State :=
  match s.selected l ctx opnd with
  | .error e => s.selSet 2 l ctx opnd e
  | .ok (p, x, n) =>
    let r := s.regAt p x n
    if r.state = .pending then
      ((s.selSet 2 l ctx opnd 0).abandon p x n r.ticket).setRegAt p x n (Reg.poison pzDebugCancel)
    else (s.selSet 2 l ctx opnd 0).showReg r

/-- DBG_READ. -/
def execDbgRead (l : BitVec 20) (ctx : BitVec 3) (opnd : BitVec 6) (s : State) : Host.Outcome State Fault Refusal :=
  happens (s.dbgRead 0 l ctx opnd)

/-- DBG_WRITE. -/
def execDbgWrite (l : BitVec 20) (ctx : BitVec 3) (opnd : BitVec 6) (s : State) : Host.Outcome State Fault Refusal :=
  happens (s.dbgWrite l ctx opnd)

/-- DBG_CANCEL. -/
def execDbgCancel (l : BitVec 20) (ctx : BitVec 3) (opnd : BitVec 6) (s : State) : Host.Outcome State Fault Refusal :=
  happens (s.dbgCancel l ctx opnd)

end Sys2Proof.Machine
end

