-- ==== Sys2Proof/Machine/HostCmd.lean ====
section
/-! DEFINITION. The host's side: doorbells, queues, the completion ring, the time-triggered table, W2, the registers of W0, device
time and peer ports (spec 02 R28–R40, spec 04 R55–R69, spec 00 R6, R7). -/

namespace Sys2Proof.Machine
open Sys2Proof

/-! ## Queues (R55–R57, R59) -/

/-- A TAIL write: ignored while STATE is not READY; refused with DBERR where the queue would hold fewer records. -/
def State.ringDoorbell (s : State) (q : Nat) (tail : BitVec 6) : State :=
  if 16 ≤ q || s.mb.state != .ready then s
  else s.modQueue q (fun k => if tail - k.head < k.tail - k.head then { k with dberr := true } else { k with tail := tail })

/-- DOORBELL. -/
def execDoorbell (q : Nat) (tail : BitVec 6) (s : State) : Host.Outcome State Fault Refusal := happens (s.ringDoorbell q tail)

/-- FLUSH written 1. -/
def State.flushQueue (s : State) (q : Nat) : State :=
  if 16 ≤ q then s else (s.cancelQueue q).modQueue q (fun k => { k with head := k.tail, latched := none })

/-- QUEUE_FLUSH. -/
def execQueueFlush (q : Nat) (s : State) : Host.Outcome State Fault Refusal := happens (s.flushQueue q)

/-- HEAD_LATCH: the head record is read once and given the head checks. -/
def execHeadLatch (q : Nat) (s : State) : Host.Outcome State Fault Refusal :=
  let k := s.queue q
  if 16 ≤ q || s.mb.state != .ready || k.head == k.tail || k.latched.isSome then happens s
  else
    let r := parseRecord (s.slotBytes q k.head.toNat)
    match s.headCheck r with
    | some (st, d) => happens ((s.modQueue q (fun k => { k with head := k.head + 1 })).record (unstarted r q 0 st d s.time))
    | none => happens (s.modQueue q (fun k => { k with latched := some r }))

/-! ## The completion ring (R62, R63, R66, R267) -/

/-- The code of a status (Table 4-6). -/
def Status.code : Status → Nat
  | .ok => 0
  | .fault => 1
  | .preempted => 2
  | .turnover => 3
  | .noFit => 4
  | .badRecord => 5
  | .gradeNone => 6
  | .overrun => 7
  | .cancelled => 8
  | .skipped => 9
  | .saveLost => 10

/-- Word 0 of a record. -/
def CRec.word0 (r : CRec) : Nat :=
  r.tag.toNat * 2 ^ 32 + r.src * 2 ^ 24 + r.lid * 2 ^ 16 + r.status.code * 2 ^ 8 + (if r.fault.isSome then 2 else 1)

/-- Words 1 to 7 of a completion record, its pass bit apart (Table 4-5). -/
def CRec.body (r : CRec) : List Nat :=
  [r.detail.toNat * 2 ^ 8 + r.entry, r.tstart.toNat, r.tend.toNat, r.grant.toNat, r.tasks.toNat, 0, 0]

/-- Words 1 to 7 of a fault record, its pass bit apart (Table 13-2). -/
def FaultInfo.body (f : FaultInfo) : List Nat :=
  let place := placeX f.place * 2 ^ 19 + placeY f.place * 2 ^ 10 + placeZ f.place * 2 ^ 9
  [f.cls.toNat * 2 ^ 56 + f.code.toNat * 2 ^ 48 + f.l * 2 ^ 28 + place + f.ctx * 2 ^ 6 + (if f.async then 32 else 0),
   (if f.older then 2 ^ 63 else 0) + f.shadow.toNat * 2 ^ 48 + f.pc.toNat, f.time.toNat, f.detail.toNat,
   f.stage.toNat * 2 ^ 56 + f.handler.toNat * 2 ^ 44 + f.seq.toNat, f.opc.toNat, 0]

/-- The 64 bytes of a record under a pass bit. -/
def CRec.bytes (r : CRec) (pass : Bool) : List Byte :=
  let ws := match r.fault with | some f => f.body | none => r.body
  natBytes 8 r.word0 ++ ((ws.take 6).flatMap (natBytes 8)) ++ natBytes 8 (if pass then 2 ^ 63 else 0)

/-- The vectors that a record signals once written. -/
def CRec.vectors (r : CRec) : List Nat :=
  match r.fault with
  | some _ => [17]
  | none => if r.irq then [r.src] else []

/-- The oldest record written at TAIL, whose pass bit inverts on a wrap. DESIGN CHOICE: of a sum of CR_BASE and the place only the low 48
bits reach the link (assumption log 82); where LOG2N has been made smaller, TAIL is taken modulo the new size (assumption log 83). -/
def State.writeRecord (s : State) (r : CRec) (rest : List CRec) : State :=
  let c := s.cmd
  let t := c.crTail.toNat % c.ringSize
  let at_ := 3 * 2 ^ 48 + (c.crBase.toNat + 64 * t) % 2 ^ 48
  let next := (t + 1) % c.ringSize
  let s : State := { s with records := rest, mem := Memory.writeN s.mem at_ (r.bytes c.pass)
                            cmd := { c with crTail := BitVec.ofNat 16 next, pass := if next = 0 then !c.pass else c.pass } }
  r.vectors.foldl (fun (s : State) v => s.vector v) s

/-- Flits of a W2 access's messages that carry data, one a sector, and of those that carry none (R134). -/
def w2Flits (ps : List (Nat × Nat)) : Nat × Nat := ((ps.map (fun p => flitsOf (entriesFor p.2))).sum, ps.length)

/-- The gallery port of the PCI Express endpoint is free for traffic of the host: its way in has brought in what came before, and no message
of the virtual channel is on its way out (R131, R132). -/
def State.hostFree (s : State) (vc : Nat) : Bool :=
  getAt 0 s.hostPlace s.ports ≤ s.clk * s.galleryRate s.hostPlace && !(s.linkNow s.hostPlace 7).flows.any (fun f => f.vc == vc)

/-- Flits of the host's traffic at that port, inward and, on a virtual channel, outward (R131, Table 7-2). -/
def State.hostPass (s : State) (vc i o : Nat) : State :=
  let l := s.linkNow s.hostPlace 7
  let f : Flow := { vc := vc, uid := s.sent, left := o, face := 9, from_ := vc }
  { s with
    sent := s.sent + 1, ports := putAt s.hostPlace (s.clk * s.galleryRate s.hostPlace + i) s.ports
    links := putAt (s.hostPlace * 8 + 7) { l with flows := if o = 0 then l.flows else l.flows ++ [f] } s.links }

/-- The budget in which a command waits for its records has run out (R50). -/
def Mailbox.overBudget (m : Mailbox) (clk : Nat) : Bool := m.waiting.isSome && m.budgetEnd ≤ clk

/-- COMPLETION_RECORD_WRITE, as a message of 3 flits out by the endpoint's gallery port. A command that waits for its records goes on after
the last; once its budget has run out none is written (R50). -/
def execCompletionRecordWrite (s : State) : Host.Outcome State Fault Refusal :=
  match s.records with
  | [] => happens s
  | r :: rest =>
    if !s.cmd.ringRoom || s.mb.overBudget s.clk || !s.hostFree 0 then happens s
    else
      let t := (s.hostPass 0 0 3).writeRecord r rest
      happens (if rest.isEmpty then t.goOn else t)

/-! ## The time-triggered table (R68, R69) -/

/-- Device time in whole ns. -/
def State.ns (s : State) : Nat := s.time13 / 13

/-- P of a period: raised to 10,000 where it is nonzero (R68). -/
def slotPeriod (p : W64) : Nat := if p = 0 then 0 else Nat.max 10000 p.toNat

/-- The earliest slot time of START and P that is not before a time. -/
def slotFrom (start p now : Nat) : Nat := if now ≤ start then start else start + (now - start + p - 1) / p * p

/-- EN becomes 1: the first slot is fixed. A late one-shot takes the next clk. -/
def TTEntry.arm (e : TTEntry) (now clk : Nat) : TTEntry :=
  let p := slotPeriod e.period
  let start := e.start.toNat
  if p = 0 then { e with en := true, next := start, late := if start < now then some (clk + 1) else none }
  else { e with en := true, next := slotFrom start p now, late := none }

/-- A write of TT_CTL. A firing that already waits starts although EN is cleared (assumption log 70). -/
def State.writeTtCtl (s : State) (e : Nat) (rule : BitVec 2) (en : Bool) : State :=
  if 256 ≤ e || !s.out.ttTable then s
  else s.modTt e (fun x =>
    let x := { x with rule := rule }
    if !en then { x with en := false, late := none } else if x.en then x else x.arm s.ns s.clk)

/-- TT_ARM. -/
def execTtArm (e : Nat) (rule : BitVec 2) (s : State) : Host.Outcome State Fault Refusal := happens (s.writeTtCtl e rule true)

/-- Launches of an entry that run or are in admission. -/
def State.ttRunning (s : State) (e : Nat) : List Nat := (s.ttEntry e).lids.filter (fun n => (s.launch n).holdsRegion)

/-- The entry after a firing: the next slot from START and PERIOD as they now are, EN clear after a one-shot. -/
def TTEntry.fire (e : TTEntry) (now : Nat) : TTEntry :=
  let p0 := slotPeriod e.period
  if p0 = 0 then { e with en := false, late := none }
  else
    let n := slotFrom e.start.toNat p0 now
    { e with next := if n ≤ now then n + p0 else n, late := none }

/-- Slots that a firing passes over, those between the slot due and now. -/
def TTEntry.passed (e : TTEntry) (now : Nat) : Nat :=
  let p := slotPeriod e.period
  if p = 0 || now < e.next then 0 else (now - e.next) / p

/-- A SKIPPED firing. -/
def State.skipFiring (s : State) (e : Nat) (r : LRec) : State :=
  (s.modTt e (fun x => { x with missed := x.missed + 1 })).record (unstarted r 16 e .skipped 0 s.time)

/-- A launch ended by an ABORT firing (R69): OVERRUN, unless it has already faulted (R64) or a pre-emption of it was seen in an earlier
clk, which then decides (Table 4-11). -/
def State.abortLaunch (s : State) (n : Nat) : State :=
  let l := s.launch n
  match l.fault, l.goAt with
  | some (_, f), _ => s.tearDown n .fault (some f)
  | none, some c => if c < s.clk then s else s.tearDown n .overrun none
  | none, none => s.tearDown n .overrun none

/-- The previous launch of an entry ended by an ABORT firing, and a firing that still waits to start with it (R69). -/
def State.abortFiring (s : State) (e : Nat) : State :=
  let t := (s.ttRunning e).foldl (fun (t : State) n => t.abortLaunch n) s
  match (t.ttEntry e).cand with
  | some r => (t.modTt e (fun x => { x with cand := none })).record (unstarted r 16 e .overrun 0 t.time)
  | none => t

/-- A firing whose record has passed the head checks: a candidate, or an overrun under its RULE. -/
def State.placeFiring (s : State) (e : Nat) (r : LRec) : State :=
  let x := s.ttEntry e
  let ready (t : State) : State := t.modTt e (fun x => { x with cand := some r })
  if x.cand.isNone && x.deferred.isNone && (s.ttRunning e).isEmpty then ready s
  else
    match x.rule.toNat with
    | 1 => if x.deferred.isNone then s.modTt e (fun x => { x with deferred := some r }) else s.skipFiring e r
    | 2 => ready (s.abortFiring e)
    | _ => s.skipFiring e r

/-- TT_FIRING: an armed entry at its slot time. The record is read afresh. -/
def execTtFiring (e : Nat) (s : State) : Host.Outcome State Fault Refusal :=
  let x := s.ttEntry e
  let due := match x.late with | some c => c ≤ s.clk | none => x.next ≤ s.ns
  if !x.en || !due || !s.out.ttTable || s.mb.state != .ready then happens s
  else
    let r := parseRecord (Memory.readN s.w0 (0x160000 + e * 0x200) 0x100)
    let t := s.modTt e (fun x => { x.fire s.ns with missed := x.missed + BitVec.ofNat 32 (x.passed s.ns) })
    match s.headCheck r with
    | some (st, d) => happens (t.record (unstarted r 16 e st d s.time))
    | none => happens (t.placeFiring e r)

/-- TT_DEFERRED_CANDIDATE. -/
def execTtDeferredCandidate (e : Nat) (s : State) : Host.Outcome State Fault Refusal :=
  let x := s.ttEntry e
  if x.deferred.isNone || x.cand.isSome || !(s.ttRunning e).isEmpty then happens s
  else happens (s.modTt e (fun x => { x with cand := x.deferred, deferred := none }))

/-- TT_CNT_READ: MISSED and FIRED, then both are zero (RS of Table 0-3). -/
def execTtCntRead (e : Nat) (s : State) : Host.Outcome State Fault Refusal :=
  if 256 ≤ e || !s.out.ttTable then happens { s with hostData := natBytes 8 0 }
  else
    let x := s.ttEntry e
    happens (({ s with hostData := natBytes 8 (x.missed.toNat * 2 ^ 32 + x.fired.toNat) } : State).modTt e
      (fun x => { x with missed := 0, fired := 0 }))

/-! ## W2 (R30, R31, R128, R216) -/

/-- The pieces of a W2 access by sector: physical address and length. -/
def w2Pieces (pa n fuel : Nat) : List (Nat × Nat) :=
  match fuel with
  | 0 => []
  | f + 1 =>
    if n = 0 then []
    else
      let k := Nat.min n (64 - pa % 64)
      (pa, k) :: w2Pieces (pa + k) (n - k) f

/-- W2 reaches an address: STATE is READY, and it is no harvested column, unassigned region, system space or reserved slice. -/
def State.w2Ok (s : State) (pa : Nat) : Bool :=
  s.mb.state == .ready && s.paOk pa && !reserved pa

/-- The physical address at a W2 offset. -/
def State.w2Pa (s : State) (off : Nat) : Nat := s.w2Base.toNat * 2 ^ 36 + off % 2 ^ 36

/-- A W2 access waits for the port where it reaches memory. -/
def State.w2Waits (s : State) (ps : List (Nat × Nat)) : Bool := ps.any (fun p => s.w2Ok p.1) && !s.hostFree 2

/-- The flits of a W2 access, requests in and answers out, where it reaches memory; `store` says which of them carry data. -/
def State.w2Pass (s : State) (ps : List (Nat × Nat)) (store : Bool) : State :=
  match ps.filter (fun p => s.w2Ok p.1) with
  | [] => s
  | qs => let (d, h) := w2Flits qs; if store then s.hostPass 2 d h else s.hostPass 2 h d

/-- W2_READ: all ones where the address is not reached. A damaged sector reads as it stands (assumption log 81). -/
def execW2Read (off len : Nat) (s : State) : Host.Outcome State Fault Refusal :=
  let ps := w2Pieces (s.w2Pa off) len (len + 1)
  if s.w2Waits ps then happens s else
  let s := s.w2Pass ps false
  let s := (ps.filter (fun p => s.w2Ok p.1)).foldl (fun (s : State) p => s.settleAhead p.1 p.2) s
  let bs := ps.flatMap (fun p => if s.w2Ok p.1 then s.readHome p.1 p.2 0 else List.replicate p.2 0xFF)
  happens { s with hostData := bs, w2Err := s.w2Err || ps.any (fun p => !s.w2Ok p.1) }

/-- The pieces of a W2 write performed at their homes, or discarded with ERR. A damaged sector is written like any other (assumption
log 81). -/
def State.w2Put (s : State) (ps : List (Nat × Nat)) (data : List Byte) : State :=
  match ps with
  | [] => s
  | p :: r =>
    let s := if s.w2Ok p.1 && !s.isCode p.1 then (s.settleAhead p.1 p.2).writeHome p.1 0 (data.take p.2) [] [] else { s with w2Err := true }
    s.w2Put r (data.drop p.2)

/-- W2_WRITE. -/
def execW2Write (off : Nat) (data : List Byte) (s : State) : Host.Outcome State Fault Refusal :=
  let ps := w2Pieces (s.w2Pa off) data.length (data.length + 1)
  if s.w2Waits ps then happens s else happens ((s.w2Pass ps true).w2Put ps data)

/-! ## The registers of W0 (R6, R7, R29, R39) -/

/-- The feature records present, in order: ID, STATUS, and length in words (R39, Table 2-4). STATUS 0 and LEN 1 of features 2 to 4, and the
second word 0 of a peer record, are the model's own (assumption log 50). -/
def State.featureList (s : State) : List (Nat × Nat × Nat) :=
  let peers := (span 0 4).map (fun k =>
    (1, ((span 0 8).map (fun n => if s.peerUp (8 * k + n) then 2 ^ n else 0)).sum, 2))
  (if s.out.peerPorts then peers else []) ++ (if s.out.ttTable then [(2, 0, 1)] else []) ++ (if s.out.stochastic then [(3, 0, 1)] else [])
    ++ (if s.out.tierCrypt then [(4, 0, 1)] else [])

/-- The words of feature records from a W0 offset on, one record directly after another (assumption log 50). -/
def featureWords (at_ : Nat) (l : List (Nat × Nat × Nat)) : List W64 :=
  match l with
  | [] => []
  | (id, st, len) :: r =>
    let next := if r.isEmpty then 0 else at_ + 8 * len
    BitVec.ofNat 64 (next * 2 ^ 40 + st * 2 ^ 32 + len * 2 ^ 24 + 2 ^ 16 + id) :: List.replicate (len - 1) 0 ++ featureWords (at_ + 8 * len) r

/-- The code of a mailbox result. -/
def MbResult.code : MbResult → Nat
  | .ok => 0
  | .busy => 1
  | .imageBad => 2
  | .idFail => 3
  | .badOp => 4

/-- The code of a boot state. -/
def BootState.code : BootState → Nat
  | .romWait => 0
  | .booting => 1
  | .ready => 2
  | .turnover => 3
  | .halted => 4

/-- MB_STS (Table 3-3). -/
def Mailbox.status (m : Mailbox) : Nat :=
  m.turns.toNat * 2 ^ 32 + m.grade.toNat * 2 ^ 16 + m.result.code * 2 ^ 8 + m.state.code * 2 ^ 4 + (if m.rlost then 8 else 0)
    + (if m.busy then 1 else 0)

/-- Q_REG (Table 4-2). -/
def Queue.word (q : Queue) : Nat :=
  (if q.dberr then 2 ^ 17 else 0) + (if q.latched.isSome then 2 ^ 16 else 0) + q.head.toNat * 2 ^ 8 + q.tail.toNat

/-- DBG_CTL (Table 13-4). -/
def State.dbgCtlWord (s : State) : Nat :=
  let l := s.launch s.cmd.dbgLid.toNat
  s.cmd.dbgLid.toNat * 2 ^ 8 + (if l.frozen then 16 else 0) + (if l.halted.isSome then 8 else 0) + (if s.cmd.dbgHalt then 4 else 0)
    + (if s.cmd.dbgFhalt then 2 else 0) + (if s.cmd.dbgArmed then 1 else 0)

/-- DBG_SEL (Table 13-5). -/
def Cmd.selWord (c : Cmd) : Nat :=
  c.selOp.toNat * 2 ^ 62 + c.selStatus.toNat * 2 ^ 60 + c.selL.toNat * 2 ^ 40 + c.selCtx.toNat * 2 ^ 37 + c.selOpnd.toNat * 2 ^ 31

/-- A breakpoint of the command block. -/
def Cmd.bp (c : Cmd) (n : Nat) : VAddr × Bool × Bool × BitVec 20 := getAt (0, false, false, 0) n c.bps

/-- A word of the command block, its byte areas apart, by its offset in the block. -/
def State.cmdWord (s : State) (o : Nat) : Nat :=
  let c := s.cmd
  if 0x40000 ≤ o && o < 0x40080 then (s.queue ((o - 0x40000) / 8)).word
  else if 0x43040 ≤ o && o < 0x43080 then
    match c.bp ((o - 0x43040) / 16) with
    | (va, en, anyl, l) =>
      if o % 16 = 0 then va.toNat else (if en then 2 ^ 63 else 0) + (if anyl then 2 ^ 62 else 0) + l.toNat
  else
    match o with
    | 0x41000 => c.crBase.toNat
    | 0x41008 => (if c.crEn then 256 else 0) + c.log2n.toNat
    | 0x41010 => c.crTail.toNat * 2 ^ 32 + c.crHead.toNat
    | 0x42000 => c.preResult.toNat * 2 ^ 9 + (if c.preGo then 256 else 0) + c.preLid.toNat
    | 0x43000 => s.dbgCtlWord
    | 0x43008 => c.selWord
    | 0x43010 => c.dbgData.toNat % 2 ^ 64
    | 0x43018 => c.dbgData.toNat / 2 ^ 64
    | 0x43020 => c.dbgMeta.toNat
    | _ => 0

/-- A word of a time-triggered entry past its record; TT_CNT is read by TT_CNT_READ. -/
def TTEntry.word (e : TTEntry) (o : Nat) : Nat :=
  match o with
  | 0x100 => e.start.toNat
  | 0x108 => e.period.toNat
  | 0x110 => e.rule.toNat * 2 + (if e.en then 1 else 0)
  | 0x118 => e.missed.toNat * 2 ^ 32 + e.fired.toNat
  | _ => 0

/-- Whether a W0 offset lies in an area that holds bytes as written: queue slots, time-triggered records, the MSI-X table. -/
def State.byteArea (s : State) (off : Nat) : Bool :=
  (0x100000 ≤ off && off < 0x140000) || (0x160000 ≤ off && off < 0x180000 && off % 0x200 < 0x100 && s.out.ttTable)
    || (0xF00000 ≤ off && off < 0x1000000)

/-- The word of the function's configuration space that the model holds, placed beyond the 256 MiB of W0 (assumption log 71): bit 0, the
selective IDE stream is established. The enables of single-root I/O virtualisation, address translation, page requests and a second
function, bits 1 to 4, read zero (R28). -/
def State.configWord (s : State) : W64 := if s.mb.ideUp then 1 else 0

/-- A write of that word: the host establishes the IDE stream, or ends it; the other enables are ignored (R28, R43). -/
def State.writeConfig (s : State) (v m : W64) : State :=
  if m.getLsbD 0 then { s with mb := { s.mb with ideUp := v.getLsbD 0 } } else s

/-- The aligned 64-bit word at a W0 offset as a host read finds it, before what reading clears (R7, R29). -/
def State.w0Word (s : State) (off : Nat) : W64 :=
  let m := s.mb
  if s.byteArea off then BitVec.ofNat 64 (bytesNat (Memory.readN s.w0 off 8))
  else if 0x160000 ≤ off && off < 0x180000 then
    (if s.out.ttTable then BitVec.ofNat 64 ((s.ttEntry ((off - 0x160000) / 0x200)).word (off % 0x200)) else 0)
  else if 0x100000 ≤ off && off < 0x180000 then BitVec.ofNat 64 (s.cmdWord (off - 0x100000))
  else if 0x100 ≤ off && off < 0x200 then (if m.featuresBuilt then (featureWords 0x100 s.featureList).getD ((off - 0x100) / 8) 0 else 0)
  else if 0x10020 ≤ off && off < 0x10040 then m.nonce.extractLsb' (8 * (off - 0x10020)) 64
  else if 0x11000 ≤ off && off < 0x12000 then BitVec.ofNat 64 (wordAt m.report (off - 0x11000))
  else if 0x12000 ≤ off && off < 0x13000 then BitVec.ofNat 64 (wordAt m.devCert (off - 0x12000))
  else if 0x13000 ≤ off && off < 0x14000 then BitVec.ofNat 64 (wordAt m.aliasCert (off - 0x13000))
  else if 0x18000 ≤ off && off < 0x20000 then BitVec.ofNat 64 (wordAt s.harvestBytes (off - 0x18000))
  else
    match off with
    | 0x10000000 => s.configWord
    | 0x8 => if m.featuresBuilt && !s.featureList.isEmpty then 0x100 else 0
    | 0x10 => if s.timeLocked then 1 else 0
    | 0x1000 => s.stepWord
    | 0x1008 => s.droopWord
    | 0x2000 => BitVec.ofNat 64 (s.w2Base.toNat * 2 ^ 36 + (if s.w2Err then 2 else 0))
    | 0x10000 => m.arg ++ 0#24 ++ m.op
    | 0x10008 => m.img
    | 0x10010 => BitVec.ofNat 64 m.status
    | _ => 0

/-! ## Writes of registers -/

/-- The bits of `n` bytes from byte `lo` of a word. -/
def byteMask (lo n : Nat) : W64 := BitVec.ofNat 64 ((2 ^ (8 * n) - 1) * 2 ^ (8 * lo))

/-- A register's word with the bits under a mask replaced. -/
def blend (old v m : W64) : W64 := (old &&& ~~~m) ||| (v &&& m)

/-- A byte of a word is written. -/
def hits (m : W64) (byte : Nat) : Bool := m.getLsbD (8 * byte)

/-- The written bytes of a word stored in a byte area. -/
def putBytes (w : List Host.Cell) (off : Nat) (v m : W64) (n : Nat) : List Host.Cell :=
  match n with
  | 0 => w
  | k + 1 =>
    let w := putBytes w off v m k
    if hits m k then Memory.write w (off + k) (v.extractLsb' (8 * k) 8) else w

/-- A write of W2_CTL: BASE is set and ERR is W1C. -/
def State.writeW2Ctl (s : State) (v m : W64) : State :=
  let n := blend (s.w0Word 0x2000) v m
  { s with w2Base := n.extractLsb' 36 16, w2Err := s.w2Err && !(v &&& m).getLsbD 1 }

/-- W2_CTL_WRITE. -/
def execW2CtlWrite (v : W64) (s : State) : Host.Outcome State Fault Refusal := happens (s.writeW2Ctl v (BitVec.allOnes 64))

/-- A write of Q_REG: DBERR is W1C, TAIL is the doorbell, FLUSH cancels; of one write in that order (DESIGN CHOICE, assumption log 84). -/
def State.writeQueueReg (s : State) (q : Nat) (v m : W64) : State :=
  let w := v &&& m
  let s := if w.getLsbD 17 then s.modQueue q (fun k => { k with dberr := false }) else s
  let s := if hits m 0 then s.ringDoorbell q (v.extractLsb' 0 6) else s
  if w.getLsbD 18 then s.flushQueue q else s

/-- A write of PREEMPT, ignored while GO is 1. -/
def State.writePreempt (s : State) (v m : W64) : State :=
  if s.cmd.preGo then s
  else
    let lid := (blend (s.w0Word 0x142000) v m).extractLsb' 0 8
    if (v &&& m).getLsbD 8 then s.askPreempt lid else { s with cmd := { s.cmd with preLid := lid } }

/-- A write of DBG_CTL's bytes. -/
def State.writeDbg (s : State) (v m : W64) : State :=
  let n := blend (s.w0Word 0x143000) v m
  if hits m 0 then s.writeDbgCtl (n.extractLsb' 8 8) (n.getLsbD 2) (n.getLsbD 1) (n.getLsbD 0)
  else if s.cmd.dbgArmed then s else { s with cmd := { s.cmd with dbgLid := n.extractLsb' 8 8 } }

/-- A write of DBG_SEL: one access (R275). -/
def State.writeSel (s : State) (v m : W64) : State :=
  let n := blend (s.w0Word 0x143008) v m
  let l := n.extractLsb' 40 20
  let x := n.extractLsb' 37 3
  let o := n.extractLsb' 31 6
  match (n.extractLsb' 62 2).toNat with
  | 1 => s.dbgWrite l x o
  | 2 => s.dbgCancel l x o
  | k => s.dbgRead (BitVec.ofNat 2 k) l x o

/-- A write of a breakpoint's word. -/
def State.writeBp (s : State) (o : Nat) (n : W64) : State :=
  let i := (o - 0x43040) / 16
  let put (b : VAddr × Bool × Bool × BitVec 20) : State := { s with cmd := { s.cmd with bps := putAt i b s.cmd.bps } }
  match s.cmd.bp i with
  | (va, en, anyl, l) =>
    if o % 16 = 0 then put (n.extractLsb' 0 48, en, anyl, l) else put (va, n.getLsbD 63, n.getLsbD 62, n.extractLsb' 0 20)

/-- A write of a word of the command block, its byte areas apart. Bits [7:3] of DBG_META, to which the map gives no field, are stored like
the others (assumption log 70). -/
def State.writeCmd (s : State) (o : Nat) (v m : W64) : State :=
  let n := blend (BitVec.ofNat 64 (s.cmdWord o)) v m
  if 0x40000 ≤ o && o < 0x40080 then s.writeQueueReg ((o - 0x40000) / 8) v m
  else if 0x43040 ≤ o && o < 0x43080 then s.writeBp o n
  else
    match o with
    | 0x41000 => { s with cmd := { s.cmd with crBase := n.extractLsb' 6 58 ++ 0#6 } }
    | 0x41008 => { s with cmd := { s.cmd with log2n := n.extractLsb' 0 5, crEn := n.getLsbD 8 } }
    | 0x41010 => { s with cmd := { s.cmd with crHead := n.extractLsb' 0 16 } }
    | 0x42000 => s.writePreempt v m
    | 0x43000 => s.writeDbg v m
    | 0x43008 => s.writeSel v m
    | 0x43010 => { s with cmd := { s.cmd with dbgData := s.cmd.dbgData.extractLsb' 64 64 ++ n } }
    | 0x43018 => { s with cmd := { s.cmd with dbgData := n ++ s.cmd.dbgData.extractLsb' 0 64 } }
    | 0x43020 => { s with cmd := { s.cmd with dbgMeta := n.extractLsb' 0 32 } }
    | _ => s

/-- A write of a word of a time-triggered entry past its record. TT_START or TT_PERIOD written while EN is 1 takes effect at the next
firing (assumption log 70). -/
def State.writeTt (s : State) (e o : Nat) (v m : W64) : State :=
  let n := blend (BitVec.ofNat 64 ((s.ttEntry e).word o)) v m
  match o with
  | 0x100 => s.modTt e (fun x => { x with start := n })
  | 0x108 => s.modTt e (fun x => { x with period := n })
  | 0x110 => if hits m 0 then s.writeTtCtl e (n.extractLsb' 1 2) (n.getLsbD 0) else s
  | _ => s

/-- A write of MB_CMD: ARG is set, and a command starts when OP is written. -/
def State.writeMbCmd (s : State) (v m : W64) : State :=
  let arg := (blend (s.w0Word 0x10000) v m).extractLsb' 32 32
  if hits m 0 then s.command (v.extractLsb' 0 8) arg
  else if s.mb.busy then s else { s with mb := { s.mb with arg := arg } }

/-- A write of an aligned word of W0 under a mask; a read-only or unassigned address ignores it (R6, R7). -/
def State.writeWord (s : State) (off : Nat) (v m : W64) : State :=
  let n := blend (s.w0Word off) v m
  if s.byteArea off then { s with w0 := putBytes s.w0 off v m 8 }
  else if 0x160000 ≤ off && off < 0x180000 then
    (if s.out.ttTable then s.writeTt ((off - 0x160000) / 0x200) (off % 0x200) v m else s)
  else if 0x100000 ≤ off && off < 0x180000 then s.writeCmd (off - 0x100000) v m
  else if 0x10020 ≤ off && off < 0x10040 then
    let k := off - 0x10020
    let keep : BitVec 256 := ~~~((BitVec.allOnes 64).setWidth 256 <<< (8 * k))
    { s with mb := { s.mb with nonce := (s.mb.nonce &&& keep) ||| (n.setWidth 256 <<< (8 * k)) } }
  else
    match off with
    | 0x10000000 => s.writeConfig v m
    | 0x1000 => s.writeStep n
    | 0x1008 => s.writeDroop (v &&& m)
    | 0x2000 => s.writeW2Ctl v m
    | 0x10000 => s.writeMbCmd v m
    | 0x10008 => { s with mb := { s.mb with img := n } }
    | _ => s

/-- REGISTER_WRITE: up to 8 bytes at a W0 offset; one that crosses a word boundary writes both words. -/
def execRegisterWrite (off size : Nat) (v : W64) (s : State) : Host.Outcome State Fault Refusal :=
  let n := Nat.min size 8
  let lo := off % 8
  let a := Nat.min n (8 - lo)
  if !s.powered then happens s
  else
    let t := s.writeWord (off - lo) (v <<< (8 * lo)) (byteMask lo a)
    happens (if a < n then t.writeWord (off - lo + 8) (v >>> (8 * a)) (byteMask 0 (n - a)) else t)

/-! ## Device time and peer ports (R35, R37) -/

/-- TIME_CORRECTION: an offset in ns. One of at least 1 ms forward is a step; any other is slewed. Device time is locked. A correction takes
the place of what is left of an earlier one (assumption log 70). -/
def execTimeCorrection (offset : Int) (s : State) : Host.Outcome State Fault Refusal :=
  if 1000000 ≤ offset then happens { s with time13 := s.time13 + 13 * offset.toNat, slew := 0, timeLocked := true }
  else happens { s with slew := 13 * offset, timeLocked := true }

/-- TIME_LOCK_LOSS. -/
def execTimeLockLoss (s : State) : Host.Outcome State Fault Refusal := happens { s with timeLocked := false }

/-- PEER_PORT_DOWN: what then crosses the port fails as it reaches it (HOME_ACCESS, ROUTER_FORWARD). -/
def execPeerPortDown (port : Nat) (s : State) : Host.Outcome State Fault Refusal :=
  if 32 ≤ port then happens s
  else happens { s with out := { s.out with peersUp := s.out.peersUp &&& ~~~(BitVec.ofNat 32 (2 ^ port)) } }

end Sys2Proof.Machine
end

