-- ==== Sys2Proof/Machine/Dispatch.lean ====
section
/-! DEFINITION. The dispatcher: one arm for each row of the opcode table, each a direct call of its meaning. -/

namespace Sys2Proof.Machine
open Sys2Proof

def exec (i : Instr) (s : State) : Host.Outcome State Fault Refusal :=
  match i with
  | .powerUp => Sys2Proof.Machine.execPowerUp s
  | .i3cReset => Sys2Proof.Machine.execI3cReset s
  | .powerLoss => Sys2Proof.Machine.execPowerLoss s
  | .report => Sys2Proof.Machine.execReport s
  | .turnover => Sys2Proof.Machine.execTurnover s
  | .loadImage arg => Sys2Proof.Machine.execLoadImage arg s
  | .badOp op arg => Sys2Proof.Machine.execBadOp op arg s
  | .turnoverRecordBudgetExpiry => Sys2Proof.Machine.execTurnoverRecordBudgetExpiry s
  | .w2Read off len => Sys2Proof.Machine.execW2Read off len s
  | .w2Write off data => Sys2Proof.Machine.execW2Write off data s
  | .w2CtlWrite v => Sys2Proof.Machine.execW2CtlWrite v s
  | .registerWrite off size v => Sys2Proof.Machine.execRegisterWrite off size v s
  | .timeCorrection offset => Sys2Proof.Machine.execTimeCorrection offset s
  | .peerPortDown port => Sys2Proof.Machine.execPeerPortDown port s
  | .droopAlarm pg => Sys2Proof.Machine.execDroopAlarm pg s
  | .throttleEnd pg => Sys2Proof.Machine.execThrottleEnd pg s
  | .governorGate hall temp => Sys2Proof.Machine.execGovernorGate hall temp s
  | .thermalTrip hall => Sys2Proof.Machine.execThermalTrip hall s
  | .doorbell q tail => Sys2Proof.Machine.execDoorbell q tail s
  | .queueFlush q => Sys2Proof.Machine.execQueueFlush q s
  | .headLatch q => Sys2Proof.Machine.execHeadLatch q s
  | .launchStart => Sys2Proof.Machine.execLaunchStart s
  | .staggerStep lid => Sys2Proof.Machine.execStaggerStep lid s
  | .ttArm e rule => Sys2Proof.Machine.execTtArm e rule s
  | .ttFiring e => Sys2Proof.Machine.execTtFiring e s
  | .ttDeferredCandidate e => Sys2Proof.Machine.execTtDeferredCandidate e s
  | .completionRecordWrite => Sys2Proof.Machine.execCompletionRecordWrite s
  | .preempt lid => Sys2Proof.Machine.execPreempt lid s
  | .quiescenceSave lid => Sys2Proof.Machine.execQuiescenceSave lid s
  | .launchEnd lid => Sys2Proof.Machine.execLaunchEnd lid s
  | .debugHalt lid fhalt armed => Sys2Proof.Machine.execDebugHalt lid fhalt armed s
  | .debugResume lid fhalt armed => Sys2Proof.Machine.execDebugResume lid fhalt armed s
  | .debugTeardown lid fhalt armed => Sys2Proof.Machine.execDebugTeardown lid fhalt armed s
  | .dbgRead l ctx opnd => Sys2Proof.Machine.execDbgRead l ctx opnd s
  | .dbgWrite l ctx opnd => Sys2Proof.Machine.execDbgWrite l ctx opnd s
  | .dbgCancel l ctx opnd => Sys2Proof.Machine.execDbgCancel l ctx opnd s
  | .breakpointHalt core ctx => Sys2Proof.Machine.execBreakpointHalt core ctx s
  | .taskAdmission core => Sys2Proof.Machine.execTaskAdmission core s
  | .taskLimitExpiry core ctx => Sys2Proof.Machine.execTaskLimitExpiry core ctx s
  | .handlerLimitExpiry core => Sys2Proof.Machine.execHandlerLimitExpiry core s
  | .stealRequest k => Sys2Proof.Machine.execStealRequest k s
  | .stealAnswer k => Sys2Proof.Machine.execStealAnswer k s
  | .stealBackoffExpiry core => Sys2Proof.Machine.execStealBackoffExpiry core s
  | .donationPeriod hall lid => Sys2Proof.Machine.execDonationPeriod hall lid s
  | .spillRefill core => Sys2Proof.Machine.execSpillRefill core s
  | .counterDecrement k => Sys2Proof.Machine.execCounterDecrement k s
  | .shadowResultLand core k => Sys2Proof.Machine.execShadowResultLand core k s
  | .futureFill k => Sys2Proof.Machine.execFutureFill k s
  | .homeAccess k => Sys2Proof.Machine.execHomeAccess k s
  | .landingAccess col => Sys2Proof.Machine.execLandingAccess col s
  | .edgeAccess ctl => Sys2Proof.Machine.execEdgeAccess ctl s
  | .accessAck k => Sys2Proof.Machine.execAccessAck k s
  | .l1Fill k => Sys2Proof.Machine.execL1Fill k s
  | .pageWalk core ctx => Sys2Proof.Machine.execPageWalk core ctx s
  | .codeScan core ctx => Sys2Proof.Machine.execCodeScan core ctx s
  | .routerForward k => Sys2Proof.Machine.execRouterForward k s
  | .activeMessageAccept k => Sys2Proof.Machine.execActiveMessageAccept k s
  | .channelMessageAccept k => Sys2Proof.Machine.execChannelMessageAccept k s
  | .peerMessageRefusal k => Sys2Proof.Machine.execPeerMessageRefusal k s
  | .censusEpoch hall lid => Sys2Proof.Machine.execCensusEpoch hall lid s
  | .noticeAccept k => Sys2Proof.Machine.execNoticeAccept k s
  | .leaseRecord k => Sys2Proof.Machine.execLeaseRecord k s
  | .leaseExpiry hall k => Sys2Proof.Machine.execLeaseExpiry hall k s
  | .roleQuery k => Sys2Proof.Machine.execRoleQuery k s
  | .recastGraceEnd r => Sys2Proof.Machine.execRecastGraceEnd r s
  | .recastMove r => Sys2Proof.Machine.execRecastMove r s
  | .recastRemap r => Sys2Proof.Machine.execRecastRemap r s
  | .roleMapInvalidation k => Sys2Proof.Machine.execRoleMapInvalidation k s
  | .stubForward k => Sys2Proof.Machine.execStubForward k s
  | .markerReturn k => Sys2Proof.Machine.execMarkerReturn k s
  | .stubClose k => Sys2Proof.Machine.execStubClose k s
  | .nameRouteDecide k => Sys2Proof.Machine.execNameRouteDecide k s
  | .barrierArrivalAtHall k => Sys2Proof.Machine.execBarrierArrivalAtHall k s
  | .barrierCombinePeriod hall lid => Sys2Proof.Machine.execBarrierCombinePeriod hall lid s
  | .bcfgNotice k => Sys2Proof.Machine.execBcfgNotice k s
  | .barrierArrival k => Sys2Proof.Machine.execBarrierArrival k s
  | .barrierWaitRequest k => Sys2Proof.Machine.execBarrierWaitRequest k s
  | .barrierWaitAnswer k => Sys2Proof.Machine.execBarrierWaitAnswer k s
  | .barrierWaitRetry core k => Sys2Proof.Machine.execBarrierWaitRetry core k s
  | .eventArrival k => Sys2Proof.Machine.execEventArrival k s
  | .wfeTimeout core ctx => Sys2Proof.Machine.execWfeTimeout core ctx s
  | .idleTimeout core ctx => Sys2Proof.Machine.execIdleTimeout core ctx s
  | .interestAtRouter k => Sys2Proof.Machine.execInterestAtRouter k s
  | .interestAtRendezvous k => Sys2Proof.Machine.execInterestAtRendezvous k s
  | .offerTrainAtRouter k => Sys2Proof.Machine.execOfferTrainAtRouter k s
  | .offerAtRendezvous k => Sys2Proof.Machine.execOfferAtRendezvous k s
  | .sealAtRendezvous k => Sys2Proof.Machine.execSealAtRendezvous k s
  | .dataTrainAtRouter k => Sys2Proof.Machine.execDataTrainAtRouter k s
  | .namedAnswerAtConsumer k => Sys2Proof.Machine.execNamedAnswerAtConsumer k s
  | .namedAnswerToProducer k => Sys2Proof.Machine.execNamedAnswerToProducer k s
  | .interestRetry core k => Sys2Proof.Machine.execInterestRetry core k s
  | .wantExpiry core k => Sys2Proof.Machine.execWantExpiry core k s
  | .pitEntryExpiry place k => Sys2Proof.Machine.execPitEntryExpiry place k s
  | .storedTileExpiry place k => Sys2Proof.Machine.execStoredTileExpiry place k s
  | .cachedTileExpiry place k => Sys2Proof.Machine.execCachedTileExpiry place k s
  | .matrixCommandStart core => Sys2Proof.Machine.execMatrixCommandStart core s
  | .matrixCommandComplete core => Sys2Proof.Machine.execMatrixCommandComplete core s
  | .mrmtFetchComplete core => Sys2Proof.Machine.execMrmtFetchComplete core s
  | .licenceHandoverEnd col => Sys2Proof.Machine.execLicenceHandoverEnd col s
  | .licenceWaitExpiry col => Sys2Proof.Machine.execLicenceWaitExpiry col s
  | .copyPiece core reads => Sys2Proof.Machine.execCopyPiece core reads s
  | .streamRefill core ctx reg => Sys2Proof.Machine.execStreamRefill core ctx reg s
  | .serviceRequest k => Sys2Proof.Machine.execServiceRequest k s
  | .nop a => Sys2Proof.Machine.execNop a s
  | .mov a => Sys2Proof.Machine.execMov a s
  | .fmov a => Sys2Proof.Machine.execFmov a s
  | .li a => Sys2Proof.Machine.execLi a s
  | .add a => Sys2Proof.Machine.execAdd a s
  | .sub a => Sys2Proof.Machine.execSub a s
  | .and a => Sys2Proof.Machine.execAnd a s
  | .or a => Sys2Proof.Machine.execOr a s
  | .xor a => Sys2Proof.Machine.execXor a s
  | .andn a => Sys2Proof.Machine.execAndn a s
  | .shl a => Sys2Proof.Machine.execShl a s
  | .shr a => Sys2Proof.Machine.execShr a s
  | .sar a => Sys2Proof.Machine.execSar a s
  | .mul a => Sys2Proof.Machine.execMul a s
  | .min a => Sys2Proof.Machine.execMin a s
  | .max a => Sys2Proof.Machine.execMax a s
  | .seq a => Sys2Proof.Machine.execSeq a s
  | .sne a => Sys2Proof.Machine.execSne a s
  | .slt a => Sys2Proof.Machine.execSlt a s
  | .sle a => Sys2Proof.Machine.execSle a s
  | .sel a => Sys2Proof.Machine.execSel a s
  | .clz a => Sys2Proof.Machine.execClz a s
  | .popc a => Sys2Proof.Machine.execPopc a s
  | .bext a => Sys2Proof.Machine.execBext a s
  | .bins a => Sys2Proof.Machine.execBins a s
  | .cadd a => Sys2Proof.Machine.execCadd a s
  | .b a => Sys2Proof.Machine.execB a s
  | .bz a => Sys2Proof.Machine.execBz a s
  | .bnz a => Sys2Proof.Machine.execBnz a s
  | .blt a => Sys2Proof.Machine.execBlt a s
  | .bge a => Sys2Proof.Machine.execBge a s
  | .call a => Sys2Proof.Machine.execCall a s
  | .callr a => Sys2Proof.Machine.execCallr a s
  | .jr a => Sys2Proof.Machine.execJr a s
  | .loopN a => Sys2Proof.Machine.execLoopN a s
  | .endTask a => Sys2Proof.Machine.execEndTask a s
  | .sget a => Sys2Proof.Machine.execSget a s
  | .sset a => Sys2Proof.Machine.execSset a s
  | .brk a => Sys2Proof.Machine.execBrk a s
  | .div a => Sys2Proof.Machine.execDiv a s
  | .rem a => Sys2Proof.Machine.execRem a s
  | .mulh a => Sys2Proof.Machine.execMulh a s
  | .rot a => Sys2Proof.Machine.execRot a s
  | .cbnd a => Sys2Proof.Machine.execCbnd a s
  | .cprm a => Sys2Proof.Machine.execCprm a s
  | .cfmt a => Sys2Proof.Machine.execCfmt a s
  | .cget a => Sys2Proof.Machine.execCget a s
  | .ctest a => Sys2Proof.Machine.execCtest a s
  | .cclr a => Sys2Proof.Machine.execCclr a s
  | .topo a => Sys2Proof.Machine.execTopo a s
  | .vadd a => Sys2Proof.Machine.execVadd a s
  | .vsub a => Sys2Proof.Machine.execVsub a s
  | .vmul a => Sys2Proof.Machine.execVmul a s
  | .vfma a => Sys2Proof.Machine.execVfma a s
  | .vfms a => Sys2Proof.Machine.execVfms a s
  | .vmin a => Sys2Proof.Machine.execVmin a s
  | .vmax a => Sys2Proof.Machine.execVmax a s
  | .vabs a => Sys2Proof.Machine.execVabs a s
  | .vneg a => Sys2Proof.Machine.execVneg a s
  | .vcmp cc a => Sys2Proof.Machine.execVcmp cc a s
  | .vsel a => Sys2Proof.Machine.execVsel a s
  | .vrcp a => Sys2Proof.Machine.execVrcp a s
  | .vrsq a => Sys2Proof.Machine.execVrsq a s
  | .vexp2 a => Sys2Proof.Machine.execVexp2 a s
  | .vlog2 a => Sys2Proof.Machine.execVlog2 a s
  | .vdot a => Sys2Proof.Machine.execVdot a s
  | .vred op a => Sys2Proof.Machine.execVred op a s
  | .vamax a => Sys2Proof.Machine.execVamax a s
  | .vshuf a => Sys2Proof.Machine.execVshuf a s
  | .vbcast ix a => Sys2Proof.Machine.execVbcast ix a s
  | .vins ix a => Sys2Proof.Machine.execVins ix a s
  | .vext ix a => Sys2Proof.Machine.execVext ix a s
  | .vdiv a => Sys2Proof.Machine.execVdiv a s
  | .vsqrt a => Sys2Proof.Machine.execVsqrt a s
  | .vcvt src part a => Sys2Proof.Machine.execVcvt src part a s
  | .vpack src a => Sys2Proof.Machine.execVpack src a s
  | .vunpk src hi a => Sys2Proof.Machine.execVunpk src hi a s
  | .vscl inv a => Sys2Proof.Machine.execVscl inv a s
  | .vqnt a => Sys2Proof.Machine.execVqnt a s
  | .fclass a => Sys2Proof.Machine.execFclass a s
  | .ld ord sc a => Sys2Proof.Machine.execLd ord sc a s
  | .st ord sc a => Sys2Proof.Machine.execSt ord sc a s
  | .ldf cnt a => Sys2Proof.Machine.execLdf cnt a s
  | .stf ord sc cnt a => Sys2Proof.Machine.execStf ord sc cnt a s
  | .ldg a => Sys2Proof.Machine.execLdg a s
  | .stg a => Sys2Proof.Machine.execStg a s
  | .pref a => Sys2Proof.Machine.execPref a s
  | .cwb a => Sys2Proof.Machine.execCwb a s
  | .cinv a => Sys2Proof.Machine.execCinv a s
  | .lmways a => Sys2Proof.Machine.execLmways a s
  | .amoadd ord sc a => Sys2Proof.Machine.execAmoadd ord sc a s
  | .amoand ord sc a => Sys2Proof.Machine.execAmoand ord sc a s
  | .amoor ord sc a => Sys2Proof.Machine.execAmoor ord sc a s
  | .amoxor ord sc a => Sys2Proof.Machine.execAmoxor ord sc a s
  | .amomin ord sc a => Sys2Proof.Machine.execAmomin ord sc a s
  | .amomax ord sc a => Sys2Proof.Machine.execAmomax ord sc a s
  | .amoswp ord sc a => Sys2Proof.Machine.execAmoswp ord sc a s
  | .amocas ord sc a => Sys2Proof.Machine.execAmocas ord sc a s
  | .amofadd ord sc a => Sys2Proof.Machine.execAmofadd ord sc a s
  | .fence k sc a => Sys2Proof.Machine.execFence k sc a s
  | .barr bar a => Sys2Proof.Machine.execBarr bar a s
  | .bwait bar a => Sys2Proof.Machine.execBwait bar a s
  | .bcfg bar a => Sys2Proof.Machine.execBcfg bar a s
  | .wfe a => Sys2Proof.Machine.execWfe a s
  | .sev a => Sys2Proof.Machine.execSev a s
  | .watch a => Sys2Proof.Machine.execWatch a s
  | .wpend a => Sys2Proof.Machine.execWpend a s
  | .wany a => Sys2Proof.Machine.execWany a s
  | .pchk a => Sys2Proof.Machine.execPchk a s
  | .dcset dc a => Sys2Proof.Machine.execDcset dc a s
  | .dcdec dc a => Sys2Proof.Machine.execDcdec dc a s
  | .copy sc cvt done a => Sys2Proof.Machine.execCopy sc cvt done a s
  | .sbind sc out a => Sys2Proof.Machine.execSbind sc out a s
  | .sunb a => Sys2Proof.Machine.execSunb a s
  | .mcfg a => Sys2Proof.Machine.execMcfg a s
  | .mbld sc bank done a => Sys2Proof.Machine.execMbld sc bank done a s
  | .mmac sc done a => Sys2Proof.Machine.execMmac sc done a s
  | .mrmt sc done a => Sys2Proof.Machine.execMrmt sc done a s
  | .licTake a => Sys2Proof.Machine.execLicTake a s
  | .licGive a => Sys2Proof.Machine.execLicGive a s
  | .fill sc done a => Sys2Proof.Machine.execFill sc done a s
  | .want a => Sys2Proof.Machine.execWant a s
  | .offer a => Sys2Proof.Machine.execOffer a s
  | .seal a => Sys2Proof.Machine.execSeal a s
  | .send hi rel sc n cap a => Sys2Proof.Machine.execSend hi rel sc n cap a s
  | .sendc rel sc n ch a => Sys2Proof.Machine.execSendc rel sc n ch a s
  | .sendr rel sc n ch rt a => Sys2Proof.Machine.execSendr rel sc n ch rt a s
  | .fork a => Sys2Proof.Machine.execFork a s
  | .chcfg e a => Sys2Proof.Machine.execChcfg e a s
  | .chcfgName e a => Sys2Proof.Machine.execChcfgName e a s
  | .lease a => Sys2Proof.Machine.execLease a s
  | .role a => Sys2Proof.Machine.execRole a s
  | .join dc a => Sys2Proof.Machine.execJoin dc a s
  | .trap code a => Sys2Proof.Machine.execTrap code a s
  | .idle a => Sys2Proof.Machine.execIdle a s
  | .sysc svc a => Sys2Proof.Machine.execSysc svc a s
  | .ctxsv cancel a => Sys2Proof.Machine.execCtxsv cancel a s
  | .ctxld a => Sys2Proof.Machine.execCtxld a s
  | .tlbi span a => Sys2Proof.Machine.execTlbi span a s
  | .rolew a => Sys2Proof.Machine.execRolew a s
  | .pwrc droop a => Sys2Proof.Machine.execPwrc droop a s
  | .ttCntRead e => Sys2Proof.Machine.execTtCntRead e s
  | .timeLockLoss => Sys2Proof.Machine.execTimeLockLoss s

end Sys2Proof.Machine
end

