-- ==== Sys2Proof/Machine/Run.lean ====
section
/-! DEFINITION. What a turn of the schedule does: time passes (R21, R22, R37), an event occurs, or a core issues (R114, R174, R178–R180,
R274, R299). Step.lean calls this. -/

namespace Sys2Proof.Machine
open Sys2Proof

/-! ## Time -/

/-- The thirteenths of a ns by which a slew moves device time over some clk: one every 500 clk at most, 200 ppm (R37). -/
def slewBy (slew : Int) (clk dt : Nat) : Int :=
  let n : Int := (((clk + dt) / 500 - clk / 500 : Nat) : Int)
  if slew < 0 then (if -slew < n then slew else -n) else (if slew < n then slew else n)

/-- Flit-clk of a hall's router buffers in the `dt` clk that begin now, for each launch in that hall (Table 5-7). -/
def State.countFlits (s : State) (dt : Nat) : State :=
  (s.net.filter (fun p => s.stands p && p.ready < s.clk + dt)).foldl (fun (s : State) p =>
    (s.launches.filter (fun e => (s.launchHalls e.1).contains (hallOf p.pos))).foldl (fun (s : State) e =>
      s.modTally (hallOf p.pos) e.1 (fun t => { t with occ := t.occ + (dt - (p.ready - s.clk)) * p.room })) s) s

/-- Reference clk go by in which no limit runs out; the faults of the clk that ended take effect first, then its brk (R269). -/
def State.tick (s : State) (dt : Nat) : State :=
  let k := slewBy s.slew s.clk dt
  ({ s.countFlits dt with
    clk := s.clk + dt, phase := 0, time13 := ((s.time13 : Int) + 10 * dt + k).toNat, slew := s.slew - k } : State).settleFaults.settleBrks

/-- A fault or a brk of this clk takes effect as it ends (R64, R344). -/
def State.stops (s : State) : Bool := s.launches.any (fun e => e.2.brkAt.isSome || (e.2.fault.isSome && !e.2.frozen))

/-- Reference clk until something that a passage of time has to stop for: the end of this clk, where a fault or a brk takes effect, or the
clk in which a limit runs out. -/
def State.nextStop (s : State) : Option Nat := if s.stops then some 1 else s.nextLimit

/-- Reference clk pass, in pieces that end where a fault or a brk takes effect, or a task's or handler's limit runs out: what has not retired
by the end of that clk traps (R117, R118). -/
def State.passIn (s : State) (dt fuel : Nat) : State :=
  match fuel with
  | 0 => s.expire.tick dt
  | f + 1 =>
    let t := s.expire
    match t.nextStop with
    | some n => if n < dt then (t.tick n).passIn (dt - n) f else t.tick dt
    | none => t.tick dt

/-- `dt` reference clk pass. -/
def State.pass (s : State) (dt : Nat) : State := if dt = 0 then s else s.passIn dt (2 * s.tasked.length + s.launches.length)

/-! ## Which context issues (R114, R180) -/

/-- Clk until a core's next issue: one of its own, or of those the governor leaves it (R22, R98). -/
def State.issueGap (s : State) (core : Nat) : Nat := s.delay core 1 * (s.hall (hallOf core)).gating

/-! ## One instruction (R299) -/

/-- The halfwords from a physical address to the end of its code block, as many as the longest instruction may have. A peer's page
whose port has gone down is read like any other (DESIGN CHOICE, assumption log 72). -/
def State.fetchHalves (s : State) (pa key : Nat) : List Half :=
  (span 0 (Nat.min 16 ((4096 - pa % 4096) / 2))).map (fun i => BitVec.ofNat 16 (bytesNat (s.readHome (pa + 2 * i) 2 key)))

/-- The key index under which the current launch scanned the unit of an address: what a fetch gets are the words scanned, whichever page it
comes through (R307). -/
def State.fetchKey (s : State) (pa : Nat) : Nat := getAt 0 (unitOf pa) (s.launch s.lid).codeKeys

/-- What presenting a context's next instruction comes to: it issued, or the context waits and another may issue. -/
inductive Tried where
  | issued (o : Host.Outcome State Fault Refusal)
  | waits (s : State)

/-- The current context's state as an instruction of `n` halfwords is presented. A task's first sets s.notice (R87, Table 25-6). -/
def State.present (s : State) (n : Nat) : State :=
  (s.modCc (fun c => { c.tlbTouch s.lid s.cx.pc.toNat with notice := s.cx.notice.getD c.notice })).modCx
    (fun x => { x with npc := x.pc + BitVec.ofNat 48 (2 * n), park := none, notice := none })

/-- An instruction that was presented has not issued: s.notice is as it was in the state `s` before. -/
def State.keepNotice (t s : State) : State :=
  (t.modCore s.cur.core (fun c => { c with notice := s.cc.notice })).modCore s.cur.core (fun c =>
    c.modCtx s.cur.ctx (fun x => { x with notice := s.cx.notice }))

/-- The core has issued from the context in this clk. -/
def State.noteIssue (s : State) (core ctx : Nat) : State :=
  s.modCore core (fun c => { c with nextIssue := s.clk + s.issueGap core, lastLow := if ctx = 0 then c.lastLow else ctx })

/-- A context parked on the instruction presented: it has not issued. -/
def Ctx.waits (x : Ctx) : Bool := x.park.isSome && x.npc != x.pc

/-- An instruction of the current context executed. -/
def State.runInstr (s : State) (i : Instr) (n : Nat) : Tried :=
  match exec i (s.present n) with
  | .next t => if ((t.core s.cur.core).ctx s.cur.ctx).waits then .waits (t.keepNotice s) else .issued (.next (t.noteIssue s.cur.core s.cur.ctx))
  | o => .issued o

/-- The next instruction of a context: the read of its handler entry where that is still to come, the fetch, a breakpoint at a start
(R304), the decoding, and its execution. -/
def State.tryIssue (s : State) (core ctx : Nat) : Tried :=
  let s : State := { (if ((s.core core).ctx ctx).entry.isSome then s.resolveEntry core ctx else s) with cur := ⟨core, ctx⟩ }
  if ((s.core core).ctx ctx).entry.isSome then .waits s
  else
    match s.checkFetch core s.lid s.cx.pc.toNat with
    | .error (.park t p) => .waits (t.parkCur p)
    | .error (.trap cls code d) => .issued (.next ((s.trapAt core ctx cls code d).noteIssue core ctx))
    | .ok pa =>
      if s.atBreakpoint core ctx then .issued (.next (s.haltNow s.lid))
      else match decode (s.fetchHalves pa (s.fetchKey pa)) with
      | .error _ => .issued (.fault (.noInstruction pa))
      | .ok (i, n) => s.runInstr i n

/-- The first context of a list that issues. -/
def State.issueFirst (s : State) (core : Nat) (xs : List Nat) : Host.Outcome State Fault Refusal :=
  match xs with
  | [] => .next s
  | x :: r =>
    if s.runnable core x then
      match s.tryIssue core x with
      | .issued o => o
      | .waits t => t.issueFirst core r
    else s.issueFirst core r

/-- The contexts of a core whose limit is reached in this clk. -/
def State.atLimit (s : State) (core : Nat) : List Nat := (span 0 5).filter (fun x => s.limitLeft core x == some 0)

/-- A core's issue in a clk in which a limit is reached there: an `end` of each such context may still issue; otherwise the fault comes
first, and no instruction issues (R117, R118, R269). -/
def State.issueAtLimit (s : State) (core : Nat) : Host.Outcome State Fault Refusal :=
  let xs := s.atLimit core
  match s.issueFirst core (s.core core).issueOrder with
  | .next t =>
    if xs.all (fun x => ((t.core core).ctx x).task.isNone) then .next t
    else .next (xs.foldl (fun (s : State) x => s.expireAt core x) s)
  | o => o

/-- A core's turn to issue, at most one instruction in each of its clk. -/
def State.issue (s : State) (core : Nat) : Host.Outcome State Fault Refusal :=
  if !s.powered || s.clk < (s.core core).nextIssue then .next s
  else if (s.atLimit core).isEmpty then s.issueFirst core (s.core core).issueOrder
  else s.issueAtLimit core

/-! ## Turns -/

/-- An event of the table occurs. Without power only POWER_UP does; a row with an encoding is no event. -/
def State.occur (s : State) (i : Instr) : Host.Outcome State Fault Refusal :=
  if i.slot.isSome || (!s.powered && i != .powerUp) then .next s else exec i s

/-- The place of an event in the order of its clk (R123, R178, R218, R269, Tables 6-7, 11-1, 18-10). What reaches a core, a home or a
router comes first, a request that is to find the others done next, then the issuing instructions, what serves requests that have come
in, the limits, admission, refills, donations, and last quiescence and the ends of launches. Matrix commands end before others start, so
that both heads that ask in a clk are seen (R190, R426). -/
def eventRank (i : Instr) : Nat :=
  match i with
  | .barrierWaitRequest _ | .wfeTimeout _ _ | .idleTimeout _ _ | .dataTrainAtRouter _ | .offerTrainAtRouter _ | .matrixCommandStart _ => 1
  | .landingAccess _ | .edgeAccess _ | .taskLimitExpiry _ _ | .handlerLimitExpiry _ => 3
  | .taskAdmission _ => 4
  | .spillRefill _ => 5
  | .donationPeriod _ _ => 6
  | .quiescenceSave _ | .launchEnd _ => 7
  | _ => 0

/-- A watch that reaches its home: the writes of its clk come first, the home core's own among them (Table 18-10). -/
def State.isWatch (s : State) (i : Instr) : Bool :=
  match i with
  | .homeAccess k => (match s.net[k]? with
    | some p => (match p.body with | .access r => r.op == .watch | _ => false)
    | none => false)
  | _ => false

/-- The place of a turn in the order of its clk. -/
def State.rank (s : State) (t : Turn) : Nat :=
  match t with
  | .occur _ i => if s.isWatch i then 3 else eventRank i
  | .issue _ _ => 2

/-- The state as a turn of a rank finds it: in a clk that has gone past that rank the turn waits for the next clk. -/
def State.upTo (s : State) (rank : Nat) : State :=
  let s := if rank < s.phase then s.pass 1 else s
  { s with phase := rank }

/-- A turn. -/
def State.turn (s : State) (t : Turn) : Host.Outcome State Fault Refusal :=
  match t with
  | .occur dt i => let s := s.pass dt; (s.upTo (s.rank t)).occur i
  | .issue dt c => let s := s.pass dt; (s.upTo 2).issue c

/-- The next turn: the schedule's first, or, past its end, the last core in the next clk. -/
def State.nextTurn (s : State) : Host.Outcome State Fault Refusal :=
  match s.schedule with
  | [] => s.turn (.issue 1 s.cur.core)
  | t :: r => ({ s with schedule := r } : State).turn t

/-! ## Placing an instruction -/

/-- Bytes of halfwords, low byte first (R4). -/
def halfBytes (ws : List Half) : List Byte := ws.flatMap (fun w => [w.extractLsb' 0 8, w.extractLsb' 8 8])

/-- Where a placed instruction stands: the first unit of the DRAM of column (8, 0). -/
def placedPa : Nat := dramPa 4096 0

/-- The launch, task and translation under which a core fetches the instruction placed at `placedPa`. -/
def State.readyToFetch (s : State) (core : Nat) : State :=
  let e : TlbEntry := { lid := 0, vpn := 4, big := false, pa := placedPa, x := true }
  let x : Ctx := { pc := 0x40000, npc := 0x40000, task := some { handler := 0, src := 0, limit := 65536, since := s.ownClk core } }
  let l : Launch :=
    { record := { h := 16, w := 15, ncomp := 1, nmin := 1, tlim := 256, ver := 1 }, startClk := s.clk, compute := [core]
      scans := [(unitOf placedPa, [0])] }
  { s with
    schedule := [], cur := ⟨core, 1⟩, phase := 0, powered := true
    mb := { s.mb with state := .ready, badCols := some (s.mb.badCols.getD []), grade := 0x0A, mapGrade := 0x0A }
    launches := putAt 0 l s.launches
    cores := putAt core { s.core core with role := .host 0 .compute 0, ctxs := [(1, x)], tlb := [e], nextIssue := 0, shadows := [] } s.cores }

/-- A state with an instruction's halfwords placed where the next step fetches. A privileged instruction is placed for the hall
controller of hall (0, 0), any other for the core (8, 0, 0). -/
def State.placeInstr (s : State) (nbits w : Nat) : State :=
  let ws := tableHalves nbits w
  let core := match decodeTableWord nbits w with
    | some i => if isPrivileged i then placeOf 0 0 1 else placeOf 8 0 0
    | none => placeOf 8 0 0
  let t := s.readyToFetch core
  { t with mem := Memory.writeN t.mem placedPa (halfBytes ws) }

end Sys2Proof.Machine
end

