-- ==== Sys2Proof/Safety.lean ====
section
/-! DEFINITION. What a safe run of the module is, in the terms the statements use: the states a run reaches, the canonical
form of memory and tags, and a run that never stops. -/

namespace Sys2Proof.Machine
open Sys2Proof

/-- The states that steps reach from a state. -/
inductive Reaches : State → State → Prop where
  | start (s : State) : Reaches s s
  | onward {s t u : State} : Reaches s t → step t = Host.Outcome.next u → Reaches s u

/-- Memory, the W0 bytes and the tags are in their canonical form, so that equal memories are equal data (R199, R201). -/
def State.memOk (s : State) : Prop :=
  Memory.wf s.mem = true ∧ Memory.wf s.w0 = true ∧ s.tags.Pairwise (· < ·)

/-- A run from a state that never stops: every turn gives a next state. -/
def SafeRun (s : State) : Prop := ∀ t, Reaches s t → ∃ u, step t = Host.Outcome.next u

end Sys2Proof.Machine
end

