-- ==== Sys2Proof/Certificates/Slice0/Obligations.lean ====
section
/-! DEFINITION. The statements for the provers. Each docstring cites the rule of spec/ it formalises; a statement about an
instruction takes its operands as the meaning takes them (takeSrc, takeCode), after the state has met them. -/

namespace Sys2Proof.Machine
open Sys2Proof

/-- Lane `i` of a value, `w` bits wide. -/
def laneBits (w i : Nat) (v : W128) : BitVec w := v.extractLsb' (w * i) w

/-- Less than by the signedness of a type (R311). -/
def tyLt {w : Nat} (t : Ty) (a b : BitVec w) : Bool := if t.signed then a.slt b else a.ult b

/-- All ones when a condition holds, else zero. -/
def allIf {w : Nat} (b : Bool) : BitVec w := if b then BitVec.allOnes w else 0

/-- Each lane of `r` is `f` of the lanes of `x` and `y`, and under .x the upper half is zero (R321). -/
def LanesAre (t : Ty) (f : BitVec t.bits → BitVec t.bits → BitVec t.bits) (x y r : W128) : Prop :=
  (∀ i, i < t.lanes → laneBits t.bits i r = f (laneBits t.bits i x) (laneBits t.bits i y)) ∧ (t = .x → r.extractLsb' 64 64 = 0)

/-- The rows of Table 16-3, and rot of R326, with F on lanes. -/
def laneRows : List ((Args → Instr) × ((t : Ty) → BitVec t.bits → BitVec t.bits → BitVec t.bits)) :=
  [(.add, fun _ a b => a + b), (.sub, fun _ a b => a - b), (.and, fun _ a b => a &&& b), (.or, fun _ a b => a ||| b),
   (.xor, fun _ a b => a ^^^ b), (.andn, fun _ a b => a &&& ~~~b), (.shl, fun t a b => a <<< (b.toNat % t.bits)),
   (.shr, fun t a b => a >>> (b.toNat % t.bits)), (.sar, fun t a b => a.sshiftRight (b.toNat % t.bits)), (.mul, fun _ a b => a * b),
   (.min, fun t a b => if tyLt t a b then a else b), (.max, fun t a b => if tyLt t a b then b else a),
   (.seq, fun _ a b => allIf (a == b)), (.sne, fun _ a b => allIf (a != b)), (.slt, fun t a b => allIf (tyLt t a b)),
   (.sle, fun t a b => allIf (!tyLt t b a)), (.rot, fun t a b => a.rotateLeft (b.toNat % t.bits))]

/-- div, rem and mulh of R325: F on lanes, and the latency of Table 16-4 by lane width. -/
def shadowRows : List ((Args → Instr) × ((t : Ty) → BitVec t.bits → BitVec t.bits → BitVec t.bits) × (Nat → Nat)) :=
  let divTime : Nat → Nat := fun w => if w = 64 then 36 else if w = 32 then 20 else if w = 16 then 12 else 8
  [(.div, fun t a b => if b = 0 then BitVec.allOnes _ else if t.signed then a.sdiv b else a.udiv b, divTime),
   (.rem, fun t a b => if b = 0 then a else if t.signed then a.srem b else a.umod b, divTime),
   (.mulh, fun t a b => if t.signed then (a.signExtend (2 * t.bits) * b.signExtend (2 * t.bits)).extractLsb' t.bits t.bits
      else (a.setWidth (2 * t.bits) * b.setWidth (2 * t.bits)).extractLsb' t.bits t.bits, fun _ => 4)]

/-- The number of one bits among the lowest `n` of a value. -/
def onesBelow (n : Nat) (v : W128) : Nat := ((List.range n).filter (fun i => v.getLsbD i)).length

/-- Bytes of pieces written in order, each at its physical address under its masks (R221). -/
def storedMem (m : List Host.Cell) (bs : List Byte) (mask : List (BitVec 2)) (ps : List (Piece × Target)) : List Host.Cell :=
  ps.foldl (fun m p => Memory.writeMasked m p.2.pa ((bs.drop p.1.off).take p.1.len) ((mask.drop p.1.off).take p.1.len)) m

/-- A physical address lies in none of the pieces. -/
def outsideAll (ps : List (Piece × Target)) (x : Nat) : Prop := ∀ p ∈ ps, x < p.2.pa ∨ p.2.pa + p.1.len ≤ x

/-- No acquire, held target or device order keeps the current context's access back, and the L1 takes no part. -/
def accessFree (s : State) (ps : List (Piece × Target)) : Prop :=
  s.cx.acquires = [] ∧ s.cc.holds = [] ∧ s.cc.l1Ways = 0 ∧ s.cc.l1 = [] ∧ ∀ p ∈ ps, p.2.device = false

/-- F of Table 18-5 on items of a type's width. -/
def amoRows : List ((Ord → Scope → Args → Instr) × Nat × ((t : Ty) → BitVec t.bits → BitVec t.bits → BitVec t.bits → BitVec t.bits)) :=
  [(.amoadd, 0, fun _ o v _ => o + v), (.amoand, 1, fun _ o v _ => o &&& v), (.amoor, 2, fun _ o v _ => o ||| v),
   (.amoxor, 3, fun _ o v _ => o ^^^ v), (.amomin, 4, fun t o v _ => if tyLt t v o then v else o),
   (.amomax, 5, fun t o v _ => if tyLt t o v then v else o), (.amoswp, 6, fun _ _ v _ => v),
   (.amocas, 7, fun _ o v c => if o = c then v else o)]

/-- The ticket class of a register that a command has made PENDING (Table 9-4). -/
def pendingClass (r : Reg) (cls : BitVec 4) : Prop := r.state = .pending ∧ r.ticket.extractLsb' 12 4 = cls

/-- The last message a step put into the network carries a body to a port. -/
def sentLast (t : State) (port : Port) (b : Body) : Prop := ∃ q, t.net.getLast? = some q ∧ q.body = b ∧ q.port = port

/-- Lanes as numbers: each lane of `r` is what `f` gives for the lane's index. -/
def lanesGive (t : Ty) (r : W128) (f : Nat → Nat) : Prop := ∀ i, i < t.lanes → laneAt t.bits i r = f i

/-- Decoded lane `i` of a value under the current core's s.fmc (R350 step 1). -/
def State.laneVal (s : State) (t : Ty) (v : W128) (i : Nat) : FVal := (fmtOf s.cc.fmc t).input s.rules.ftz (laneAt t.bits i v)

/-- The code that lane `i` of a computed result holds: rounded once under the current rules with the lane's draw (R350). -/
def State.laneCode (s : State) (t : Ty) (i : Nat) (v : FVal) : Nat :=
  encodeVal (fmtOf s.cc.fmc t) s.rules (if s.rules.rnd = 6 then (drawMany t.lanes s.cc.seed).1.getD i 0 else 0) v

/-- s.seed after a computed result: one draw a lane under stochastic rounding, none otherwise (R247). -/
def State.seedAfter (s : State) (n : Nat) : BitVec 32 := if s.rules.rnd = 6 then (drawMany n s.cc.seed).2 else s.cc.seed

end Sys2Proof.Machine

open Sys2Proof Sys2Proof.Machine

/-- R321, R326: each two-source integer instruction and rot, with its sources read, writes F lane by lane into its destination,
FULL and untagged, and goes on; under .x bits [127:64] are zero. Every row of Table 16-3, every type, every operand form. -/
def Clause.IntegerLaneResults : Prop :=
  ∀ row ∈ laneRows, ∀ (a : Args) (s u : State) (x y : TagVal),
    s.operands2 a.ty a.s1 a.s2 [.dst a.d] = .ok (x, y, u) →
    ∃ r, LanesAre a.ty (row.2 a.ty) x.v y.v r ∧ exec (row.1 a) s = .next ((u.writeD a.d ⟨r, false⟩).advance)

/-- R325: div, rem and mulh, with their sources read, go on at once, and their lanes are in flight with the latency of
Table 16-4; a zero divisor gives all ones and the dividend, signed overflow the dividend and 0. -/
def Clause.ShadowedArithmetic : Prop :=
  ∀ row ∈ shadowRows, ∀ (a : Args) (s u : State) (x y : TagVal),
    s.operands2 a.ty a.s1 a.s2 [.dst a.d] = .ok (x, y, u) →
    ∃ r, LanesAre a.ty (row.2.1 a.ty) x.v y.v r ∧ exec (row.1 a) s = .next (u.shadowD (row.2.2 a.ty.bits) a ⟨r, false⟩)

/-- R322: clz writes each lane's leading zeros (w for a zero lane) and popc its one bits. -/
def Clause.BitCounts : Prop :=
  ∀ (a : Args) (s u : State) (x : TagVal), s.operand1 a.ty a.s1 [.dst a.d] = .ok (x, u) →
    (∃ r, LanesAre a.ty (fun v _ => BitVec.ofNat _ (a.ty.bits - (if v = 0 then 0 else v.toNat.log2 + 1))) x.v 0 r
      ∧ exec (.clz a) s = .next ((u.writeD a.d ⟨r, false⟩).advance)) ∧
    (∃ r, LanesAre a.ty (fun v _ => BitVec.ofNat _ (onesBelow a.ty.bits (v.setWidth 128))) x.v 0 r
      ∧ exec (.popc a) s = .next ((u.writeD a.d ⟨r, false⟩).advance))

/-- R323, R324: sel takes each bit from the first source where the old destination has a one, else from the second; bext
extracts and bins inserts the field of the descriptor, cut at W; the old destination is met first. -/
def Clause.SelectAndFields : Prop :=
  ∀ (a : Args) (s : State),
    let w := if a.ty = .x then 64 else 128
    (∀ x c u, s.operands2 a.ty a.s1 a.s2 [.dst a.d] = .ok (x, c, u) →
      ∃ r : W128, (∀ k, r.getLsbD k = (decide (k ≤ c.v.toNat / 128 % 128) && decide (c.v.toNat % 128 + k < w)
          && x.v.getLsbD (c.v.toNat % 128 + k)))
        ∧ exec (.bext a) s = .next ((u.writeD a.d ⟨r, false⟩).advance)) ∧
    (s.meet ([.src a.d] ++ srcMeet a.s1 ++ srcMeet a.s2 ++ [.dst a.d]) = .ok () →
      let m := s.takeCode a.d
      let x := m.2.takeSrc a.ty a.s1
      let y := x.2.takeSrc a.ty a.s2
      (∃ r : W128, (∀ k, r.getLsbD k = (decide (k < w) && if m.1.v.getLsbD k then x.1.v.getLsbD k else y.1.v.getLsbD k))
        ∧ exec (.sel a) s = .next ((y.2.writeD a.d ⟨r, false⟩).advance)) ∧
      (∃ r : W128, (∀ k, r.getLsbD k = (decide (k < w) &&
          if y.1.v.toNat % 128 ≤ k ∧ k ≤ y.1.v.toNat % 128 + y.1.v.toNat / 128 % 128
          then x.1.v.getLsbD (k - y.1.v.toNat % 128) else m.1.v.getLsbD k))
        ∧ exec (.bins a) s = .next ((y.2.writeD a.d ⟨r, false⟩).advance)))

/-- R317, R318, R320, R333: nop only goes on; mov copies all 128 bits and the tag; li and cclr write their source untagged. -/
def Clause.Moves : Prop :=
  ∀ (a : Args) (s : State), exec (.nop a) s = .next s.advance ∧
    ∀ x u, s.operand1 a.ty a.s1 [.dst a.d] = .ok (x, u) →
      exec (.mov a) s = .next ((u.writeD a.d x).advance) ∧ exec (.li a) s = .next ((u.writeD a.d ⟨x.v, false⟩).advance)
      ∧ exec (.cclr a) s = .next ((u.writeD a.d ⟨x.v, false⟩).advance)

/-- R181: fmov of a register onto itself changes nothing; of one general register to another it moves value, tag, state, ticket
and code, leaves the source POISONED MOVED, and the ticket of a future delivers to the new register (to none for z); of z or a
literal it writes the value untagged. -/
def Clause.FutureMoves : Prop :=
  ∀ (a : Args) (s : State),
    (a.s1 = .reg a.d → exec (.fmov a) s = .next s.advance) ∧
    (∀ b : BitVec 6, a.s1 = .reg b → b ≠ a.d → b.toNat < 32 → (a.d.toNat < 32 ∨ a.d = 62) → s.inShadow b = false →
      s.curStream? b.toNat = none → s.curStream? a.d.toNat = none → s.meet [.dst a.d] = .ok () →
      let r := s.regAt s.cur.core s.cur.ctx b.toNat
      let dest := if a.d = 62 then Loc.nowhere else Loc.gpr s.cur.core s.cur.ctx a.d.toNat
      ∃ t, exec (.fmov a) s = .next t ∧ t.regAt s.cur.core s.cur.ctx b.toNat = Reg.poison pzMoved
        ∧ (a.d ≠ 62 → t.regAt s.cur.core s.cur.ctx a.d.toNat = r)
        ∧ (t.core s.cur.core).tickets = (s.core s.cur.core).tickets.map (fun k =>
            if r.state = .pending ∧ k.t = r.ticket ∧ k.loc = Loc.gpr s.cur.core s.cur.ctx b.toNat then { k with loc := dest } else k)) ∧
    (∀ x u, (a.s1 = .reg 62 ∨ ∃ v, a.s1 = .lit v) → a.d ≠ 62 → s.operand1 a.ty a.s1 [.dst a.d] = .ok (x, u) →
      exec (.fmov a) s = .next ((u.writeD a.d ⟨x.v, false⟩).advance))

/-- R328–R333: cadd adds to the cursor modulo 2^48 and keeps every other bit and the tag; cprm and cfmt of a tagged source
change only the permissions or the format; cget and ctest read. -/
def Clause.CapabilityFields : Prop :=
  ∀ (a : Args) (s u : State) (c y : TagVal), s.operands2 a.ty a.s1 a.s2 [.dst a.d] = .ok (c, y, u) →
    (∃ r : W128, r.extractLsb' 48 80 = c.v.extractLsb' 48 80 ∧ r.extractLsb' 0 48 = c.v.extractLsb' 0 48 + y.v.extractLsb' 0 48
      ∧ exec (.cadd a) s = .next ((u.writeD a.d ⟨r, c.tag⟩).advance)) ∧
    (c.tag = true → ∃ r : W128, r.extractLsb' 0 123 = c.v.extractLsb' 0 123
      ∧ r.extractLsb' 123 5 = c.v.extractLsb' 123 5 &&& y.v.extractLsb' 0 5
      ∧ exec (.cprm a) s = .next ((u.writeD a.d ⟨r, true⟩).advance)) ∧
    (c.tag = true → ∃ r : W128, r.extractLsb' 0 114 = c.v.extractLsb' 0 114 ∧ r.extractLsb' 123 5 = c.v.extractLsb' 123 5
      ∧ r.extractLsb' 114 4 = y.v.extractLsb' 0 4 ∧ r.extractLsb' 118 2 = y.v.extractLsb' 4 2 ∧ r.extractLsb' 120 3 = y.v.extractLsb' 6 3
      ∧ exec (.cfmt a) s = .next ((u.writeD a.d ⟨r, true⟩).advance)) ∧
    (c.tag = false → exec (.cprm a) s = .next (s.trapAt s.cur.core s.cur.ctx clsCapability 0 (BitVec.ofNat 64 (capCursor c.v)))
      ∧ exec (.cfmt a) s = .next (s.trapAt s.cur.core s.cur.ctx clsCapability 0 (BitVec.ofNat 64 (capCursor c.v)))) ∧
    (∃ r : W64, (let k := (y.v.setWidth 64).toNat
        (k = 0 → r.toNat = capCursor c.v) ∧ (k = 1 → r.toNat = capBase c.v) ∧ (k = 2 → r.toNat = capLength c.v)
        ∧ (k = 3 → r = (c.v.extractLsb' 123 5).setWidth 64) ∧ (k = 4 → r = (c.v.extractLsb' 114 9).setWidth 64)
        ∧ (k = 5 → r = if c.tag then 1 else 0) ∧ (k = 6 → r.toNat = capTop c.v)
        ∧ (k = 7 → r.toInt = (capCursor c.v : Int) - capBase c.v) ∧ (8 ≤ k → r = 0))
      ∧ exec (.cget a) s = .next ((u.writeD a.d ⟨r.setWidth 128, false⟩).advance)) ∧
    (∃ r : W64, (r = if c.tag = true ∧ capBase c.v ≤ capCursor c.v ∧ capCursor c.v + (y.v.setWidth 64).toNat ≤ capTop c.v
        then BitVec.allOnes 64 else 0)
      ∧ exec (.ctest a) s = .next ((u.writeD a.d ⟨r.setWidth 128, false⟩).advance))

/-- R329: cbnd, of a tagged source or of the launch root, gives the bounds from the cursor rounded down to 256 bytes, in the
smallest granules with fewer than 2^24 of them, or traps CAPABILITY with the cursor where no granule is large enough or the
bounds would leave those of its source. -/
def Clause.BoundsDerivation : Prop :=
  ∀ (a : Args) (s u : State) (c y : TagVal), s.operands2 a.ty a.s1 a.s2 [.dst a.d] = .ok (c, y, u) →
    let cur := (c.v.extractLsb' 0 48).toNat
    let base := cur - cur % 256
    let sp := cur % 256 + (y.v.setWidth 64).toNat
    let count (g : Nat) := (sp + (256 * 4 ^ g - 1)) / (256 * 4 ^ g)
    let low := if c.tag then capBase c.v else 0
    let high := if c.tag then capTop c.v else 2 ^ 48
    let traps := exec (.cbnd a) s = .next (s.trapAt s.cur.core s.cur.ctx clsCapability 0 (BitVec.ofNat 64 cur))
    ((∀ g < 4, 2 ^ 24 ≤ count g) → traps) ∧
    ∀ g < 4, count g < 2 ^ 24 → (∀ h < g, 2 ^ 24 ≤ count h) →
      ((base < low ∨ high < base + count g * (256 * 4 ^ g)) → traps) ∧
      (low ≤ base → base + count g * (256 * 4 ^ g) ≤ high →
        ∃ r : W128, exec (.cbnd a) s = .next ((u.writeD a.d ⟨r, true⟩).advance)
          ∧ capGran r = g ∧ capLen r = count g ∧ capBase r = base ∧ capCursor r = cur
          ∧ r.extractLsb' 114 14 = if c.tag then c.v.extractLsb' 114 14 else 0x3E00)

/-- R327: what cadd, cbnd, cprm and cfmt write from a tagged source never has a permission or a byte of bounds that the source
lacks. -/
def Clause.CapabilitiesNeverWiden : Prop :=
  ∀ i ∈ [Instr.cadd, Instr.cbnd, Instr.cprm, Instr.cfmt], ∀ (a : Args) (s u : State) (c y : TagVal),
    s.operands2 a.ty a.s1 a.s2 [.dst a.d] = .ok (c, y, u) → c.tag = true →
    (∃ r : W128, exec (i a) s = .next ((u.writeD a.d ⟨r, true⟩).advance)
      ∧ capBase c.v ≤ capBase r ∧ capTop r ≤ capTop c.v ∧ (r.extractLsb' 123 5 &&& ~~~(c.v.extractLsb' 123 5)) = 0)
    ∨ exec (i a) s = .next (s.trapAt s.cur.core s.cur.ctx clsCapability 0 (BitVec.ofNat 64 (capCursor c.v)))

/-- R335–R337, R342: a branch whose condition holds and whose target lies in its own unit goes to pc + 2 × disp and pops the
loops it leaves; one whose condition fails goes on; call writes the address of the next instruction and goes there. -/
def Clause.Branches : Prop :=
  ∀ (a : Args) (s : State),
    let near (d : BitVec 32) : Prop := (s.cx.pc + d.signExtend 48 * 2).toNat / 65536 = s.cx.pc.toNat / 65536
    (near (srcImm a.s1) → exec (.b a) s = .next (s.jump (s.cx.pc + (srcImm a.s1).signExtend 48 * 2))) ∧
    (s.meet [.dst a.d] = .ok () → near (srcImm a.s1) →
      exec (.call a) s = .next ((s.writeD a.d ⟨s.cx.npc.setWidth 128, false⟩).goto (s.cx.pc + (srcImm a.s1).signExtend 48 * 2))) ∧
    (∀ x u, s.operand1 a.ty a.s1 [] = .ok (x, u) → near (srcImm a.s2) →
      let t := s.cx.pc + (srcImm a.s2).signExtend 48 * 2
      exec (.bz a) s = .next (if x.v = 0 then u.jump t else u.advance) ∧
      exec (.bnz a) s = .next (if x.v = 0 then u.advance else u.jump t)) ∧
    (∀ x y u, s.operands2 a.ty a.s1 a.s2 [] = .ok (x, y, u) → near (srcImm a.s3) →
      let t := s.cx.pc + (srcImm a.s3).signExtend 48 * 2
      let less := if a.ty = .n64 then (x.v.setWidth 64).ult (y.v.setWidth 64) else (x.v.setWidth 64).slt (y.v.setWidth 64)
      exec (.blt a) s = .next (if less then u.jump t else u.advance) ∧
      exec (.bge a) s = .next (if less then u.advance else u.jump t))

/-- R338: an indirect target that a tagged source without X gives traps CAPABILITY, one outside its bounds BOUNDS, both with the
cursor; a target that the fetch checks accept is where callr and jr go, callr writing the link after it has read its source. -/
def Clause.IndirectTransfers : Prop :=
  ∀ (a : Args) (s u : State) (c : TagVal),
    let cur := (c.v.extractLsb' 0 48).toNat
    let stops (cls : BitVec 8) : Host.Outcome State Fault Refusal := .next (s.trapAt s.cur.core s.cur.ctx cls 0 (BitVec.ofNat 64 cur))
    (s.operand1 a.ty a.s1 [] = .ok (c, u) →
      (c.tag = true → capX c.v = false → exec (.jr a) s = stops clsCapability) ∧
      (c.tag = true → capX c.v = true → (cur < capBase c.v ∨ capTop c.v < cur + 2) → exec (.jr a) s = stops clsBounds) ∧
      ((c.tag = true → capX c.v = true ∧ capBase c.v ≤ cur ∧ cur + 2 ≤ capTop c.v) →
        ∀ pa, u.checkFetch u.cur.core u.lid cur = .ok pa → exec (.jr a) s = .next (u.jump (c.v.extractLsb' 0 48)))) ∧
    (s.operand1 a.ty a.s1 [.dst a.d] = .ok (c, u) →
      (c.tag = true → capX c.v = false → exec (.callr a) s = stops clsCapability) ∧
      (c.tag = true → capX c.v = true → (cur < capBase c.v ∨ capTop c.v < cur + 2) → exec (.callr a) s = stops clsBounds) ∧
      ((c.tag = true → capX c.v = true ∧ capBase c.v ≤ cur ∧ cur + 2 ≤ capTop c.v) →
        ∀ pa, u.checkFetch u.cur.core u.lid cur = .ok pa →
          exec (.callr a) s = .next ((u.writeD a.d ⟨s.cx.npc.setWidth 128, false⟩).goto (c.v.extractLsb' 0 48))))

/-- R340: loop traps COMMAND 1 on a last address before the next instruction or outside the code block, 3 at the LAST of the
top entry, 2 with four entries and a count above 0; else it pushes FIRST, LAST and the count, and a count of 0 goes to the next
start after last. -/
def Clause.CountedLoops : Prop :=
  ∀ (a : Args) (s u : State) (x : TagVal), s.operand1 a.ty a.s1 [] = .ok (x, u) →
    let last := s.cx.pc + (srcImm a.s2).signExtend 48 * 2
    let n : W64 := x.v.setWidth 64
    let bad := last.toNat < s.cx.npc.toNat ∨ last.toNat / 4096 ≠ s.cx.pc.toNat / 4096
    let again := ∃ e r, s.cx.loops = e :: r ∧ e.last = s.cx.pc
    let stops (d : Nat) : Prop := exec (.loopN a) s = .next (s.trapAt s.cur.core s.cur.ctx clsCommand 0 (BitVec.ofNat 64 d))
    (bad → stops 1) ∧ (¬bad → again → stops 3) ∧
    (¬bad → ¬again → n = 0 → exec (.loopN a) s = .next (u.goto (u.startAfter last))) ∧
    (¬bad → ¬again → n ≠ 0 → 4 ≤ s.cx.loops.length → stops 2) ∧
    (¬bad → ¬again → n ≠ 0 → s.cx.loops.length < 4 → s.cx.pc.toNat < s.cx.npc.toNat →
      ∃ t, exec (.loopN a) s = .next t ∧ t.cx.pc = s.cx.npc
      ∧ t.cx.loops = ⟨s.cx.npc, last, n⟩ :: s.cx.loops)

/-- R341: an instruction at the top entry's LAST that does not transfer control decrements its count and goes to FIRST; at zero
the entry is popped and the check repeats. -/
def Clause.LoopEnds : Prop :=
  ∀ (s : State) (e : Loop) (r : List Loop), s.cx.loops = e :: r →
    (e.last ≠ s.cx.pc → s.advance.cx.pc = s.cx.npc ∧ s.advance.cx.loops = e :: r) ∧
    (e.last = s.cx.pc → e.count ≠ 1 → s.advance.cx.pc = e.first ∧ s.advance.cx.loops = { e with count := e.count - 1 } :: r) ∧
    (e.last = s.cx.pc → e.count = 1 → (s.modCx (fun x => { x with loops := r })).advance.cx.pc = s.advance.cx.pc
      ∧ (s.modCx (fun x => { x with loops := r })).advance.cx.loops = s.advance.cx.loops)

/-- R192, R345: sget writes the register that Table 9-6 gives for bits [11:0] of its address, zero-extended; an unassigned
address reads zero. -/
def Clause.SystemRegisterReads : Prop :=
  ∀ (a : Args) (s : State), s.meet [.dst a.d] = .ok () →
    ∃ v : W64, exec (.sget a) s = .next ((s.writeD a.d ⟨v.setWidth 128, false⟩).advance) ∧
      let n := (srcImm a.s1).toNat % 4096
      (n = 0 → v = s.cc.fmc.setWidth 64) ∧ (n = 1 → v = s.cc.seed.setWidth 64) ∧ (n = 2 → v = s.cc.tlimit.setWidth 64)
      ∧ (n = 8 → v = BitVec.ofNat 64 (s.ownClk s.cur.core - (s.group (groupOf s.cur.core)).base)) ∧ (n = 9 → v = s.time)
      ∧ (n = 10 → v = s.cc.lat) ∧ (n = 0x10 → v.extractLsb' 0 3 = BitVec.ofNat 3 s.cur.ctx) ∧ (n = 0x13 → v = s.cc.notice)
      ∧ (n = 0x11 → v = taskWord s.cx) ∧ (n = 0x12 → v = s.licWord s.cur.core)
      ∧ (∀ k < 8, n = 0x20 + k → v.getLsbD 63 = (s.cc.chan k).en ∧ v.extractLsb' 52 9 = (s.cc.chan k).count
          ∧ v.extractLsb' 44 8 = (s.cc.chan k).head ∧ v.extractLsb' 32 4 = (s.cc.chan k).log2e ∧ v.extractLsb' 4 13 = (s.cc.chan k).base)
      ∧ (n ∉ [0, 1, 2, 8, 9, 10, 0x10, 0x11, 0x12, 0x13, 0x20, 0x21, 0x22, 0x23, 0x24, 0x25, 0x26, 0x27] → v = 0)

/-- R119, R192, R193, R346: sset writes s.fmc, s.seed (1 for 0) and s.tlimit (1 for 0, at most TLIM); a read-only or unassigned
address ignores the write. -/
def Clause.SystemRegisterWrites : Prop :=
  ∀ (a : Args) (s u : State) (x : TagVal), s.operand1 a.ty a.s1 [] = .ok (x, u) →
    let n := (srcImm a.s2).toNat % 4096
    let v : W64 := x.v.setWidth 64
    let low : BitVec 32 := v.setWidth 32
    let lim := (u.launch u.lid).record.tlim
    ∃ t, exec (.sset a) s = .next t ∧
      (n = 0 → t.cc.fmc = v.setWidth 14) ∧ (n = 1 → t.cc.seed = if low = 0 then 1 else low)
      ∧ (n = 2 → t.cc.tlimit = if low = 0 then 1 else if lim.toNat < low.toNat then lim else low)
      ∧ (∀ k < 8, n = 0x20 + k → t.cc.chan k = (u.cc.chan k).configure v)
      ∧ (n ∉ [0, 1, 2, 0x20, 0x21, 0x22, 0x23, 0x24, 0x25, 0x26, 0x27] → t = u.advance)

/-- R344: brk under an armed session halts the launch after it has issued, once its clk has ended; otherwise it raises BREAK with
DETAIL zero. -/
def Clause.Breaks : Prop :=
  (∀ (a : Args) (s : State),
    exec (.brk a) s = .next (if s.cmd.dbgArmed = true ∧ s.cmd.dbgLid.toNat = s.lid
      then s.advance.modLaunch s.lid (fun l => { l with brkAt := some s.clk })
      else s.trapAt s.cur.core s.cur.ctx clsBreak 0 0)) ∧
  ∀ (s : State) (lid c : Nat) (l : Launch), s.launch? lid = some l → l.brkAt = some c → l.halted = none →
    (c < s.clk → ∃ m, s.settleBrks.launch? lid = some m ∧ m.halted = some s.clk ∧ m.brkAt = none) ∧
    (s.clk ≤ c → s.settleBrks.launch? lid = some l)

/-- R201, R199: memory is a map: a byte written reads back, every other byte reads as before, and a write keeps the canonical
form. That an unlisted byte reads as zero is the model's choice (log 7). -/
def Clause.MemoryReadsBack : Prop :=
  ∀ (m : List Host.Cell) (a x : Nat) (b : Byte), Memory.wf m = true →
    Memory.wf (Memory.write m a b) = true ∧ Memory.read (Memory.write m a b) x = if x = a then b else Memory.read m x

/-- R207: a write under nibble masks changes exactly the nibbles its masks name: no other nibble and no byte outside its range. -/
def Clause.MaskedWrites : Prop :=
  ∀ (m : List Host.Cell) (a x : Nat) (bs : List Byte) (mask : List (BitVec 2)), Memory.wf m = true → mask.length = bs.length →
    Memory.wf (Memory.writeMasked m a bs mask) = true ∧
    let r := Memory.read (Memory.writeMasked m a bs mask) x
    (x < a ∨ a + bs.length ≤ x → r = Memory.read m x) ∧
    ∀ i b k, x = a + i → bs[i]? = some b → mask[i]? = some k →
      r.extractLsb' 0 4 = (if k.getLsbD 0 then b.extractLsb' 0 4 else (Memory.read m x).extractLsb' 0 4) ∧
      r.extractLsb' 4 4 = (if k.getLsbD 1 then b.extractLsb' 4 4 else (Memory.read m x).extractLsb' 4 4)

/-- R377: what ld writes from the item's bytes, lowest first: signed narrow types sign-extended to 64 bits, unsigned ones
zero-extended, bits [127:64] zero; 16 bytes for .b and .c, and a tag only under .c. -/
def Clause.LoadedItems : Prop :=
  ∀ (buf : List (Nat × Byte)) (keep tag : Bool),
    let n (k : Nat) : BitVec (8 * k) := BitVec.ofNat _ (bytesNat ((span 0 k).map (bufByte buf)))
    let got (t : Ty) : W128 := ((LoadFmt.item t keep).result buf tag).v
    got .x = (n 8).setWidth 128 ∧ got .s64 = (n 8).setWidth 128 ∧ got .n64 = (n 8).setWidth 128
    ∧ got .s32 = ((n 4).signExtend 64).setWidth 128 ∧ got .n32 = (n 4).setWidth 128
    ∧ got .s16 = ((n 2).signExtend 64).setWidth 128 ∧ got .n16 = (n 2).setWidth 128
    ∧ got .s8 = ((n 1).signExtend 64).setWidth 128 ∧ got .n8 = (n 1).setWidth 128 ∧ got .b = (n 16).setWidth 128
    ∧ got .c = (n 16).setWidth 128 ∧ ∀ t, ((LoadFmt.item t keep).result buf tag).tag = (keep && tag)

/-- R375: a load whose bytes all lie in the issuing core's own local SRAM goes on at once, never makes its destination PENDING,
and lands 3 clk of the core later: ld (acquires too), ldf and ldg. -/
def Clause.LocalLoads : Prop :=
  ∀ (a : Args) (s u : State) (c e : TagVal) (ps : List (Piece × Target)), s.cx.acquires = [] → allOwn ps = true →
    let lands (i : Instr) (v : TagVal) : Prop := ∃ t h, exec i s = .next t ∧ (t.core s.cur.core).shadows.getLast? = some h
      ∧ h.ctx = s.cur.ctx ∧ h.d = a.d ∧ h.val = v ∧ h.ready = s.clk + s.delay s.cur.core 3 ∧ h.store = none ∧ t.mem = s.mem
    (∀ ord sc, s.operand1 a.ty a.s1 [.dst a.d] = .ok (c, u) →
      s.checkAccess c (capCursor c.v) (a.ty.bits / 8) true false = .ok (.ok ps) →
      lands (.ld ord sc a) ((LoadFmt.item a.ty (a.ty == .c && c.tag && capC c.v)).result (s.ownBytes ps) (s.firstTag ps))) ∧
    (∀ cnt, s.operands2 .x a.s1 a.s2 [.dst a.d] = .ok (c, e, u) →
      let k := laneCount a.ty cnt
      let e0 := (e.v.setWidth 64).toNat
      s.checkElems c true false (elemOffsets c.v true (span e0 k)) = .ok (.ok ps) →
      lands (.ldf cnt a) ((LoadFmt.conv a.ty c.v e0 k s.latchFmc (s.elemDraws (capTy c.v) a.ty c.v k).1).result (s.ownBytes ps) false)) ∧
    (s.operands2 a.ty a.s1 a.s2 [.dst a.d] = .ok (c, e, u) → s.checkLanes a.ty c e.v true false = .ok (.ok ps) →
      lands (.ldg a) ((LoadFmt.lanes a.ty).result (s.ownBytes ps) false))

/-- R176, R375: a load that leaves the core makes its destination PENDING with a ticket of class 0x0 and goes on, one request a
piece outside its own local SRAM on the way, the lanes of a gather coalesced: ld (acquires too), ldf and ldg; nothing in memory
changes. -/
def Clause.RemoteLoads : Prop :=
  ∀ (a : Args) (s u : State) (c e : TagVal) (ps : List (Piece × Target)), accessFree s ps → allOwn ps = false →
    s.cc.ticketsFull = false → a.d.toNat < 32 → s.curStream? a.d.toNat = none →
    let pends (i : Instr) (n : Nat) : Prop := ∃ t, exec i s = .next t ∧ t.mem = s.mem ∧ pendingClass (t.regAt s.cur.core s.cur.ctx a.d.toNat) 0
      ∧ (t.core s.cur.core).tickets.length = s.cc.tickets.length + 1
      ∧ (t.core s.cur.core).outs.length = s.cc.outs.length + n
    let far := ps.filter (fun p => !p.2.own)
    (∀ ord sc, s.operand1 a.ty a.s1 [.dst a.d] = .ok (c, u) →
      s.checkAccess c (capCursor c.v) (a.ty.bits / 8) true false = .ok (.ok ps) → pends (.ld ord sc a) far.length) ∧
    (∀ cnt, s.operands2 .x a.s1 a.s2 [.dst a.d] = .ok (c, e, u) →
      s.checkElems c true false (elemOffsets c.v true (span (e.v.setWidth 64).toNat (laneCount a.ty cnt))) = .ok (.ok ps) →
      pends (.ldf cnt a) far.length) ∧
    (s.operands2 a.ty a.s1 a.s2 [.dst a.d] = .ok (c, e, u) → s.checkLanes a.ty c e.v true false = .ok (.ok ps) →
      ∃ n, 0 < n ∧ n ≤ far.length ∧ pends (.ldg a) n)

/-- R205, R206: a plain ld of a cacheable page makes its destination PENDING and goes on: a hit fills it from the line 4 clk later, and
a miss of a line that no entry names takes a miss entry and a line with a fill pending. -/
def Clause.CachedLoads : Prop :=
  ∀ (a : Args) (sc : Scope) (s u : State) (c : TagVal) (p : Piece × Target), s.cx.acquires = [] → s.cc.holds = [] →
    p.2.own = false → p.2.device = false → p.2.cached = true → 0 < s.cc.l1Ways → s.cc.ticketsFull = false → a.d.toNat < 32 →
    s.curStream? a.d.toNat = none → s.operand1 a.ty a.s1 [.dst a.d] = .ok (c, u) →
    s.checkAccess c (capCursor c.v) (a.ty.bits / 8) true false = .ok (.ok [p]) →
    let la := p.2.pa / 128
    let pends (t : State) : Prop := exec (.ld .plain sc a) s = .next t ∧ t.mem = s.mem
      ∧ pendingClass (t.regAt s.cur.core s.cur.ctx a.d.toNat) 0
    (∀ l, s.cc.line? la = some l → l.doomed = false → l.covers (p.2.pa % 128) p.1.len = true →
      ∃ t q r, pends t ∧ t.net.getLast? = some q ∧ q.body = .response r ∧ q.ready = s.clk + s.delay s.cur.core 4
        ∧ r.data = l.bytes (p.2.pa % 128) p.1.len) ∧
    (s.cc.line? la = none → s.cc.misses.any (fun m => m.la == la) = false → s.cc.misses.length < 8 →
      (s.cc.setLines la).length < s.cc.l1Ways →
      ∃ t w, pends t ∧ (t.core s.cur.core).misses = s.cc.misses ++ [⟨la, 2, [w]⟩] ∧ w.pa = p.2.pa ∧ w.len = p.1.len
        ∧ ∃ l, (t.core s.cur.core).line? la = some l ∧ l.fill = true)

/-- R195, R374: a load or value-returning atomic out of bounds leaves its destination POISONED BOUNDS and goes on; a store, or
an atomic that returns no value, raises BOUNDS. -/
def Clause.OutOfBoundsAccesses : Prop :=
  ∀ (a : Args) (s u : State) (c y : TagVal),
    let n := a.ty.bits / 8
    let bounds : Host.Outcome State Fault Refusal :=
      .next (s.trapAt s.cur.core s.cur.ctx clsBounds 0 (BitVec.ofNat 64 (capCursor c.v)))
    (∀ ord sc, s.operand1 a.ty a.s1 [.dst a.d] = .ok (c, u) → s.checkAccess c (capCursor c.v) n true false = .ok .oob →
      exec (.ld ord sc a) s = .next ((u.setRegAt s.cur.core s.cur.ctx a.d.toNat (Reg.poison pzBounds)).advance)) ∧
    (∀ ord sc, s.operands2 a.ty a.s1 a.s2 [] = .ok (c, y, u) → s.checkAccess c (capCursor c.v) n false true = .ok .oob →
      exec (.st ord sc a) s = bounds) ∧
    (∀ row ∈ amoRows, row.2.1 ≠ 7 → ∀ ord sc, s.operands2 a.ty a.s1 a.s2 [.dst a.d] = .ok (c, y, u) →
      s.checkAccess c (capCursor c.v) n true true = .ok .oob →
      exec (row.1 ord sc a) s = if a.d = 62 then bounds
        else .next ((u.setRegAt s.cur.core s.cur.ctx a.d.toNat (Reg.poison pzBounds)).advance)) ∧
    (∀ ord sc, s.meet (srcMeet a.s1 ++ srcMeet a.s2 ++ [.src a.d] ++ [.dst a.d]) = .ok () → c = (s.takeSrc a.ty a.s1).1 →
      u = ((s.takeSrc a.ty a.s1).2.takeSrc a.ty a.s2).2 → s.checkAccess c (capCursor c.v) n true true = .ok .oob →
      exec (.amocas ord sc a) s = if a.d = 62 then bounds
        else .next ((u.setRegAt s.cur.core s.cur.ctx a.d.toNat (Reg.poison pzBounds)).advance))

/-- R199, R221, R264, R375: a store whose bytes all lie in the issuing core's own local SRAM, in sound sectors, is performed in its
issue clk: st, stf and stg. Each byte goes to the address its piece gives; every other byte reads as before. With lookahead st and stg
change nothing at issue: each piece is in flight with its bytes and is performed 3 clk of the core later. Without lookahead st and stg to
a damaged sector trap MEMORY with its address. -/
def Clause.LocalStores : Prop :=
  ∀ (a : Args) (s u w : State) (c v e : TagVal) (sig : Option Sig) (ps : List (Piece × Target)), s.cx.acquires = [] →
    (∀ p ∈ ps, p.2.own = true ∧ p.2.device = false) →
    let sound : Prop := ∀ p ∈ ps, s.damaged p.2.pa = false ∧ w.damaged p.2.pa = false
    let stores (i : Instr) (bs : List Byte) (mask : List (BitVec 2)) : Prop :=
      ∃ t, exec i s = .next t ∧ t.mem = storedMem s.mem bs mask ps
        ∧ ∀ x, outsideAll ps x → Memory.read t.mem x = Memory.read s.mem x
    let flies (i : Instr) (bs : List Byte) : Prop :=
      ∃ t, exec i s = .next t ∧ t.mem = s.mem
        ∧ (s.cc.shadows.map (fun h => (h.ctx, h.ready, h.store.map (fun x => (x.1, x.2.1))))
            ++ ps.map (fun p => (s.cur.ctx, s.clk + s.delay s.cur.core 3, some (p.2.pa, (bs.drop p.1.off).take p.1.len))))
          <+: (t.core s.cur.core).shadows.map (fun h => (h.ctx, h.ready, h.store.map (fun x => (x.1, x.2.1))))
    let breaks (i : Instr) : Prop := ∀ p ∈ ps, s.damaged p.2.pa = true → (∀ q ∈ ps, s.damaged q.2.pa = true → q.2.pa = p.2.pa) →
      exec i s = .next (s.trapAt s.cur.core s.cur.ctx clsMemory 0 (BitVec.ofNat 64 p.2.pa))
    (∀ ord sc, s.operands2 a.ty a.s1 a.s2 [] = .ok (c, v, u) → s.checkAccess c (capCursor c.v) (a.ty.bits / 8) false true = .ok (.ok ps) →
      (a.look = 0 → breaks (.st ord sc a)) ∧
      (s.beforeStore (ord != .plain) sc = .ok (w, sig) → w.cx.acquires = [] → w.mem = s.mem → w.cc.shadows = s.cc.shadows →
        (a.look = 0 → sound → stores (.st ord sc a) (natBytes (a.ty.bits / 8) v.v.toNat) []) ∧
        (a.look ≠ 0 → flies (.st ord sc a) (natBytes (a.ty.bits / 8) v.v.toNat)))) ∧
    (s.meet ([.src a.d] ++ srcMeet a.s1 ++ srcMeet a.s2) = .ok () → c = (s.takeCode a.d).1 →
      v = ((s.takeCode a.d).2.takeSrc a.ty a.s1).1 → e = (((s.takeCode a.d).2.takeSrc a.ty a.s1).2.takeSrc a.ty a.s2).1 →
      s.checkLanes a.ty c e.v false true = .ok (.ok ps) →
      (a.look = 0 → breaks (.stg a)) ∧
      (s.fenceHolds = none →
        (a.look = 0 → w = s → sound → stores (.stg a) (natBytes 16 v.v.toNat) []) ∧
        (a.look ≠ 0 → flies (.stg a) (natBytes 16 v.v.toNat)))) ∧
    (∀ cnt ord sc, s.meet ([.src a.d] ++ srcMeet a.s1 ++ srcMeet a.s2) = .ok () → c = (s.takeCode a.d).1 →
      v = ((s.takeCode a.d).2.takeSrc a.ty a.s1).1 → e = (((s.takeCode a.d).2.takeSrc a.ty a.s1).2.takeSrc .x a.s2).1 →
      let k := laneCount a.ty cnt
      let e0 := (e.v.setWidth 64).toNat
      let ds := (s.elemDraws a.ty (capTy c.v) c.v k).1
      let codes := (span 0 k).map (fun i =>
        (e0 + i, convert s.latchFmc (rulesOf s.latchFmc true) (ds.getD i 0) a.ty (capTy c.v) (laneAt a.ty.bits i v.v)))
      let laid := layRuns (capBase c.v) (elemWrites c.v codes)
      (∃ qs, s.checkElems c false true (elemOffsets c.v false (span e0 k)) = .ok (.ok qs)) →
      s.resolve true laid.1 = .ok (.ok ps) → sound →
      s.beforeStore (ord != .plain) sc = .ok (w, sig) → w.cx.acquires = [] → w.mem = s.mem →
      stores (.stf ord sc cnt a) laid.2.1 laid.2.2)

/-- R219, R375: a plain store that leaves the core is sent to its home, one outstanding access a piece, and changes no memory
until it is performed there: st and stg without lookahead, and stf. -/
def Clause.RemoteStores : Prop :=
  ∀ (a : Args) (s u : State) (c v e : TagVal) (sc : Scope) (ps : List (Piece × Target)), accessFree s ps → s.fenceHolds = none →
    (∀ p ∈ ps, p.2.own = false) →
    let leaves (i : Instr) : Prop := ∃ t, exec i s = .next t ∧ t.mem = s.mem
      ∧ (t.core s.cur.core).outs.length = s.cc.outs.length + ps.length
    (a.look = 0 → s.operands2 a.ty a.s1 a.s2 [] = .ok (c, v, u) →
      s.checkAccess c (capCursor c.v) (a.ty.bits / 8) false true = .ok (.ok ps) → leaves (.st .plain sc a)) ∧
    (s.meet ([.src a.d] ++ srcMeet a.s1 ++ srcMeet a.s2) = .ok () → c = (s.takeCode a.d).1 →
      v = ((s.takeCode a.d).2.takeSrc a.ty a.s1).1 →
      (a.look = 0 → e = (((s.takeCode a.d).2.takeSrc a.ty a.s1).2.takeSrc a.ty a.s2).1 →
        s.checkLanes a.ty c e.v false true = .ok (.ok ps) → leaves (.stg a)) ∧
      (∀ cnt, e = (((s.takeCode a.d).2.takeSrc a.ty a.s1).2.takeSrc .x a.s2).1 →
        let k := laneCount a.ty cnt
        let e0 := (e.v.setWidth 64).toNat
        let ds := (s.elemDraws a.ty (capTy c.v) c.v k).1
        let codes := (span 0 k).map (fun i =>
          (e0 + i, convert s.latchFmc (rulesOf s.latchFmc true) (ds.getD i 0) a.ty (capTy c.v) (laneAt a.ty.bits i v.v)))
        (∃ qs, s.checkElems c false true (elemOffsets c.v false (span e0 k)) = .ok (.ok qs)) →
        s.resolve true (layRuns (capBase c.v) (elemWrites c.v codes)).1 = .ok (.ok ps) → leaves (.stf .plain sc cnt a)))

/-- R224, R228, R375: an st.rel or stf.rel of one piece that leaves the core performs steps 1 and 2, then goes to its home, cached or not,
with the core's signature, whose marker goes directly ahead; nothing in memory changes. -/
def Clause.ReleasingStores : Prop :=
  ∀ (a : Args) (s u w : State) (c v e : TagVal) (sc : Scope) (sig : Option Sig) (p : Piece × Target), p.2.own = false → p.2.device = false →
    s.beforeStore true sc = .ok (w, sig) → accessFree w [p] → w.mem = s.mem → w.cur = s.cur →
    (paRegion p.2.pa ≠ 1 ∨ paCol p.2.pa ≠ colOf s.cur.core) →
    let goes (i : Instr) (bs : List Byte) : Prop := sig = (if sc = .core ∨ w.cc.acc = 0 then none else some w.cc.acc) ∧
      ∃ t q r, exec i s = .next t ∧ t.mem = s.mem ∧ (t.core s.cur.core).outs.length = w.cc.outs.length + 1 ∧ t.net.getLast? = some q
        ∧ q.body = .access r ∧ r.op = .store ∧ r.pa = p.2.pa ∧ r.data = (bs.drop p.1.off).take p.1.len ∧ r.rel = sig
        ∧ (∀ g, sig = some g → (t.net.dropLast.getLast?).map (fun m => m.body) = some (.sigMark g))
    (a.look = 0 → s.operands2 a.ty a.s1 a.s2 [] = .ok (c, v, u) →
      s.checkAccess c (capCursor c.v) (a.ty.bits / 8) false true = .ok (.ok [p]) →
      goes (.st .rel sc a) (natBytes (a.ty.bits / 8) v.v.toNat)) ∧
    (∀ cnt, s.meet ([.src a.d] ++ srcMeet a.s1 ++ srcMeet a.s2) = .ok () → c = (s.takeCode a.d).1 →
      v = ((s.takeCode a.d).2.takeSrc a.ty a.s1).1 → e = (((s.takeCode a.d).2.takeSrc a.ty a.s1).2.takeSrc .x a.s2).1 →
      let k := laneCount a.ty cnt
      let e0 := (e.v.setWidth 64).toNat
      let ds := (s.elemDraws a.ty (capTy c.v) c.v k).1
      let codes := (span 0 k).map (fun i =>
        (e0 + i, convert s.latchFmc (rulesOf s.latchFmc true) (ds.getD i 0) a.ty (capTy c.v) (laneAt a.ty.bits i v.v)))
      let laid := layRuns (capBase c.v) (elemWrites c.v codes)
      (∃ qs, s.checkElems c false true (elemOffsets c.v false (span e0 k)) = .ok (.ok qs)) →
      s.resolve true laid.1 = .ok (.ok [p]) → goes (.stf .rel sc cnt a) laid.2.1)

/-- R205–R207, R220: a plain st to a cacheable page writes its L1 line and sends nothing: a hit, in a line with a fill pending too, and a
miss, which takes a line without a fetch while its set has room. The bytes written are valid and dirty there, every other byte of the line
as before, the line is entered into ACC, and memory does not change. -/
def Clause.CachedStores : Prop :=
  ∀ (a : Args) (sc : Scope) (s u : State) (c v : TagVal) (p : Piece × Target), s.cx.acquires = [] → s.cc.holds = [] → s.fenceHolds = none →
    a.look = 0 → p.2.own = false → p.2.device = false → p.2.cached = true → 0 < s.cc.l1Ways →
    s.operands2 a.ty a.s1 a.s2 [] = .ok (c, v, u) → s.checkAccess c (capCursor c.v) (a.ty.bits / 8) false true = .ok (.ok [p]) →
    let n := a.ty.bits / 8
    let la := p.2.pa / 128
    let o := p.2.pa % 128
    p.1.off = 0 → p.1.len = n → o + n ≤ 128 →
    let writes (old : Line) : Prop := ∃ t m, exec (.st .plain sc a) s = .next t ∧ t.mem = s.mem ∧ t.net = s.net
      ∧ (t.core s.cur.core).outs = s.cc.outs ∧ (t.core s.cur.core).misses = s.cc.misses ∧ (t.core s.cur.core).acc = sigEnter s.cc.acc la
      ∧ (t.core s.cur.core).line? la = some m ∧ m.fill = old.fill ∧ m.bytes o n = natBytes n v.v.toNat
      ∧ (∀ i < n, m.dirty.extractLsb' (2 * (o + i)) 2 = 3 ∧ m.valid.extractLsb' (2 * (o + i)) 2 = 3)
      ∧ (∀ i < 128, (i < o ∨ o + n ≤ i) → m.byte i = old.byte i ∧ m.valid.extractLsb' (2 * i) 2 = old.valid.extractLsb' (2 * i) 2
          ∧ m.dirty.extractLsb' (2 * i) 2 = old.dirty.extractLsb' (2 * i) 2)
    (∀ l, s.cc.line? la = some l → writes l) ∧
    (s.cc.line? la = none → (s.cc.setLines la).length < s.cc.l1Ways → writes { la := la })

/-- R382–R384: pref of an address that would not be cached only goes on; pref of a cacheable line that is neither in the L1 nor on its way
takes a line with a fill pending and a miss entry, while there is room; cwb and cinv of z leave no dirty line, cinv no line
without a fill pending; lmways sets the ways to n, at most 8, once no leaving line has a fill pending. -/
def Clause.CacheControl : Prop :=
  ∀ (a : Args) (s : State),
    (∀ c u g, s.operand1 a.ty a.s1 [] = .ok (c, u) → s.xlateCur (capCursor c.v) false = .ok g →
      (g.cached = false ∨ u.cc.l1Ways = 0) → exec (.pref a) s = .next u.advance) ∧
    (∀ c u g, s.operand1 a.ty a.s1 [] = .ok (c, u) → (c.tag = true → capR c.v = true ∧ capCovers c.v (capCursor c.v) 1 = true) →
      s.xlateCur (capCursor c.v) false = .ok g → g.cached = true → u.cc.line? (g.pa / 128) = none →
      u.cc.misses.any (fun m => m.la == g.pa / 128) = false → u.cc.misses.length < 8 →
      (u.cc.setLines (g.pa / 128)).length < u.cc.l1Ways →
      ∃ t, exec (.pref a) s = .next t ∧ t.mem = s.mem ∧ (t.core s.cur.core).misses = u.cc.misses ++ [⟨g.pa / 128, 2, []⟩]
        ∧ ∃ l, (t.core s.cur.core).line? (g.pa / 128) = some l ∧ l.fill = true) ∧
    (a.s1 = .reg 62 → (s.cc.l1.map (fun l => l.la)).Nodup →
      (∃ t, exec (.cwb a) s = .next t ∧ ∀ l ∈ (t.core s.cur.core).l1, l.dirty = 0) ∧
      (∃ t, exec (.cinv a) s = .next t ∧ ∀ l ∈ (t.core s.cur.core).l1, l.fill = true)) ∧
    ((∀ l ∈ s.cc.leaving (Nat.min (srcImm a.s1).toNat 8), l.fill = false) →
      ∃ t, exec (.lmways a) s = .next t ∧ (t.core s.cur.core).l1Ways = Nat.min (srcImm a.s1).toNat 8)

/-- R385–R387: an atomic on a sound sector of the issuing core's own local SRAM writes F of the old item and its value there in its issue clk,
returns the old item zero-extended 3 clk later, and makes its destination PENDING with class 0x0 unless it is z. -/
def Clause.LocalAtomics : Prop :=
  ∀ row ∈ amoRows, ∀ (ord : Ord) (sc : Scope) (a : Args) (s w : State) (sig : Option Sig) (p : Piece × Target),
    s.meet (srcMeet a.s1 ++ srcMeet a.s2 ++ (if row.2.1 = 7 then [.src a.d] else []) ++ [.dst a.d]) = .ok () →
    let c := s.takeSrc a.ty a.s1
    let v := c.2.takeSrc a.ty a.s2
    let cmp := (v.2.takeCode a.d).1.v
    s.checkAccess c.1 (capCursor c.1.v) (a.ty.bits / 8) true true = .ok (.ok [p]) → 8 ∣ a.ty.bits → 0 < a.ty.bits →
    capCursor c.1.v % (a.ty.bits / 8) = 0 → paRegion p.2.pa ≠ 3 → p.2.own = true → p.2.device = false → w.damaged p.2.pa = false →
    s.beforeStore (ord == .rel || ord == .ar) sc = .ok (w, sig) → w.cx.acquires = [] → w.cc.ticketsFull = false → w.mem = s.mem →
    let n := a.ty.bits / 8
    let old : BitVec a.ty.bits := BitVec.ofNat _ (bytesNat (Memory.readN s.mem p.2.pa n))
    let new := row.2.2 a.ty old (v.1.v.setWidth _) (cmp.setWidth _)
    ∃ t, exec (row.1 ord sc a) s = .next t ∧ t.mem = Memory.writeMasked s.mem p.2.pa (natBytes n new.toNat) []
      ∧ (a.d.toNat < 32 → s.curStream? a.d.toNat = none → pendingClass (t.regAt s.cur.core s.cur.ctx a.d.toNat) 0)
      ∧ ∃ q r, t.net.getLast? = some q ∧ q.body = .response r ∧ r.fill = ⟨old.setWidth 128, false⟩
          ∧ q.ready = s.clk + s.delay s.cur.core 3

/-- R204, R219, R385–R387: an atomic that leaves the core makes its destination PENDING with class 0x0, unless it is z, and sends one request
with its value and compare to the home; the sector it touches is gone from the issuing core's L1, its dirty parts on their way as a
write-back; nothing in memory changes, and ACC marks the line. -/
def Clause.RemoteAtomics : Prop :=
  ∀ row ∈ amoRows, ∀ (ord : Ord) (sc : Scope) (a : Args) (s w : State) (sig : Option Sig) (p : Piece × Target),
    s.meet (srcMeet a.s1 ++ srcMeet a.s2 ++ (if row.2.1 = 7 then [.src a.d] else []) ++ [.dst a.d]) = .ok () →
    let c := s.takeSrc a.ty a.s1
    let v := c.2.takeSrc a.ty a.s2
    s.checkAccess c.1 (capCursor c.1.v) (a.ty.bits / 8) true true = .ok (.ok [p]) → capCursor c.1.v % (a.ty.bits / 8) = 0 →
    paRegion p.2.pa ≠ 3 → (paRegion p.2.pa ≠ 1 ∨ paCol p.2.pa ≠ colOf s.cur.core) → p.2.own = false → p.2.device = false →
    s.beforeStore (ord == .rel || ord == .ar) sc = .ok (w, sig) → w.cx.acquires = [] → w.cc.holds = [] → w.cc.ticketsFull = false →
    w.mem = s.mem → w.cur = s.cur → (w.cc.l1.map (fun l => l.la)).Nodup →
    ∃ t q r, exec (row.1 ord sc a) s = .next t ∧ t.mem = s.mem ∧ t.net.getLast? = some q ∧ q.body = .access r
      ∧ (∃ cmp, r.op = .amo row.2.1 a.ty v.1.v cmp ∧ (row.2.1 = 7 → cmp = (v.2.takeCode a.d).1.v)) ∧ r.pa = p.2.pa ∧ r.rel = sig
      ∧ r.acq = ((ord == .acq || ord == .ar) && sc != .core)
      ∧ (∃ k ∈ (t.core s.cur.core).outs, k.id = r.id) ∧ sigMarks (t.core s.cur.core).acc (p.2.pa / 128) = true
      ∧ (a.d.toNat < 32 → s.curStream? a.d.toNat = none → pendingClass (t.regAt s.cur.core s.cur.ctx a.d.toNat) 0 ∧
          (t.regAt s.cur.core s.cur.ctx a.d.toNat).ticket = r.ticket.getD 0)
      ∧ (a.d = 62 → r.ticket = none)
      ∧ (∀ l, (t.core s.cur.core).line? (p.2.pa / 128) = some l → l.valid.extractLsb' (128 * (p.2.pa / 64 % 2)) 128 = 0)
      ∧ (∀ l, w.cc.line? (p.2.pa / 128) = some l → l.valid.extractLsb' (128 * (p.2.pa / 64 % 2)) 128 ≠ 0 →
          l.dirty.extractLsb' (128 * (p.2.pa / 64 % 2)) 128 ≠ 0 → ∃ k ∈ (t.core s.cur.core).outs, k.ctx = ctxAny ∧ r.id < k.id)

/-- R219, R385, R386, R236: an atomic performed at its home (local SRAM, a DRAM column, a peer) outside the code units and
damaged sectors reads the old item, writes
F of it, the value and the compare, and answers the old item, in one clk. -/
def Clause.AtomicsAtHome : Prop :=
  ∀ row ∈ amoRows, ∀ (s : State) (r : Req) (t : Ty) (v cmp : W128), r.op = .amo row.2.1 t v cmp → r.len = t.bits / 8 → 8 ∣ t.bits →
    r.done = none → s.isCode r.pa = false → paRegion r.pa ≠ 2 → (paRegion r.pa < 2 → s.damaged r.pa = false) → r.rel = none → r.acq = false →
    let old : BitVec t.bits := BitVec.ofNat _ (bytesNat (Memory.readN s.mem r.pa (t.bits / 8)))
    let new := row.2.2 t old (v.setWidth _) (cmp.setWidth _)
    (s.perform r).1.mem = Memory.writeMasked s.mem r.pa (natBytes (t.bits / 8) new.toNat) []
      ∧ (s.perform r).2.fill = ⟨old.setWidth 128, false⟩ ∧ (s.perform r).2.failed = false

/-- R226, R389: fence.rel goes on, also while an acquire is pending, its step 1 waiting for the accesses the scope names, or written back
at once where none is outstanding; fence.acq with no acquire pending goes on when no load of the context is outstanding or in flight, a
shadowed store in flight or not, having invalidated the L1 unless the scope is core; fence.full does both. -/
def Clause.Fences : Prop :=
  ∀ (sc : Scope) (a : Args) (s : State),
    let quiet (t : State) : Prop := t.cx.acquires = [] ∧ (∀ h ∈ t.cc.shadows, h.ctx = s.cur.ctx → h.reads = [])
      ∧ t.cc.outs.all (fun o => !(o.ctx == s.cur.ctx && o.load && decide (o.id < t.cc.nextId))) = true
    (∃ t, exec (.fence .rel sc a) s = .next t ∧
      (s.cx.relWait = [] → s.cc.waiting s.cur.ctx (hallOf s.cur.core) sc s.cc.nextId = true → t.cx.relWait = [(sc, s.cc.nextId)]) ∧
      (s.cx.relWait = [] → s.cc.waiting s.cur.ctx (hallOf s.cur.core) sc s.cc.nextId = false → sc ≠ .core → sc ≠ .hall →
        (s.cc.l1.map (fun l => l.la)).Nodup → t.cx.relWait = [] ∧ ∀ l ∈ (t.core s.cur.core).l1, l.dirty = 0)) ∧
    (quiet s → exec (.fence .acq sc a) s = .next (if sc = .core then s else s.invalidateL1 s.cur.core).advance) ∧
    (∀ t, s.release sc = .ok t → quiet t →
      exec (.fence .full sc a) s = .next (if sc = .core then t else t.invalidateL1 s.cur.core).advance)

/-- R226–R231: a signature keeps the lines that its parts mark, and is all ones once more than 256 bits would be set; a home keeps one for
each launch that releases to it, and an acquire gets it, or a saturated one where the home has none left; applied to an L1 it marks ACC and
leaves no line it marks but those with a fill pending, which go as it arrives, every other line as it was; a launch's homes in its region
and the edge controllers hold nothing of it after a region barrier has released, and a waiter that takes the answer has ACC empty. -/
def Clause.Signatures : Prop :=
  (∀ (g h : Sig) (la : Nat), sigMarks (sigEnter g la) la = true ∧ (sigMarks g la = true → sigMarks (sigUnion g h) la = true
    ∧ sigMarks (sigUnion h g) la = true) ∧ (256 < countOnes 1024 (g ||| h).toNat → sigUnion g h = BitVec.allOnes 1024)) ∧
  (∀ (l : List HomeSig) (lid : Nat) (g : Sig) (fresh : Bool), 
    (∀ e, l.find? (fun e => e.lid == lid) = some e → e.gone = false → sigsGet (sigsOr 4 l lid g) lid fresh = sigUnion e.sig g) ∧
    (l.find? (fun e => e.lid == lid) = none → sigsGet l lid false = BitVec.allOnes 1024 ∧ sigsGet (sigsOr 4 l lid g) lid fresh = sigUnion 0 g) ∧
    (∀ k, (l.map (fun e => e.lid)).Nodup → k ≠ lid → (l.filter (fun e => e.lid != lid && !e.gone)).length < 4 →
      sigsGet (sigsOr 4 l lid g) k fresh = sigsGet l k fresh)) ∧
  (∀ (s : State) (core : Nat) (g : Sig), ((s.core core).l1.map (fun l => l.la)).Nodup →
    let t := s.applySig core g
    t.mem = s.mem ∧ (∀ la, sigMarks g la = true → sigMarks (t.core core).acc la = true) ∧
    (∀ l ∈ (t.core core).l1, sigMarks g l.la = true → l.fill = true ∧ l.doomed = true ∧ l.dirty = 0) ∧
    (∀ l ∈ (s.core core).l1, sigMarks g l.la = false → l ∈ (t.core core).l1)) ∧
  (∀ (k : Nat) (s t : State) (p : Packet) (home bar n : Nat) (v : W64) (g : Sig),
    s.accept k = some (p, t) → p.body = .barArr home bar n v g → p.port = .core → ((s.core p.dest).barrier bar).exp = 0 →
    let b := (s.core p.dest).barrier bar
    let c := (s.launch p.lid).c
    0 < c → c ≤ b.arr.toNat + n → b.arr.toNat + n < 2 * c → b.arr.toNat + n < 2 ^ 20 →
    let cols := s.regionCols (s.launch p.lid).record
    ∃ u, exec (.barrierArrival k) s = .next u ∧
      (∀ q x, (q, x) ∈ u.cores → cols.contains (colOf q) = true → ∀ h ∈ x.sigs, h.lid = p.lid → h.gone = false → h.sig = 0) ∧
      (∀ q x, (q, x) ∈ u.columns → cols.contains q = true → ∀ h ∈ x.sigs, h.lid = p.lid → h.gone = false → h.sig = 0) ∧
      (∀ q x, (q, x) ∈ u.edges → q < 48 → ∀ h ∈ x.sigs, h.lid = p.lid → h.gone = false → h.sig = 0)) ∧
  (∀ (k : Nat) (s : State) (p : Packet) (w : BWaiter) (gen : BitVec 32) (last : W64) (g : Sig), s.landed k = some p → p.port = .core →
    p.body = .barAns w gen last g true false → w.ticket = none → (s.core w.core).hasCleared w.home w.bar gen = false →
    ∃ u, exec (.barrierWaitAnswer k) s = .next u ∧ (u.core w.core).acc = 0 ∧ (u.core w.core).hasCleared w.home w.bar gen = true)

/-- R391, R392, R393: bcfg sets EXP, OP and ACC and keeps GEN, or traps 4 while ARR is not 0 and 5 for OP 7; barr sends one
arrival with its contribution and the core's signature to the hall controller; bwait with d = z parks and with a register makes
it PENDING with class 0x5, its request on the way; both trap COMMAND 3 on a tile outside the launch. All three send while the injection slot of HI is free (R431, log 38). -/
def Clause.BarrierInstructions : Prop :=
  ∀ (bar : BitVec 5) (a : Args) (s u : State) (x y : TagVal),
    let stops (i : Instr) (d : Nat) : Prop := exec i s = .next (s.trapAt s.cur.core s.cur.ctx clsCommand 0 (BitVec.ofNat 64 d))
    let l := (x.v.extractLsb' 0 20).toNat
    let hall := Port.hall (hallOf s.cur.core)
    let slot := s.slotTaken .hi = false
    (s.operand1 a.ty a.s1 [] = .ok (x, u) →
      let b := s.cc.barrier bar.toNat
      (b.arr ≠ 0 → stops (.bcfg bar a) 4) ∧ (b.arr = 0 → x.v.extractLsb' 16 3 = 7 → stops (.bcfg bar a) 5) ∧
      (b.arr = 0 → x.v.extractLsb' 16 3 ≠ 7 → slot → ∃ t, exec (.bcfg bar a) s = .next t ∧ t.cc.barrier bar.toNat =
        { b with exp := x.v.extractLsb' 0 16, op := x.v.extractLsb' 16 3, acc := barIdentity (x.v.extractLsb' 16 3) })) ∧
    (s.operands2 a.ty a.s1 a.s2 [] = .ok (x, y, u) →
      (s.curC ≤ l → stops (.barr bar a) 3) ∧
      (l < s.curC → s.fenceHolds = none → slot → ∀ w, s.release .launch = .ok w → ∃ t, exec (.barr bar a) s = .next t
        ∧ sentLast t hall (.barArr l bar.toNat 1 (y.v.setWidth 64) w.cc.acc))) ∧
    (s.operands2 a.ty a.s1 a.s2 [.dst a.d] = .ok (x, y, u) →
      let w : BWaiter := { lid := s.lid, home := l, bar := bar.toNat, target := y.v.extractLsb' 0 32, core := s.cur.core, ctx := s.cur.ctx }
      (s.curC ≤ l → stops (.bwait bar a) 3) ∧
      (l < s.curC → slot → a.d = 62 → ∃ t, exec (.bwait bar a) s = .next t ∧ sentLast t hall (.barWait w)
        ∧ t.cx.park = some (.bwait l bar.toNat (y.v.extractLsb' 0 32) [a.s1, a.s2])) ∧
      (l < s.curC → slot → a.d.toNat < 32 → s.curStream? a.d.toNat = none → s.cc.ticketsFull = false →
        ∃ t k, exec (.bwait bar a) s = .next t ∧ pendingClass (t.regAt s.cur.core s.cur.ctx a.d.toNat) 5
          ∧ sentLast t hall (.barWait { w with ticket := some k }) ∧ (t.regAt s.cur.core s.cur.ctx a.d.toNat).ticket = k))

/-- R392: at its home an arrival of count n adds n to ARR, combines its value into ACC and its signature into SIG; when ARR
reaches the count it releases a generation: LAST takes ACC, GEN grows by one, ARR keeps the rest, ACC the identity, SIG empty. -/
def Clause.BarrierArrivals : Prop :=
  ∀ (k : Nat) (s t : State) (p : Packet) (home bar n : Nat) (v : W64) (g : Sig),
    s.accept k = some (p, t) → p.body = .barArr home bar n v g → p.port = .core →
    let b := (s.core p.dest).barrier bar
    let acc := barStep b.op b.acc v
    let sum := b.arr.toNat + n
    let need := if b.exp = 0 then (s.launch p.lid).c else b.exp.toNat
    sum < 2 ^ 20 → 0 < need →
    (sum < need → ∃ u, exec (.barrierArrival k) s = .next u ∧ (u.core p.dest).barrier bar =
      { b with arr := BitVec.ofNat 20 sum, acc := acc, sig := sigUnion b.sig g }) ∧
    (need ≤ sum → sum < 2 * need → ∃ u, exec (.barrierArrival k) s = .next u ∧
      let r := (u.core p.dest).barrier bar
      r.gen = b.gen + 1 ∧ r.last = acc ∧ r.arr.toNat = sum - need ∧ r.acc = barIdentity b.op ∧ r.sig = 0 ∧ r.exp = b.exp ∧ r.op = b.op
        ∧ ∀ w ∈ (u.core p.dest).waitTable, w.bar = bar → barReached r.gen w.target = false)

/-- R393: a wait request at its home is answered at once when the generation has been reached, held while the wait table has
room, and answered RETRY when it is full; 256 reference clk after a RETRY the waiting core sends its request again; an answer
fills the register with GEN and LAST. That a late answer and a RETRY carry the last release's signature,
and that one that has come late for a region barrier clears ACC as another does, are the model's choices (logs 19 and 110). -/
def Clause.BarrierWaits : Prop :=
  (∀ (k : Nat) (s t : State) (p : Packet) (w : BWaiter), s.accept k = some (p, t) → p.body = .barWait w → p.port = .core →
    let c := s.core p.dest
    let b := c.barrier w.bar
    ∃ u, exec (.barrierWaitRequest k) s = .next u ∧
      (0 ≤ (b.gen - w.target).toInt → w.hall = none → sentLast u .core (.barAns w b.gen b.last b.lastSig (b.exp == 0 && b.gen != 0) false)) ∧
      ((b.gen - w.target).toInt < 0 → c.waitTable.length < 64 → (u.core p.dest).waitTable = c.waitTable ++ [w] ∧ u.net = t.net) ∧
      ((b.gen - w.target).toInt < 0 → 64 ≤ c.waitTable.length → w.hall = none →
        sentLast u .core (.barAns w b.gen b.last b.lastSig false true))) ∧
  (∀ (core k : Nat) (s : State) (r : WaitRetry), (s.core core).waitRetry[k]? = some r → r.at_ ≤ s.clk →
    ∃ u, exec (.barrierWaitRetry core k) s = .next u ∧ sentLast u (.hall (hallOf core)) (.barWait r.w)) ∧
  (∀ (k : Nat) (s : State) (p : Packet) (w : BWaiter) (gen : BitVec 32) (last : W64) (g : Sig) (clear : Bool),
    s.landed k = some p → p.port = .core →
    (p.body = .barAns w gen last g clear true → ∃ u, exec (.barrierWaitAnswer k) s = .next u
      ∧ (u.core p.dest).waitRetry = (s.core p.dest).waitRetry ++ [⟨s.clk + 256, w⟩]) ∧
    (∀ tk c x n, p.body = .barAns w gen last g clear false → w.ticket = some tk → (s.core w.core).l1 = [] →
      (s.core w.core).ticketLoc tk = some (.gpr c x n) → ((s.core c).ctx x).reg n = Reg.pending tk → findAt n ((s.core c).ctx x).streams = none →
      ∃ u, exec (.barrierWaitAnswer k) s = .next u ∧ ((u.core c).ctx x).reg n = Reg.full ⟨0#32 ++ gen ++ last, false⟩))

/-- R394: a hall controller forwards an arrival at a barrier recorded as EXP not 0 to its home at once, with count 1, and holds one at a
region barrier with those before it; every 64 reference clk it sends for each barrier of the launch that it holds arrivals of one partial
to the home, in the order held, with their count, their contributions folded in arrival order by the barrier's operation, and the union of
their signatures, and holds none any more; a bcfg updates its record; of wait requests for one barrier and target one goes to the home. -/
def Clause.BarriersAtHalls : Prop :=
  (∀ (k h : Nat) (s t : State) (p : Packet) (home bar n : Nat) (v : W64) (g : Sig),
    s.landedAtHall k = some (h, p, t) → p.body = .barArr home bar n v g →
    ((s.launch p.lid).plainBars.contains (h, home, bar) = true →
      ∃ u q, exec (.barrierArrivalAtHall k) s = .next u ∧ u.net.getLast? = some q ∧ q.body = .barArr home bar n v g ∧ q.port = .core
        ∧ q.lid = p.lid ∧ q.target = some (.compute, home) ∧ ∀ d, (s.launch p.lid).hostOf .compute home = some d → q.final = d) ∧
    ((s.launch p.lid).plainBars.contains (h, home, bar) = false →
      let same (c : Combined) : Bool := c.lid == p.lid && c.home == home && c.bar == bar
      ∃ u, exec (.barrierArrivalAtHall k) s = .next u ∧ u.net = t.net ∧
        (∀ c, (s.hall h).combined.find? same = some c →
          (u.hall h).combined.find? same = some { c with vs := c.vs ++ [v], sig := sigUnion c.sig g }) ∧
        ((s.hall h).combined.find? same = none → (u.hall h).combined = (s.hall h).combined ++ [⟨p.lid, home, bar, [v], g⟩]))) ∧
  (∀ (k h : Nat) (s t : State) (p : Packet) (w : BWaiter), s.landedAtHall k = some (h, p, t) → p.body = .barWait w →
    ∃ u, exec (.barrierArrivalAtHall k) s = .next u ∧ (u.hall h).waits = (s.hall h).waits ++ [w] ∧
      ((s.hall h).waits.any w.same = true → u.net = t.net) ∧
      ((s.hall h).waits.any w.same = false → ∃ q x, u.net.getLast? = some q ∧ q.body = .barWait x ∧ q.target = some (.compute, w.home)
        ∧ x.hall = some h ∧ x.home = w.home ∧ x.bar = w.bar ∧ x.target = w.target)) ∧
  (∀ (hall lid : Nat) (s : State) (l : Launch), s.launch? lid = some l → getAt 0 hall l.combines < (s.clk - l.startClk) / 64 →
    let mine := (s.hall hall).combined.filter (fun c => c.lid == lid)
    let op (c : Combined) : BitVec 3 := match l.hostOf .compute c.home with
      | some p => ((s.core (s.nowAt p)).barrier c.bar).op
      | none => 0
    ∃ u sent, exec (.barrierCombinePeriod hall lid) s = .next u ∧ u.net = s.net ++ sent ∧
      (u.hall hall).combined = (s.hall hall).combined.filter (fun c => c.lid != lid) ∧
      sent.filterMap (fun q => match q.body with
          | .barArr h b n v g => some (q.lid, q.target, q.port, h, b, n, v, g)
          | _ => none) =
        mine.map (fun c => (lid, some (.compute, c.home), .core, c.home, c.bar, c.vs.length, c.vs.foldl (barStep (op c)) (barIdentity (op c)), c.sig)) ∧
      (∀ q ∈ sent, ∀ h d, q.target = some (.compute, h) → l.hostOf .compute h = some d → q.final = d) ∧
      getAt 0 hall (u.launch lid).combines = (s.clk - l.startClk) / 64) ∧
  (∀ (k h : Nat) (s t : State) (p : Packet) (home bar : Nat) (region : Bool) (l : Launch),
    s.landedAtHall k = some (h, p, t) → p.body = .bcfg home bar region → t.launch? p.lid = some l →
    ∃ u, exec (.bcfgNotice k) s = .next u ∧ (u.launch p.lid).plainBars.contains (h, home, bar) = !region
      ∧ ∀ e, e ≠ (h, home, bar) → (u.launch p.lid).plainBars.contains e = l.plainBars.contains e)

/-- R395, R396: sev sends an event to the tile of the launch that its operand names, or traps COMMAND 3; an event sets the latches of all five contexts;
wfe with its latch set clears it and goes on, else it parks, and a passed limit lets it go on; idle's limit likewise. -/
def Clause.EventLatches : Prop :=
  (∀ (a : Args) (s u : State) (x : TagVal), s.operand1 a.ty a.s1 [] = .ok (x, u) →
    let l := (x.v.extractLsb' 0 20).toNat
    (s.curC ≤ l → exec (.sev a) s = .next (s.trapAt s.cur.core s.cur.ctx clsCommand 0 3)) ∧
    (l < s.curC → s.fenceHolds = none → (l = s.tileL ∨ s.cc.holds = [] ∧ s.slotTaken .hi = false) →
      ∃ t q, exec (.sev a) s = .next t ∧ t.net.getLast? = some q ∧ q.body = .event none ∧ q.port = .core ∧ q.lid = s.lid ∧
        (l = s.tileL → q.dest = s.cur.core) ∧
        (l ≠ s.tileL → q.target = some (.compute, l) ∧ ∀ d, s.hostSeen s.cur.core s.lid .compute l = some d → q.final = d)) ∧
    (s.cx.latch = true → ∃ t, exec (.wfe a) s = .next t ∧ t.cx.latch = false ∧ t.cx.park = none) ∧
    (s.cx.latch = false → exec (.wfe a) s = .next (s.parkCur (.wfe (s.parkLimit x.v) a.s1)))) ∧
  (∀ (k : Nat) (s t : State) (p : Packet), s.accept k = some (p, t) → p.body = .event none →
    ∃ u, exec (.eventArrival k) s = .next u ∧ ∀ n < 5, ((u.core p.dest).ctx n).latch = true) ∧
  (∀ (core ctx n : Nat) (src : Src) (s : State), s.ctxLive core ctx = true → n ≤ s.ownClk core →
    (((s.core core).ctx ctx).park = some (.wfe (some n) src) → ((s.core core).ctx ctx).latch = false →
      ∃ u, exec (.wfeTimeout core ctx) s = .next u ∧ ((u.core core).ctx ctx).park = none) ∧
    (((s.core core).ctx ctx).park = some (.idle (some n) src) →
      ∃ u, exec (.idleTimeout core ctx) s = .next u ∧ ((u.core core).ctx ctx).park = none))

/-- R397: a watch of an address in the issuing core's own local SRAM is registered there at once, replacing the context's
earlier one; with 16 entries taken it fires at once. -/
def Clause.Watches : Prop :=
  ∀ (a : Args) (s u : State) (x : TagVal) (q : Piece) (g : Target), s.operand1 a.ty a.s1 [] = .ok (x, u) →
    s.checkAccess x (capCursor x.v) 1 true false = .ok (.ok [(q, g)]) → g.own = true → g.pa = sramPa s.cur.core (g.pa % 2 ^ 17) →
    g.pa < 2 ^ 48 → s.cur.core < 2 ^ 19 →
    let others := s.cc.watches.filter (fun w => !(w.core == s.cur.core && w.ctx == s.cur.ctx))
    ∃ t, exec (.watch a) s = .next t ∧
      (others.length < 16 → t.cc.watches.map (fun w => (w.sector, w.core, w.ctx)) =
        others.map (fun w => (w.sector, w.core, w.ctx)) ++ [(g.pa / 64, s.cur.core, s.cur.ctx)]) ∧
      (16 ≤ others.length → t.cc.watches = others ∧ sentLast t .core (.event (some s.cur.ctx)))

/-- R398, R399: wpend goes on when no masked register is PENDING, a POISONED mask being zero and no trap, and wany when some masked one is not, writing the lowest;
wany of an empty mask writes all ones; pchk writes the state, code, tag and ticket of a register and never parks on it. -/
def Clause.FutureTests : Prop :=
  ∀ (a : Args) (s u : State) (x : TagVal),
    let m : BitVec 32 := x.v.extractLsb' 0 32
    let pends (n : Nat) : Prop := m.getLsbD n = true ∧ (s.cx.reg n).state = .pending
    (s.operand1 a.ty a.s1 [] = .ok (x, u) →
      ((∀ n, ¬pends n) → exec (.wpend a) s = .next u.advance) ∧
      ((∃ n < 32, pends n) → exec (.wpend a) s = .next (s.parkCur (.allDone m)))) ∧
    (∀ c : BitVec 6, a.s1 = .reg c → s.poisonedAt c = true → exec (.wpend a) s = .next s.advance) ∧
    (s.operand1 a.ty a.s1 [.dst a.d] = .ok (x, u) →
      (m = 0 → exec (.wany a) s = .next ((u.writeD a.d ⟨(BitVec.allOnes 64).setWidth 128, false⟩).advance)) ∧
      (∀ n < 32, m.getLsbD n = true → (s.cx.reg n).state ≠ .pending → (∀ k < n, m.getLsbD k = true → (s.cx.reg k).state = .pending) →
        exec (.wany a) s = .next ((u.writeD a.d ⟨BitVec.ofNat 128 n, false⟩).advance)) ∧
      (m ≠ 0 → (∀ n < 32, m.getLsbD n = true → (s.cx.reg n).state = .pending) →
        exec (.wany a) s = .next (s.parkCur (.anyDone m)))) ∧
    (∀ c : BitVec 6, a.s1 = .reg c → c.toNat < 32 → s.curStream? c.toNat = none → s.inShadow c = false → s.meet [.dst a.d] = .ok () →
      let r := s.regAt s.cur.core s.cur.ctx c.toNat
      ∃ v : W128, exec (.pchk a) s = .next ((s.writeD a.d ⟨v, false⟩).advance) ∧ v.extractLsb' 32 96 = 0 ∧ v.getLsbD 10 = r.tag
        ∧ v.extractLsb' 16 16 = (if r.state = .pending then r.ticket else 0)
        ∧ v.extractLsb' 8 2 = (match r.state with | .full => 0#2 | .pending => 1#2 | .poisoned => 2#2)
        ∧ v.extractLsb' 0 8 = (if r.state = .poisoned then r.code else 0))

/-- R350, R353, R355: vadd, vsub, vmul, vfma and vfms compute each lane exactly and round once, with one draw a lane under
stochastic rounding; vdiv and vsqrt take the divider and land after 24 clk, 16 for 16-bit lanes; the approximations land after 8. -/
def Clause.VectorArithmetic : Prop :=
  ∀ (a : Args) (s u : State) (x y c : TagVal),
    let lv := s.laneVal a.ty
    let result (r : W128) (f : Nat → FVal) : Prop := lanesGive a.ty r (fun i => s.laneCode a.ty i (f i) % 2 ^ a.ty.bits)
    let seeded (v : State) : State := if s.rules.rnd = 6 then v.modCc (fun k => { k with seed := s.seedAfter a.ty.lanes }) else v
    let long := if a.ty.bits = 16 then 16 else 24
    let held (v : State) : State := v.modCc (fun k => { k with divBusy := s.clk + s.delay s.cur.core long })
    (s.operands2 a.ty a.s1 a.s2 [.dst a.d] = .ok (x, y, u) →
      (∀ row ∈ [(Instr.vadd, FVal.add s.rdn), (Instr.vsub, fun p q => FVal.add s.rdn p q.negate), (Instr.vmul, FVal.mul)],
        ∃ r, result r (fun i => row.2 (lv x.v i) (lv y.v i)) ∧ exec (row.1 a) s = .next (((seeded u).writeD a.d ⟨r, false⟩).advance)) ∧
      (s.cc.divBusy ≤ s.clk → ∃ r, result r (fun i => FVal.div (lv x.v i) (lv y.v i)) ∧
        ∃ v, (s.modCc (fun k => { k with divBusy := s.clk + s.delay s.cur.core long })).operands2 a.ty a.s1 a.s2 [.dst a.d] = .ok (x, y, v)
          ∧ exec (.vdiv a) s = .next ((seeded v).shadowD long a ⟨r, false⟩))) ∧
    (s.operand1 a.ty a.s1 [.dst a.d] = .ok (x, u) →
      (∀ row ∈ [(Instr.vrcp, FVal.rcp), (Instr.vrsq, FVal.rsq), (Instr.vexp2, FVal.exp2), (Instr.vlog2, FVal.log2)],
        ∃ r, result r (fun i => row.2 (lv x.v i)) ∧ exec (row.1 a) s = .next ((seeded u).shadowD 8 a ⟨r, false⟩)) ∧
      (s.cc.divBusy ≤ s.clk → ∃ r, result r (fun i => FVal.sqrt (lv x.v i)) ∧
        ∃ v, (held s).operand1 a.ty a.s1 [.dst a.d] = .ok (x, v) ∧ exec (.vsqrt a) s = .next ((seeded v).shadowD long a ⟨r, false⟩))) ∧
    (s.operands3 a.ty a.s1 a.s2 a.d = .ok (x, y, c, u) →
      (∃ r, result r (fun i => FVal.add s.rdn (lv c.v i) (FVal.mul (lv x.v i) (lv y.v i)))
        ∧ exec (.vfma a) s = .next (((seeded u).writeD a.d ⟨r, false⟩).advance)) ∧
      (∃ r, result r (fun i => FVal.add s.rdn (lv c.v i) (FVal.mul (lv x.v i) (lv y.v i)).negate)
        ∧ exec (.vfms a) s = .next (((seeded u).writeD a.d ⟨r, false⟩).advance)))

/-- R356–R358: vmin, vmax and vamax pick a code for each lane of their flushed sources, and vcmp writes all ones where its
condition holds of the decoded lanes, NaN being unordered; no draw is taken. -/
def Clause.VectorCompares : Prop :=
  ∀ (a : Args) (s u : State) (x y : TagVal), s.operands2 a.ty a.s1 a.s2 [.dst a.d] = .ok (x, y, u) →
    let g := fmtOf s.cc.fmc a.ty
    let fl (v : W128) (i : Nat) : Nat := g.flush s.rules.ftz (laneAt a.ty.bits i v)
    (∀ row ∈ [(Instr.vmin, minCode), (Instr.vmax, maxCode), (Instr.vamax, amaxCode)],
      ∃ r, lanesGive a.ty r (fun i => row.2 g (fl x.v i) (fl y.v i) % 2 ^ a.ty.bits)
        ∧ exec (row.1 a) s = .next ((u.writeD a.d ⟨r, false⟩).advance)) ∧
    ∀ cc : VCond, ∃ r, exec (.vcmp cc a) s = .next ((u.writeD a.d ⟨r, false⟩).advance) ∧
      lanesGive a.ty r (fun i =>
        let p := g.decode (fl x.v i)
        let q := g.decode (fl y.v i)
        let nan := p.isNan || q.isNan
        let holds := match cc with
          | .eq => !nan && !FVal.lt p q && !FVal.lt q p
          | .ne => nan || FVal.lt p q || FVal.lt q p
          | .lt => FVal.lt p q
          | .le => !nan && !FVal.lt q p
          | .gt => FVal.lt q p
          | .ge => !nan && !FVal.lt p q
          | .un => nan
          | .ord => !nan
        if holds then 2 ^ a.ty.bits - 1 else 0)

/-- R359, R363, R364: vsel takes each lane by the top bit of the old destination's lane, vshuf by an index modulo the lane
count; vbcast repeats a lane, vext writes it zero-extended, vins replaces it and keeps the others. -/
def Clause.VectorLaneMoves : Prop :=
  ∀ (a : Args) (s u : State) (x y o : TagVal) (i : BitVec 5),
    let w := a.ty.bits
    let writes (v : State) (r : W128) : Host.Outcome State Fault Refusal := .next ((v.writeD a.d ⟨r, false⟩).advance)
    (s.operands3 a.ty a.s1 a.s2 a.d = .ok (x, y, o, u) →
      ∃ r, lanesGive a.ty r (fun k => if o.v.getLsbD (w * k + w - 1) then laneAt w k x.v else laneAt w k y.v) ∧ exec (.vsel a) s = writes u r) ∧
    (s.operands2 a.ty a.s1 a.s2 [.dst a.d] = .ok (x, y, u) →
      ∃ r, lanesGive a.ty r (fun k => laneAt w (laneAt w k y.v % a.ty.lanes) x.v) ∧ exec (.vshuf a) s = writes u r) ∧
    (s.operand1 a.ty a.s1 [.dst a.d] = .ok (x, u) →
      (∃ r, lanesGive a.ty r (fun _ => laneAt w i.toNat x.v) ∧ exec (.vbcast i a) s = writes u r) ∧
      (∃ r : W128, r.toNat = laneAt w i.toNat x.v ∧ exec (.vext i a) s = writes u r)) ∧
    (s.meet (srcMeet a.s1 ++ [.src a.d, .dst a.d]) = .ok () → i.toNat < a.ty.lanes →
      let p := s.takeSrc a.ty a.s1
      let q := p.2.takeCode a.d
      ∃ r, lanesGive a.ty r (fun k => if k = i.toNat then laneAt w 0 p.1.v else laneAt w k q.1.v) ∧ exec (.vins i a) s = writes q.2 r)

/-- R360: of an IEEE type, vabs clears and vneg flips the sign bit of each lane after the flush; of a signed narrow type they do so to
every code but 0 and NaN; of an unsigned narrow type vabs keeps the lane, and vneg gives 0 for 0, NaN for NaN, and for another value 0
under saturation and else NaN. -/
def Clause.VectorSigns : Prop :=
  ∀ (a : Args) (s u : State) (x : TagVal), a.ty ∈ [Ty.f32, Ty.bf16, Ty.f16, Ty.f8, Ty.f4] →
    s.operand1 a.ty a.s1 [.dst a.d] = .ok (x, u) →
    let g := fmtOf s.cc.fmc a.ty
    let half := 2 ^ (a.ty.bits - 1)
    let flip (c : Nat) : Nat := if c < half then c + half else c - half
    let lane (i : Nat) : Nat := laneAt a.ty.bits i x.v
    let kept (c : Nat) : Prop := c = 0 ∨ g.isNan c = true
    ∃ r q, exec (.vabs a) s = .next ((u.writeD a.d ⟨r, false⟩).advance) ∧ exec (.vneg a) s = .next ((u.writeD a.d ⟨q, false⟩).advance) ∧
      ∀ i, i < a.ty.lanes →
        let p := laneAt a.ty.bits i r
        let n := laneAt a.ty.bits i q
        (g.ieee = true → p = g.flush s.rules.ftz (lane i) % half ∧ n = flip (g.flush s.rules.ftz (lane i))) ∧
        (g.ieee = false → kept (lane i) → p = lane i ∧ n = lane i) ∧
        (g.ieee = false → ¬kept (lane i) → g.sgn = true → p = lane i % half ∧ n = flip (lane i)) ∧
        (g.ieee = false → ¬kept (lane i) → g.sgn = false → p = lane i ∧ n = if g.saturates s.rules then 0 else g.nan)

/-- R351, R361, R362: vred and vdot go on at once and land 6 clk later, vred with its step over the pairwise tree of the
widened lanes, vdot with the sum of the rounded products' tree and the old destination's lane 0. -/
def Clause.VectorReductions : Prop :=
  ∀ (op : RedOp) (a : Args) (s u : State) (x y o : TagVal),
    let r := s.rules.noDraw
    (s.operand1 a.ty a.s1 [.dst a.d] = .ok (x, u) →
      exec (.vred op a) s = .next (u.shadowD 6 a ⟨BitVec.ofNat 128 (tree (redStep op r) 6 (widened (fmtOf s.cc.fmc a.ty) r.ftz a.ty x.v)), false⟩)) ∧
    (s.operands3 a.ty a.s1 a.s2 a.d = .ok (x, y, o, u) →
      exec (.vdot a) s = .next (u.shadowD 6 a ⟨dotValue s.cc.fmc r a.ty x.v y.v o.v, false⟩))

/-- R252: a pairwise tree over four and over eight values is the tree of the spec's figure: neighbours first. -/
def Clause.PairwiseTree : Prop :=
  ∀ (f : Nat → Nat → Nat) (a b c d e g h i : Nat),
    tree f 6 [a, b, c, d] = f (f a b) (f c d) ∧ tree f 6 [a, b, c, d, e, g, h, i] = f (f (f a b) (f c d)) (f (f e g) (f h i))

/-- R365–R370: vcvt, vpack and vunpk place the converted elements in their lanes (a narrowing vcvt keeps the other lanes of its
old destination); vscl multiplies by the scale byte's power of two or its inverse; vqnt and fclass write their codes. -/
def Clause.VectorConversions : Prop :=
  ∀ (src : Ty) (part : BitVec 3) (hi inv : Bool) (a : Args) (s u : State) (x y : TagVal),
    let ws := src.bits
    let wd := a.ty.bits
    let conv (n : Nat) (i c : Nat) : Nat := convert s.cc.fmc s.rules ((s.convertDraw src a.ty n).1.getD i 0) src a.ty c
    let seeded (n : Nat) (v : State) : State := v.modCc (fun k => { k with seed := (s.convertDraw src a.ty n).2.cc.seed })
    let writes (v : State) (r : W128) : Host.Outcome State Fault Refusal := .next ((v.writeD a.d ⟨r, false⟩).advance)
    (wd < ws → s.meet (srcMeet a.s1 ++ [.src a.d, .dst a.d]) = .ok () →
      let p := s.takeSrc a.ty a.s1
      let q := p.2.takeCode a.d
      let n := 128 / ws
      ∃ r v, (v = q.2 ∨ v = seeded n q.2) ∧ exec (.vcvt src part a) s = writes v r ∧
        ∀ i, i < 128 / wd → laneAt wd i r = if part.toNat * n ≤ i ∧ i < part.toNat * n + n
          then conv n (i - part.toNat * n) (laneAt ws (i - part.toNat * n) p.1.v) % 2 ^ wd else laneAt wd i q.1.v) ∧
    (ws ≤ wd → s.operand1 a.ty a.s1 [.dst a.d] = .ok (x, u) →
      let n := 128 / wd
      ∃ r v, (v = u ∨ v = seeded n u) ∧ exec (.vcvt src part a) s = writes v r ∧
        ∀ i, i < n → laneAt wd i r = conv n i (laneAt ws (part.toNat * n + i) x.v) % 2 ^ wd) ∧
    (wd * 2 = ws → s.operands2 a.ty a.s1 a.s2 [.dst a.d] = .ok (x, y, u) →
      let n := 128 / ws
      ∃ r v, (v = u ∨ v = seeded (2 * n) u) ∧ exec (.vpack src a) s = writes v r ∧
        ∀ i, i < 2 * n → laneAt wd i r = conv (2 * n) i (if i < n then laneAt ws i x.v else laneAt ws (i - n) y.v) % 2 ^ wd) ∧
    (ws * 2 = wd → s.operand1 a.ty a.s1 [.dst a.d] = .ok (x, u) →
      let n := 128 / wd
      ∃ r v, (v = u ∨ v = seeded n u) ∧ exec (.vunpk src hi a) s = writes v r ∧
        ∀ i, i < n → laneAt wd i r = conv n i (laneAt ws ((if hi then n else 0) + i) x.v) % 2 ^ wd) ∧
    (s.operands2 a.ty a.s1 a.s2 [.dst a.d] = .ok (x, y, u) →
      let k := scaleByte a.s2 y.v
      ∃ r v, (v = u ∨ v = u.modCc (fun c => { c with seed := s.seedAfter a.ty.lanes })) ∧ exec (.vscl inv a) s = writes v r ∧
        lanesGive a.ty r (fun i => s.laneCode a.ty i (if k = 255 then .nan else
          (s.laneVal a.ty x.v i).scale (if inv then 127 - (k : Int) else (k : Int) - 127)) % 2 ^ wd)) ∧
    (s.operand1 a.ty a.s1 [.dst a.d] = .ok (x, u) →
      exec (.vqnt a) s = writes u (BitVec.ofNat 128 (quantScale (fmtOf s.cc.fmc a.ty) (fmtF32.input s.rules.ftz (laneAt 32 0 x.v)))) ∧
      ∃ r, lanesGive a.ty r (fun i => classOf (fmtOf s.cc.fmc a.ty) (laneAt wd i x.v) % 2 ^ wd) ∧ exec (.fclass a) s = writes u r)

/-- R102, R103, R110: an admission takes context 0's message first, else the lowest free low context takes the next source:
message queue, FIFO, bottom of the deque, a source passed over 8 times going first, none in the clk of a fault of the core. A context
admitted from the message queue holds a task with the message's stage and source 1, its arguments in g0 on, every other register FULL
and zero; one admitted from the FIFO or the deque a task with the record's stage, LINK and arguments, and source 3 or 2. -/
def Clause.Admission : Prop :=
  ∀ (core lid l : Nat) (s : State), s.admits core = some (lid, l) → (s.core core).nextAdmit ≤ s.clk → s.faultsNow core = false →
    let c := s.core core
    (∀ m r, c.freeCtx s.clk 0 = true → c.highQ = m :: r →
      ∃ t, exec (.taskAdmission core) s = .next t ∧ (t.core core).highQ = r ∧ (t.core core).seq = c.seq + 1
        ∧ ∃ w, ((t.core core).ctx 0).task = some w ∧ w.hi = true ∧ w.limit = 512 ∧ w.since = s.ownClk core ∧ w.seq = c.seq + 1) ∧
    (∀ x m r, c.highQ = [] → c.freeLow s.clk = some x → c.nextSource = some .queue → c.lowQ = m :: r →
      ∃ t, exec (.taskAdmission core) s = .next t ∧ (t.core core).lowQ = r ∧ (t.core core).passed = c.passCounts (some .queue)
        ∧ (∃ w, ((t.core core).ctx x).task = some w ∧ w.hi = (x == 0) ∧ w.lid = lid ∧ w.src = 1 ∧ w.seq = c.seq + 1
            ∧ (m.notice = none → w.stage = m.stage ∧ w.handler = m.handler))
        ∧ (m.notice = none → ∀ n, ((t.core core).ctx x).reg n = if n < 4 then Reg.full (m.args.getD n {}) else {}))
    ∧ (∀ x m, c.highQ = [] → c.freeLow s.clk = some x →
      let starts (t : State) (src : BitVec 2) : Prop := exec (.taskAdmission core) s = .next t
        ∧ ∃ w, ((t.core core).ctx x).task = some w ∧ w.src = src ∧ w.stage = m.stage
            ∧ w.link = (if m.linked then some (m.linkL, m.ldc) else none)
            ∧ ((t.core core).ctx x).reg 0 = Reg.full m.arg0 ∧ ((t.core core).ctx x).reg 1 = Reg.full m.arg1
            ∧ ((t.core core).ctx x).reg 2 = Reg.full m.arg2 ∧ ((t.core core).ctx x).reg 3 = Reg.full (val64 m.origin)
      (c.nextSource = some .deque → c.deque.getLast? = some m → ∃ t, starts t 2 ∧ (t.core core).deque = c.deque.dropLast) ∧
      (∀ r, c.nextSource = some .fifo → c.fifo = m :: r → ∃ t, starts t 3 ∧ (t.core core).fifo = r))

/-- R110: a source that can give a task and has been passed over at 8 admissions is taken at the next, of two such the earlier in the
order (the model's choice, log 87); otherwise the order is message queue, counter-released FIFO, deque. -/
def Clause.AgingOrder : Prop :=
  ∀ c : Core,
    let old (n : Nat) : Prop := 8 ≤ c.passed.getD n 0
    ((∀ q : Source, ¬old q.index) →
      c.nextSource = if c.lowQ ≠ [] then some .queue else if c.fifo ≠ [] then some .fifo else if c.deque ≠ [] then some .deque else none) ∧
    (c.lowQ ≠ [] → old 0 → c.nextSource = some .queue) ∧
    (c.fifo ≠ [] → old 1 → (c.lowQ = [] ∨ ¬old 0) → c.nextSource = some .fifo) ∧
    (c.deque ≠ [] → old 2 → (c.lowQ = [] ∨ ¬old 0) → (c.fifo = [] ∨ ¬old 1) → c.nextSource = some .deque)

/-- R117, R118: a task whose clk since admission reach its limit, and a handler whose clk reach its limit, which is 512 from its admission
on, raise TASK_LIMIT and HANDLER_LIMIT, one that its launch's instructions could still retire in that clk included; before that nothing changes. -/
def Clause.TimeLimits : Prop :=
  ∀ (core ctx : Nat) (s : State) (t : Task), ((s.core core).ctx ctx).task = some t →
    (∃ l, s.launch? t.lid = some l ∧ l.issues s.clk = true) →
    (t.hi = false → exec (.taskLimitExpiry core ctx) s = .next (if t.limit ≤ s.ownClk core - t.since
      then s.trapAt core ctx clsTaskLimit 0 (BitVec.ofNat 64 (t.limit / 256)) else s)) ∧
    (ctx = 0 → t.hi = true → exec (.handlerLimitExpiry core) s = .next (if t.limit ≤ s.ownClk core - t.since
      then s.trapAt core 0 clsHandlerLimit 0 512 else s))

/-- R109, R120: end retires the task: its context holds none, its loop stack is empty and its tickets deliver nowhere; a linked
task first sends one decrement to its counter. -/
def Clause.TaskEnds : Prop :=
  ∀ (a : Args) (s : State) (k : Task), s.cx.task = some k →
    (k.link = none → exec (.endTask a) s = .next s.retire) ∧
    (∀ l dc w, k.link = some (l, dc) → s.fenceHolds = none → s.cc.holds = [] → s.slotTaken .req = false → s.release .launch = .ok w →
      exec (.endTask a) s = .next (w.sendDecrement l dc).retire) ∧
    s.retire.cx.task = none ∧ s.retire.cx.loops = [] ∧ s.retire.cx.streams = [] ∧
    ∀ tk ∈ s.retire.cc.tickets, ∀ n, tk.loc ≠ .gpr s.cur.core s.cur.ctx n

/-- R107, R400, R401, R436: fork pushes its record at the bottom of the deque, spilling the 8 topmost of 32 first; join binds a
record to a counter without one, else COMMAND 9; dcset sets the count, and at 0 a bound record moves to the FIFO; dcdec sends one
decrement to the counter and the tile of the launch that its operands name, else COMMAND 3. -/
def Clause.ForksAndCounters : Prop :=
  ∀ (dc : BitVec 6) (a : Args) (s u w : State) (h v : TagVal) (es : List TagVal),
    let stops (i : Instr) (d : Nat) : Prop := exec i s = .next (s.trapAt s.cur.core s.cur.ctx clsCommand 0 (BitVec.ofNat 64 d))
    (s.header a.s1 a.s2 3 = .ok (h, es) →
      (s.release .core = .ok w → (w.cc.deque.length < 32 → ∃ t, exec (.fork a) s = .next t
          ∧ t.cc.deque = w.cc.deque ++ [w.buildRecord h es] ∧ t.cc.spill = w.cc.spill)
        ∧ (32 ≤ w.cc.deque.length → w.cc.spill.length < 512 → ∃ t, exec (.fork a) s = .next t
          ∧ t.cc.deque = w.cc.deque.drop 8 ++ [w.buildRecord h es] ∧ t.cc.spill = w.cc.spill ++ w.cc.deque.take 8)) ∧
      ((s.cc.counter dc.toNat).bound ≠ none → stops (.join dc a) 9) ∧
      ((s.cc.counter dc.toNat).bound = none → (s.cc.counter dc.toNat).count ≠ 0 → ∃ t, exec (.join dc a) s = .next t
        ∧ (t.cc.counter dc.toNat).bound = some (s.buildRecord h es) ∧ (t.cc.counter dc.toNat).count = (s.cc.counter dc.toNat).count)) ∧
    (s.operand1 a.ty a.s1 [] = .ok (v, u) →
      let n : BitVec 16 := v.v.extractLsb' 0 16
      (∃ t, exec (.dcset dc a) s = .next t
        ∧ (n ≠ 0 → (t.cc.counter dc.toNat).count = n ∧ (t.cc.counter dc.toNat).bound = (s.cc.counter dc.toNat).bound ∧ t.cc.fifo = s.cc.fifo)
        ∧ (∀ r, n = 0 → (s.cc.counter dc.toNat).bound = some r → (t.cc.counter dc.toNat).bound = none
            ∧ ∃ q, t.cc.fifo = s.cc.fifo ++ [q] ∧ q.hdr = r.hdr ∧ q.arg0 = r.arg0 ∧ q.arg1 = r.arg1 ∧ q.arg2 = r.arg2)) ∧
      let l := (v.v.extractLsb' 0 20).toNat
      (s.curC ≤ l → stops (.dcdec dc a) 3) ∧
      (l < s.curC → s.fenceHolds = none → s.cc.holds = [] → s.slotTaken .req = false → s.release .launch = .ok w →
        ∃ t q, exec (.dcdec dc a) s = .next t ∧ t.net.getLast? = some q ∧ q.body = .decrement dc.toNat w.cc.acc ∧ q.port = .core
          ∧ q.target = some (.compute, l) ∧ ∀ d, s.hostSeen s.cur.core s.lid .compute l = some d → q.final = d))

/-- R108: a decrement of a count above 1 lowers it, one from 1 moves the bound record to the FIFO and clears the binding, and
one of 0 raises COUNTER_UNDERFLOW. -/
def Clause.CounterDecrements : Prop :=
  ∀ (k dc : Nat) (s t : State) (p : Packet) (sig : Sig), s.accept k = some (p, t) → p.body = .decrement dc sig →
    let n := (s.core p.dest).counter dc
    (n.count.toNat > 1 → ∃ u, exec (.counterDecrement k) s = .next u ∧ ((u.core p.dest).counter dc).count = n.count - 1
      ∧ ((u.core p.dest).counter dc).bound = n.bound ∧ (u.core p.dest).fifo = (s.core p.dest).fifo) ∧
    (n.count = 1 → ∀ r, n.bound = some r → ∃ u, exec (.counterDecrement k) s = .next u ∧ ((u.core p.dest).counter dc).bound = none
      ∧ ((u.core p.dest).counter dc).count = 0 ∧ ∃ q, (u.core p.dest).fifo = (s.core p.dest).fifo ++ [q] ∧ q.hdr = r.hdr) ∧
    (n.count = 0 → ∃ l, exec (.counterDecrement k) s =
      .next (t.faultAsync p.lid clsCounterUnderflow l p.dest (BitVec.ofNat 64 (l * 2 ^ 32 + dc))))

/-- R107, R111–R113, R232: spilled records return to an empty deque, at most 8, the most recent; a victim that admits tasks takes
its topmost unpinned record out of its deque in the clk of the request and answers with it and the victim's ACC once it has no dirty sector
left, and one with none answers empty; an answered record
starts a task on a free context or is pushed at the bottom, and is never lost; the pause after all candidates were empty ends at its clk.
In its period a hall whose load is below 16 a tile donates nothing; one above, with a neighbour to take them, loses up to 32 unpinned
records and nothing else, and a single one reaches the bottom of the first receiving deque with DONATED set. -/
def Clause.StealsAndDonations : Prop :=
  (∀ (core : Nat) (s : State), ∃ t, exec (.spillRefill core) s = .next t ∧
    let c := s.core core
    (c.deque = [] → (t.core core).deque = c.spill.drop (c.spill.length - 8) ∧ (t.core core).spill = c.spill.take (c.spill.length - 8)) ∧
    (c.deque ≠ [] → (t.core core).deque = c.deque ∧ (t.core core).spill = c.spill)) ∧
  (∀ (k thief : Nat) (s : State) (p : Packet), s.landed k = some p → p.body = .stealReq thief → topUnpinned (s.core p.dest).deque = none →
    ∃ t, exec (.stealRequest k) s = .next t ∧ sentLast t .core (.stealAns none) ∧ (t.core p.dest).deque = (s.core p.dest).deque) ∧
  (∀ (k thief : Nat) (s : State) (p : Packet) (a b : List TaskRec) (r : TaskRec), s.landed k = some p → p.body = .stealReq thief →
    (s.core p.dest).deque = a ++ r :: b → (∀ x ∈ a, x.pinned = true) → r.pinned = false → s.admits p.dest ≠ none →
    s.popsNow p.dest r = false →
    ∃ t, exec (.stealRequest k) s = .next t ∧ (t.core p.dest).deque = a ++ b
      ∧ (((s.core p.dest).l1 = [] ∧ (s.core p.dest).outs = []) → sentLast t .core (.stealAns (some { r with sig := sigUnion r.sig (s.core p.dest).acc })))
      ∧ ((∃ l ∈ (s.core p.dest).l1, l.dirty ≠ 0) → (t.net[k]?).map (fun q => q.body) = some (.stealReq thief (some r)))) ∧
  (∀ (k thief : Nat) (s : State) (p : Packet) (r : TaskRec), s.landed k = some p → p.body = .stealReq thief (some r) →
    s.drainDirty p.dest = none → ∃ t, exec (.stealRequest k) s = .next t
      ∧ sentLast t .core (.stealAns (some { r with sig := sigUnion r.sig (s.core p.dest).acc }))) ∧
  (∀ (k : Nat) (s : State) (p : Packet) (r : TaskRec), s.landed k = some p → p.body = .stealAns (some r) →
    (s.core p.dest).deque.length < 32 → s.admits p.dest = none →
    ∃ t, exec (.stealAnswer k) s = .next t ∧ (t.core p.dest).deque = (s.core p.dest).deque ++ [r] ∧ (t.core p.dest).stealOut = false) ∧
  (∀ (k lid l x : Nat) (s : State) (p : Packet) (r : TaskRec), s.landed k = some p → p.body = .stealAns (some r) →
    s.admits p.dest = some (lid, l) → (s.core p.dest).freeLow s.clk = some x → (s.core p.dest).nextAdmit ≤ s.clk →
    (s.core p.dest).hiFirst s.clk = false → (s.core p.dest).nextSource = none → (s.core p.dest).spill = [] →
    ∃ t w, exec (.stealAnswer k) s = .next t ∧ ((t.core p.dest).ctx x).task = some w ∧ w.src = 2 ∧ w.stage = r.stage
      ∧ ((t.core p.dest).ctx x).reg 0 = Reg.full r.arg0) ∧
  (∀ (core n : Nat) (s : State), (s.core core).backoff = some n → n ≤ s.clk →
    ∃ t, exec (.stealBackoffExpiry core) s = .next t ∧ (t.core core).backoff = none) ∧
  (∀ (hall lid : Nat) (s : State) (l : Launch), s.launch? lid = some l → (l.fault = none ∨ l.frozen = true) → l.phase = .running → s.recasts = [] →
    getAt 0 hall l.donations < (s.clk - l.startClk) / 4096 →
    let tiles := s.hallTiles lid hall
    (s.qd lid hall < 16 * tiles.length → ∃ t, exec (.donationPeriod hall lid) s = .next t ∧ t.cores = s.cores
      ∧ getAt 0 hall (t.launch lid).donations = (s.clk - l.startClk) / 4096) ∧
    ∀ g, let onto := s.hallTiles lid g
      let total (u : State) : Nat := (tiles.map (fun p => (u.core p).unpinned)).sum
      16 * tiles.length ≤ s.qd lid hall → s.donee lid hall = some g → (∀ p ∈ tiles, s.drainDirty p = none) → (tiles ++ onto).Nodup →
      ∃ t, exec (.donationPeriod hall lid) s = .next t ∧ total t = total s - 32
        ∧ (∀ p ∈ tiles, (t.core p).lowQ = (s.core p).lowQ ∧ (t.core p).highQ = (s.core p).highQ ∧ (t.core p).fifo = (s.core p).fifo
            ∧ (t.core p).deque.filter TaskRec.pinned = (s.core p).deque.filter TaskRec.pinned)
        ∧ (∀ p q r, total s = 1 → p ∈ tiles → (s.core p).deque.find? (fun k => !k.pinned) = some r → onto.head? = some q →
            (s.core q).deque.length < 32 → ∃ d, (t.core q).deque = (s.core q).deque ++ [d] ∧ d.hdr = r.hdr ||| 0x400000000
              ∧ d.arg0 = r.arg0 ∧ d.arg1 = r.arg1 ∧ d.arg2 = r.arg2))

/-- R175, R199: a shadowed result lands once its latency has passed: its destination becomes FULL with its value, or its local
store's bytes are written where it gives; it leaves the results in flight. -/
def Clause.ShadowedResultsLand : Prop :=
  ∀ (core k : Nat) (s : State) (h : Shadow), (s.core core).shadows[k]? = some h → h.ready ≤ s.clk → s.shadowDamage h = none →
    h.sig = none → h.away = none →
    (h.store = none → h.d.toNat < 32 → findAt h.d.toNat ((s.core core).ctx h.ctx).streams = none →
      ∃ t, exec (.shadowResultLand core k) s = .next t ∧ ((t.core core).ctx h.ctx).reg h.d.toNat = Reg.full h.val
        ∧ (t.core core).shadows.map (fun x => { x with window := 0 }) = ((s.core core).shadows.eraseIdx k).map (fun x => { x with window := 0 })
        ∧ t.mem = s.mem) ∧
    (∀ pa bs tag, h.store = some (pa, bs, tag) → ∃ t, exec (.shadowResultLand core k) s = .next t
      ∧ t.mem = Memory.writeMasked s.mem pa bs [] ∧ (t.core core).shadows.length + 1 = (s.core core).shadows.length)

/-- R176, R177: a Fill or Poison reaches the register that holds its ticket and frees the ticket; a ticket whose delivery has been
discarded changes no register; the last piece of a load fills its register, or poisons it ENGINE where a piece failed. -/
def Clause.FuturesFilled : Prop :=
  ∀ (k : Nat) (s : State) (p : Packet) (r : Rsp), s.landed k = some p → p.body = .response r → r.sig = none →
    let c := s.core p.dest
    (∀ tk q x n, r.op = .store → r.ticket = some tk → c.ticketLoc tk = some (.gpr q x n) → ((s.core q).ctx x).reg n = Reg.pending tk →
      findAt n ((s.core q).ctx x).streams = none →
      ∃ t, exec (.futureFill k) s = .next t ∧
        ((t.core q).ctx x).reg n = (match r.poison with | some e => Reg.poison e | none => Reg.full r.fill)
        ∧ (t.core p.dest).tickets = c.tickets.filter (fun z => z.t != tk)) ∧
    (∀ tk, r.op = .store → r.ticket = some tk → c.ticketLoc tk = some .nowhere →
      ∃ t, exec (.futureFill k) s = .next t ∧ ∀ q x n, ((t.core q).ctx x).reg n = ((s.core q).ctx x).reg n) ∧
    (∀ j tk q x n, r.op = .load → c.joins.find? (fun i => i.id == r.join) = some j → j.fmt ≠ .hart → j.left = 1 → j.sig = 0 → j.ticket = some tk →
      c.ticketLoc tk = some (.gpr q x n) → ((s.core q).ctx x).reg n = Reg.pending tk → findAt n ((s.core q).ctx x).streams = none →
      ∃ t, exec (.futureFill k) s = .next t ∧
        ((t.core q).ctx x).reg n = (if j.failed || r.failed then Reg.poison pzEngine
          else Reg.full (j.fmt.result (if j.parts = [] then bufPut j.buf r.off r.data else j.place r) (if r.off = 0 then r.tag else j.tagBit))))

/-- R219, R226: the acknowledgement of a store or write-back ends exactly the outstanding access it names, and, where it was the last
that a fence.rel waited for, the fence's write-backs follow, so that none of its lines is left dirty; an atomic's also fills its register with the old item, or poisons it
ENGINE. -/
def Clause.Acknowledgements : Prop :=
  ∀ (k : Nat) (s : State) (p : Packet) (r : Rsp), s.landed k = some p → p.body = .response r → r.sig = none →
    ((r.op = .store ∧ r.ticket = none ∨ r.op = .writeBack) → ∃ t, exec (.accessAck k) s = .next t ∧ t.mem = s.mem
      ∧ ((∀ x < 5, ((s.core p.dest).ctx x).relWait = []) →
          (t.core p.dest).outs = (s.core p.dest).outs.filter (fun o => o.id != r.id) ∧ (t.core p.dest).l1 = (s.core p.dest).l1)
      ∧ (∀ o ∈ (s.core p.dest).outs, o.id ≠ r.id → o ∈ (t.core p.dest).outs)
      ∧ (∀ x < 5, ∀ sc b, ((s.core p.dest).ctx x).relWait = [(sc, b)] → sc ≠ .core → sc ≠ .hall →
          (∀ y < 5, y ≠ x → ((s.core p.dest).ctx y).relWait = []) → ((s.core p.dest).l1.map (fun l => l.la)).Nodup →
          ({ s.core p.dest with outs := (s.core p.dest).outs.filter (fun o => o.id != r.id) } : Core).waiting x (hallOf p.dest) sc b = false →
          ((t.core p.dest).ctx x).relWait = [] ∧ ∀ l ∈ (t.core p.dest).l1, l.dirty = 0)) ∧
    (∀ op ty v cmp tk q x n, r.op = .amo op ty v cmp → r.ticket = some tk → (s.core p.dest).ticketLoc tk = some (.gpr q x n) →
      ((s.core q).ctx x).reg n = Reg.pending tk → findAt n ((s.core q).ctx x).streams = none →
      ∃ t, exec (.accessAck k) s = .next t ∧
        ((t.core q).ctx x).reg n = (if r.failed then Reg.poison pzEngine else Reg.full r.fill))

/-- R206: a sector's fill writes only the parts of its line that no store has written since the miss, and the last fill of a line
ends its miss. -/
def Clause.LineFills : Prop :=
  ∀ (k : Nat) (s : State) (p : Packet) (r : Rsp) (l : Line) (m : Miss), s.landed k = some p → p.body = .response r → r.op = .lineFill →
    r.failed = false → (s.core p.dest).line? (r.pa / 128) = some l → (s.core p.dest).misses.find? (fun m => m.la == r.pa / 128) = some m →
    m.left = 1 → m.waiters = [] → l.doomed = false →
    ∃ t n, exec (.l1Fill k) s = .next t ∧ (t.core p.dest).line? (r.pa / 128) = some n ∧ n.fill = false ∧ n.dirty = l.dirty
      ∧ (∀ x ∈ (t.core p.dest).misses, x.la ≠ r.pa / 128)
      ∧ (r.pa % 64 = 0 → r.data.length = 64 → ∀ i b, r.data[i]? = some b →
          (l.validByte (r.pa % 128 + i) = true → n.byte (r.pa % 128 + i) = l.byte (r.pa % 128 + i)) ∧
          (l.valid.extractLsb' (2 * (r.pa % 128 + i)) 2 = 0 → n.byte (r.pa % 128 + i) = b))

/-- R199, R207, R216, R219: a store performed at a home outside the second tier, the code units and damaged sectors writes the
nibbles its masks name and no others, clears the tags of the granules it touches but the one an aligned .c store keeps, and is
answered; a write to a unit marked as code writes nothing and raises CODE_WRITE. -/
def Clause.StoresAtHome : Prop :=
  ∀ (s : State) (r : Req), r.op = .store → r.done = none → paRegion r.pa ≠ 2 → (paRegion r.pa < 2 → s.damaged r.pa = false) →
    (s.isCode r.pa = true → (s.perform r).1 = s.faultAsync r.lid clsCodeWrite r.l r.core (BitVec.ofNat 64 r.pa)
      ∧ (s.perform r).2.failed = true) ∧
    (s.isCode r.pa = false → r.rel = none →
      (s.perform r).1.mem = Memory.writeMasked s.mem r.pa r.data r.mask ∧ (s.perform r).2.failed = false ∧
      ∀ g, g ∈ (s.perform r).1.tags ↔
        (g ∈ s.tags ∧ g ∉ touched r.pa r.data r.mask) ∨
        (g ∈ touched r.pa r.data r.mask ∧ r.tag = some true ∧ r.pa % 16 = 0 ∧ g = r.pa / 16 ∧ paRegion r.pa ≤ 1))

/-- R131, R208, R211, R219: an access that has reached a core is performed there; a landing performs one access in its slot, answers it
52 clk later and serves none before 8 clk have passed; an edge controller starts one in a clk and answers 325 clk later, when its gallery port is free. -/
def Clause.HomesServe : Prop :=
  (∀ (k : Nat) (s t : State) (p : Packet) (r : Req), s.accept k = some (p, t) → p.body = .access r → p.port = .core →
    exec (.homeAccess k) s = .next (t.performAt r p.dest)) ∧
  (∀ (col : Nat) (s : State) (r : Req) (stair : Bool) (came : Nat), (s.column col).stairQ = [] →
    (s.column col).table = [{ stair := stair, at_ := came, req := r }] →
    (s.column col).nextSlot ≤ s.clk → r.op = .load → r.done = none → paRegion r.pa = 1 → s.damaged r.pa = false → r.rel = none →
    r.acq = false →
    ∃ t q a, exec (.landingAccess col) s = .next t ∧ (t.column col).table = [] ∧ (t.column col).nextSlot = s.clk + s.delay (2 * col) 8
      ∧ t.net.getLast? = some q ∧ q.body = .response a ∧ a.data = s.readHome r.pa r.len r.key ∧ q.ready = s.clk + s.delay (2 * col) 52
      ∧ t.mem = s.mem) ∧
  (∀ (ctl : Nat) (s : State) (r : Req) (rest : List Req), (s.edge ctl).table = r :: rest → (s.edge ctl).nextClk ≤ s.clk → r.op = .load →
    r.done = none → paRegion r.pa = 2 → s.damaged r.pa = false → r.rel = none → r.acq = false → ∃ t q a, exec (.edgeAccess ctl) s = .next t ∧ (t.edge ctl).table = rest
      ∧ (t.edge ctl).nextClk = s.clk + 1 ∧ t.net.getLast? = some q ∧ q.body = .response a ∧ a.data = s.readHome r.pa r.len r.key
      ∧ s.clk + 325 ≤ q.ready
      ∧ (getAt 0 (s.edgePlace ctl) s.ports ≤ (s.clk + 325) * s.galleryRate (s.edgePlace ctl) → q.ready = s.clk + 325))

/-- R212–R215, R218, R306: with one of the hall's four walkers free for it, a walk that finds a leaf enters it in the core's TLB, and one that
finds none marks the page for the waiting instruction, which then raises TRANSLATION; with four others ahead it waits. A scan reads
its unit after the stores that reached the unit's home before it (R218). One that passes takes 8,192 clk, then records the unit's start map and marks it as code; one that fails raises CODE_SCAN when it has come to the
halfword that its first pass refuses, or, for a displacement, when it has checked all of them. -/
def Clause.WalksAndScans : Prop :=
  ∀ (core ctx : Nat) (s : State) (t : Task), ctx < 16 → ((s.core core).ctx ctx).task = some t →
    (∀ va, ((s.core core).ctx ctx).park = some (.walk va) →
      let served := s.modHall (hallOf core) (fun h => { h with misses := h.misses.filter (fun m => m != (core, ctx)) })
      (s.walkerFree core ctx = false → exec (.pageWalk core ctx) s = .next s) ∧
      (s.walkerFree core ctx = true → ∀ e v, served.walkFor core t.lid va.toNat = (some e, v) →
        exec (.pageWalk core ctx) s = .next (v.modCore core (fun c => c.tlbInsert e))
        ∧ ∀ u, exec (.pageWalk core ctx) s = .next u → e ∈ (u.core core).tlb) ∧
      (s.walkerFree core ctx = true → ∀ v, served.walkFor core t.lid va.toNat = (none, v) → ∃ u, exec (.pageWalk core ctx) s = .next u
        ∧ ((u.core core).ctx ctx).badWalk = some (va.toNat / 65536) ∧ (u.core core).tlb = (s.core core).tlb)) ∧
    (∀ unit e, ((s.core core).ctx ctx).park = some (.scan unit) →
      (s.core core).tlb.find? (fun e => e.lid == t.lid && e.holds unit) = some e → (s.launch t.lid).startMap? unit = none →
      let ahead := s.settleAhead (unit * 65536) 65536
      (ahead.launch? t.lid).isSome = true → (ahead.launch t.lid).scans.length < 1024 →
      (∀ starts, scanUnit (ahead.unitBytes unit e.key) = .ok starts → 8192 ≤ s.scanAge t.lid unit → ∃ u, exec (.codeScan core ctx) s = .next u
        ∧ (u.launch t.lid).startMap? unit = some starts ∧ (unit, t.lid) ∈ u.codeMarks) ∧
      (∀ b o, scanUnit (ahead.unitBytes unit e.key) = .error (b, o) → b < 16 → o < 2048 →
        (firstPass (ahead.unitBytes unit e.key) = .error (b, o) → (b * 2048 + o) / 4 ≤ s.scanAge t.lid unit) →
        (∀ l, firstPass (ahead.unitBytes unit e.key) = .ok l → 8192 ≤ s.scanAge t.lid unit) →
        exec (.codeScan core ctx) s = .next (s.trapAt core ctx clsCodeScan 0 (BitVec.ofNat 64 (unit * 65536 + b * 4096 + o)))) ∧
      (paRegion (unit * 65536) = 1 → (s.column (paCol (unit * 65536))).table = [] → ahead = s))

/-- R213: a page-table leaf is refused when it is invalid, has a reserved bit or KIND, names another launch, region 0x0, 0xF or an
unassigned one, has both X and W, or an absent peer; a pointer when its OWNER, HOMEDEV or another reserved field is not zero. -/
def Clause.PageTableChecks : Prop :=
  ∀ (s : State) (e : W64) (lid : Nat) (big : Bool),
    (s.leafOk e lid big = true → e.getLsbD 0 = true ∧ e.getLsbD 1 = true ∧ e.extractLsb' 2 5 = 0 ∧ (e.extractLsb' 10 2).toNat < 2
      ∧ (e.extractLsb' 58 6).toNat = lid ∧ 1 ≤ (e.extractLsb' 48 4).toNat ∧ (e.extractLsb' 48 4).toNat ≤ 4
      ∧ ¬(e.getLsbD 8 = true ∧ e.getLsbD 7 = true) ∧ (big = true → e.extractLsb' 16 5 = 0)
      ∧ ((e.extractLsb' 52 6).toNat ≠ 0 → s.peerUp ((e.extractLsb' 52 6).toNat - 1) = true)) ∧
    (ptrOk e = true ↔ e.getLsbD 0 = true ∧ e.getLsbD 1 = false ∧ e.extractLsb' 2 5 = 0 ∧ e.extractLsb' 52 12 = 0)

/-- R131, R132, R135, R137, R140, R472: a router whose output is free for a packet and whose next router has room sends it one hop on:
over the twin bond to the destination's layer, then along x, then along y, unless the hop is into a dead rectangle; a routing tile of its
launch takes one that cannot go on into its overflow buffer; at its waypoint it counts a step once it is accepted there; at its last router it
goes out by the port when its turn there comes. -/
def Clause.RouterHops : Prop :=
  ∀ (k : Nat) (s : State) (p : Packet), s.net[k]? = some p → p.ready ≤ s.clk → p.plain = true → p.dta = false →
    (p.waits = true → s.mayHop p = true → ∃ t q, exec (.routerForward k) s = .next t ∧ t.net[k]? = some q ∧ q.waits = false ∧ q.pos = p.pos) ∧
    (p.waits = false →
    (p.pos ≠ p.dest → s.mayHop p = true → s.rectOf (stepFrom p.pos (routeDir p.pos p.dest)) = none →
      ∃ t q, exec (.routerForward k) s = .next t ∧ t.net[k]? = some q ∧ q.dest = p.dest ∧ q.hops = Nat.min 255 (p.hops + 1)
        ∧ (placeZ p.pos ≠ placeZ p.dest → q.pos = twinOf p.pos)
        ∧ (placeZ p.pos = placeZ p.dest → placeX p.pos < placeX p.dest → q.pos = p.pos + 1024)
        ∧ (placeZ p.pos = placeZ p.dest → placeX p.dest < placeX p.pos → q.pos = p.pos - 1024)
        ∧ (placeZ p.pos = placeZ p.dest → placeX p.pos = placeX p.dest → placeY p.pos < placeY p.dest → q.pos = p.pos + 2)
        ∧ (placeZ p.pos = placeZ p.dest → placeX p.pos = placeX p.dest → placeY p.dest < placeY p.pos → q.pos = p.pos - 2)
        ∧ s.clk + 2 ≤ q.ready) ∧
    (p.pos ≠ p.dest → s.mayHop p = false → s.overflows p = false → exec (.routerForward k) s = .next s) ∧
    (p.pos ≠ p.dest → s.mayHop p = false → s.overflows p = true → exec (.routerForward k) s = .next (s.setPacket k { p with spilt := true })) ∧
    (p.pos = p.dest → p.stat = true → p.step < p.wps.length → s.atWaypoint p = true →
      ∃ t q, exec (.routerForward k) s = .next t ∧ t.net[k]? = some q ∧ q.step = p.step + 1 ∧ q.pos = p.pos))

/-- R139: a hop into a dead rectangle starts a detour on VC1: for travel in x the packet steps north, or south where its destination lies
south or the rectangle touches the north edge, for travel in y east, or west where the rectangle touches the east edge, and DTE is one
beyond the far edge; it steps toward that side until it is beyond the rectangle, then along its way until DTE, where DTA is cleared, and
it stays on VC1. -/
def Clause.Detours : Prop :=
  ∀ (k : Nat) (s : State) (p : Packet), s.net[k]? = some p → p.ready ≤ s.clk → p.plain = true → p.waits = false → p.pos ≠ p.dest →
    s.mayHop p = true →
    let moves (f : Packet → Prop) : Prop := ∃ t q, exec (.routerForward k) s = .next t ∧ t.net[k]? = some q ∧ q.dest = p.dest ∧ f q
    (∀ z x0 y0 x1 y1, p.dta = false → placeZ p.pos = placeZ p.dest →
      s.rectOf (stepFrom p.pos (routeDir p.pos p.dest)) = some (z, x0, y0, x1, y1) →
      let x := placeX p.pos
      let y := placeY p.pos
      (x ≠ placeX p.dest → y0 ≤ y → y ≤ y1 →
        let dte := if x < placeX p.dest then Nat.min (x1 + 1) 511 else x0 - 1
        (placeY p.dest < y → 0 < y0 → moves (fun q => q.pos = p.pos - 2 ∧ q.vc1 = true ∧ q.dta = true ∧ q.dte = dte)) ∧
        (y ≤ placeY p.dest → y1 < 511 → moves (fun q => q.pos = p.pos + 2 ∧ q.vc1 = true ∧ q.dta = true ∧ q.dte = dte)) ∧
        (y ≤ placeY p.dest → y1 = 511 → 0 < y0 → moves (fun q => q.pos = p.pos - 2 ∧ q.vc1 = true ∧ q.dta = true ∧ q.dte = dte))) ∧
      (x = placeX p.dest → y ≠ placeY p.dest → x0 ≤ x → x ≤ x1 →
        let dte := if y < placeY p.dest then Nat.min (y1 + 1) 511 else y0 - 1
        (x1 < 511 → moves (fun q => q.pos = p.pos + 1024 ∧ q.vc1 = true ∧ q.dta = true ∧ q.dte = dte)) ∧
        (x1 = 511 → 0 < x0 → moves (fun q => q.pos = p.pos - 1024 ∧ q.vc1 = true ∧ q.dta = true ∧ q.dte = dte)))) ∧
    (p.dta = true → p.side < 4 → p.dtd < 4 → p.side ≠ dtdCode p.dtd →
      (coordOn p.pos p.side ≠ p.line → s.rectOf (stepFrom p.pos p.side) = none →
        moves (fun q => q.pos = stepFrom p.pos p.side ∧ q.vc1 = p.vc1 ∧ q.dta = true ∧ q.line = p.line)) ∧
      (coordOn p.pos p.side = p.line → s.rectOf (stepFrom p.pos (dtdCode p.dtd)) = none →
        moves (fun q => q.pos = stepFrom p.pos (dtdCode p.dtd) ∧ q.vc1 = p.vc1
          ∧ q.dta = !decide (coordOn (stepFrom p.pos (dtdCode p.dtd)) (dtdCode p.dtd) = p.dte))))

/-- R106, R143, R433: an active message enters the queue of its priority while that has room and stays in the network otherwise; a
channel message enters its ring when all its entries fit, waits otherwise, and raises CHANNEL for a disabled channel; a peer's
refusal raises PEER at the sender. -/
def Clause.MessagesAccepted : Prop :=
  (∀ (k : Nat) (s t : State) (p : Packet), s.accept k = some (p, t) → p.body = .message → p.port = .core → p.sig = none →
    s.holdsItems p.dest = false →
    let c := s.core p.dest
    let m : Msg := { handler := p.handler, stage := p.stage, args := p.entries }
    (p.kind = 2 → p.hiPrio = false → (c.lowQ.length < 16 → ∃ u, exec (.activeMessageAccept k) s = .next u ∧ (u.core p.dest).lowQ = c.lowQ ++ [m])
      ∧ (16 ≤ c.lowQ.length → exec (.activeMessageAccept k) s = .next s)) ∧
    (p.kind = 2 → p.hiPrio = true → (c.highQ.length < 8 → ∃ u, exec (.activeMessageAccept k) s = .next u ∧ (u.core p.dest).highQ = c.highQ ++ [m])
      ∧ (8 ≤ c.highQ.length → exec (.activeMessageAccept k) s = .next s)) ∧
    (p.kind = 3 → let h := c.chan p.ch
      (h.en = true → h.size < h.count.toNat + p.entries.length → exec (.channelMessageAccept k) s = .next s) ∧
      (h.en = true → h.count.toNat + p.entries.length ≤ h.size → h.count.toNat + p.entries.length < 512 →
        ∃ u, exec (.channelMessageAccept k) s = .next u ∧ ((u.core p.dest).chan p.ch).count.toNat = h.count.toNat + p.entries.length
          ∧ ((u.core p.dest).chan p.ch).head = h.head) ∧
      (h.en = false → ∃ l, exec (.channelMessageAccept k) s = .next (t.faultAsync p.lid clsChannel l p.dest (BitVec.ofNat 64 p.ch))))) ∧
  (∀ (k n : Nat) (s : State) (p : Packet), s.peerOut[k]? = some (n, p) → ∃ l, exec (.peerMessageRefusal k) s =
    .next (({ s with peerOut := s.peerOut.eraseIdx k } : State).faultAsync p.lid clsPeer l p.src (BitVec.ofNat 64 n)))

/-- R442: a service request is answered with its status and value: 0 gives the argument back, 1 device time, 2 the grant, 3 the
features, 4 the peer ports up, 5 TURNS, and an unassigned number status 1. -/
def Clause.Services : Prop :=
  ∀ (k n core ctx : Nat) (s : State) (p : Packet) (arg : W64) (tk : Option (BitVec 16)),
    s.landed k = some p → p.body = .service n arg core ctx tk →
    ∃ t q r, exec (.serviceRequest k) s = .next t ∧ t.net.getLast? = some q ∧ q.dest = core ∧ q.body = .response r ∧ r.ticket = tk ∧
      let status : W64 := r.fill.v.extractLsb' 64 64
      let v : W64 := r.fill.v.extractLsb' 0 64
      (n = 0 → status = 0 ∧ v = arg) ∧ (n = 1 → status = 0 ∧ v.extractLsb' 0 63 = s.time.extractLsb' 0 63 ∧ v.getLsbD 63 = s.timeLocked)
      ∧ (n = 2 → status = 0 ∧ v = (s.launch p.lid).grant.setWidth 64)
      ∧ (n = 3 → status = 0 ∧ v.toNat < 16 ∧ v.getLsbD 0 = s.out.peerPorts ∧ v.getLsbD 1 = s.out.ttTable ∧ v.getLsbD 2 = s.out.stochastic
        ∧ v.getLsbD 3 = s.out.tierCrypt)
      ∧ (n = 4 → status = 0 ∧ ∀ b, v.getLsbD b = (decide (b < 32) && s.peerUp b)) ∧ (n = 5 → status = 0 ∧ v = s.mb.turns.setWidth 64)
      ∧ (6 ≤ n → status = 1 ∧ v = 0)

/-- R406–R410: copy and fill, with their capabilities checked and their release performed, enter the copy engine's queue with their
latched operands and make d PENDING with a ticket of class 0x1, memory as it was; an untagged or unwritable destination is
CAPABILITY, as is a layout that a converting copy cannot read or write through, a cursor below base BOUNDS, and a converting pair of
types without values COMMAND 1. A byte copy whose destination starts within its source takes its pieces downward. -/
def Clause.CopyCommands : Prop :=
  ∀ (sc : Scope) (done : Option (BitVec 6)) (a : Args) (s u w : State) (cd cs : TagVal),
    s.operands2 .b a.s1 a.s2 [.dst a.d] = .ok (cd, cs, u) →
    let traps (i : Instr) (cls : BitVec 8) (n : Nat) : Prop :=
      exec i s = .next (s.trapAt s.cur.core s.cur.ctx cls 0 (BitVec.ofNat 64 n))
    let rest := capTop cd.v - capCursor cd.v
    let from_ := capCursor cs.v
    let queued (i : Instr) (q : CopyCmd → Prop) : Prop := ∃ t c, exec i s = .next t ∧ t.cc.copyQ = w.cc.copyQ ++ [c] ∧ t.mem = s.mem
      ∧ pendingClass (t.regAt s.cur.core s.cur.ctx a.d.toNat) 1
      ∧ c.ticket = some (t.regAt s.cur.core s.cur.ctx a.d.toNat).ticket ∧ c.done = doneOf done ∧ c.dst = cd.v ∧ c.moved = 0 ∧ q c
    ((cd.tag = false ∨ capW cd.v = false) → (∀ cvt, traps (.copy sc cvt done a) clsCapability (capCursor cd.v))
      ∧ traps (.fill sc done a) clsCapability (capCursor cd.v)) ∧
    (cd.tag = true → capW cd.v = true →
      (capCursor cd.v < capBase cd.v → traps (.fill sc done a) clsBounds (capCursor cd.v)
        ∧ (cs.tag = false → traps (.copy sc false done a) clsBounds (capCursor cd.v))) ∧
      (cs.tag = true → capR cs.v = true → layoutOk cd.v = false → traps (.copy sc true done a) clsCapability (capCursor cd.v)) ∧
      (cs.tag = true → capR cs.v = true → layoutOk cd.v = true → layoutOk cs.v = true → capLength cd.v = 0 →
        (capTy cd.v).isFloat = false → traps (.copy sc true done a) clsCommand 1) ∧
      (s.issueEngine sc = .ok w → a.d.toNat < 32 → s.curStream? a.d.toNat = none →
        (capBase cd.v ≤ capCursor cd.v → queued (.fill sc done a) (fun c => c.pattern = some cs.v ∧ c.total = rest)) ∧
        (capBase cd.v ≤ capCursor cd.v →
          (cs.tag = true → capR cs.v = true ∧ capBase cs.v ≤ from_ ∧ from_ + rest ≤ capTop cs.v) →
          queued (.copy sc false done a) (fun c => c.pattern = none ∧ c.cvt = false ∧ c.src = cs ∧ c.total = rest
            ∧ c.device = (s.deviceRange s.cur.core s.lid (capCursor cd.v) rest || s.deviceRange s.cur.core s.lid from_ rest)
            ∧ (c.down = true ↔ from_ < capCursor cd.v ∧ capCursor cd.v < from_ + rest))) ∧
        (cs.tag = true → capR cs.v = true → (capTy cd.v).isFloat = true → (capTy cs.v).isFloat = true →
          layoutOk cd.v = true → layoutOk cs.v = true →
          let n := fitCount cd.v 0 (capLength cd.v * 2 + 1)
          (∀ e < n, elemBit cs.v e + (capTy cs.v).bits ≤ 8 * capLength cs.v ∧ ∀ o, scaleByteOff cs.v e = some o → o < capLength cs.v) →
          queued (.copy sc true done a) (fun c => c.cvt = true ∧ c.src = cs ∧ c.total = n ∧ c.seed = s.cc.seed
            ∧ ∀ e < n, elemBit cd.v e + (capTy cd.v).bits ≤ 8 * capLength cd.v))))

/-- R217, R407, R409: a step of the copy engine reads before it writes. A read that leaves the core waits in a join; once its bytes have
come, the oldest unwritten piece is written at the bytes it names and no others, those in the core's own SRAM at once and the others as
stores sent to their homes; a piece is complete when they are acknowledged, and the last ends the command with its count and its .done
decrement. A piece whose read or whose address fails ends the command with ENGINE, and its bytes are not written. That what lies in the core's own
SRAM is read and written at once and the rest through the network is the model's reading (assumption log 73). -/
def Clause.CopyPieces : Prop :=
  ∀ (core : Nat) (s : State) (c : CopyCmd) (rest : List CopyCmd), (s.core core).copyQ = c :: rest → c.cvt = false → c.broken = false →
    c.moved < c.total → (s.core core).acked (s.core core).nextId = true → (s.core core).join? (s.core core).nextId = none →
    let lid := (s.core core).engineTile.1
    let ends (t : State) : Prop := (t.core core).copyQ = rest ∧
      (∀ tk, c.ticket = some tk → ∃ q ∈ t.net, ∃ r, q.body = .response r ∧ q.dest = core ∧ r.ticket = some tk
        ∧ r.fill = val64 c.total ∧ r.poison = none) ∧
      (∀ d lid l, c.done = some d → (s.core core).role = .host lid .compute l → ∃ g, sentLast t .core (.decrement d g))
    let fails : Prop := ∀ tk, c.ticket = some tk → ∃ t r, exec (.copyPiece core 0) s = .next t ∧ (t.core core).copyQ = rest ∧ t.mem = s.mem
      ∧ sentLast t .core (.response r) ∧ r.ticket = some tk ∧ r.poison = some pzEngine
    (∀ f fl, c.flight = f :: fl → f.wrote = none → (∀ x ∈ fl, x.wrote = none) →
      (∀ buf, (s.core core).bytesFor f = some (true, buf) → fails) ∧
      (∀ buf, (s.core core).bytesFor f = some (false, buf) →
        let ps := piecesOf (capCursor c.dst + f.off) f.n
        let bs := (List.range f.n).map (fun i =>
          match c.pattern with | some v => v.extractLsb' (8 * ((f.off + i) % 16)) 8 | none => bufByte buf i)
        (s.hartTargets core lid walkCopyWrite true ps = .engine → fails) ∧
        (∀ ts, s.hartTargets core lid walkCopyWrite true ps = .ok ts →
          ∃ t, exec (.copyPiece core 0) s = .next t ∧ t.mem = storedMem s.mem bs [] (ts.filter (fun p => p.2.own)) ∧
            ((∀ p ∈ ts, p.2.own = true) →
              (c.moved + f.n < c.total → ∃ n, (t.core core).copyQ = n :: rest ∧ n.moved = c.moved + f.n ∧ n.flight = fl) ∧
              (c.total ≤ c.moved + f.n → ends t)) ∧
            ((∃ p ∈ ts, p.2.own = false) → ∃ n g, (t.core core).copyQ = n :: rest ∧ n.moved = c.moved
              ∧ n.flight = { f with wrote := some g } :: fl
              ∧ ∀ p ∈ ts, p.2.own = false → ∃ o ∈ (t.core core).outs, o.hart = some g ∧ o.pa = p.2.pa)))) ∧
    (∀ f g, c.flight = [f] → f.wrote = some g → (s.core core).acked g = true →
      (c.moved + f.n < c.total → ∃ t n, exec (.copyPiece core 0) s = .next t ∧ (t.core core).copyQ = n :: rest
        ∧ n.moved = c.moved + f.n ∧ n.flight = []) ∧
      (c.total ≤ c.moved + f.n → ∃ t, exec (.copyPiece core 0) s = .next t ∧ ends t)) ∧
    (∀ ts, c.pattern = none → c.flight = [] → c.read < c.total →
      let src := piecesOf (capCursor c.src.v + c.nextPiece.1) c.nextPiece.2
      s.hartTargets core lid walkCopyRead false src = .ok ts → (∃ p ∈ ts, p.2.own = false) →
      ∃ t n j k, exec (.copyPiece core 1) s = .next t ∧ t.mem = s.mem ∧ (t.core core).copyQ = n :: rest ∧ n.moved = c.moved
        ∧ n.read = c.read + c.nextPiece.2 ∧ n.flight = [{ off := c.nextPiece.1, n := c.nextPiece.2, join := some j }]
        ∧ (t.core core).join? j = some k ∧ k.left = (ts.filter (fun p => !p.2.own)).length ∧ k.failed = false)

/-- R411–R413: sbind binds a free register to an empty stream over its range, FULL and zero; one already bound is COMMAND 2 and a
range that is not 16-byte aligned and sized COMMAND 7. sunb of an unbound register that can be read is COMMAND 2, of a POISONED one a poison use; of
an input stream it gives the count popped, and an output stream stays behind to write its buffer. The model's readings: the issue of sunb is a
launch-scope release (assumption log 21), and the count comes 1 clk later (assumption log 108). -/
def Clause.StreamBindings : Prop :=
  ∀ (sc : Scope) (out : Bool) (a : Args) (s u w : State) (c : TagVal),
    let n := a.d.toNat
    let traps (i : Instr) (d : Nat) : Prop := exec i s = .next (s.trapAt s.cur.core s.cur.ctx clsCommand 0 (BitVec.ofNat 64 d))
    (c.tag = true → (if out then capW c.v else capR c.v) = true → capBase c.v ≤ capCursor c.v →
      (∀ x, s.curStream? n = some x → s.operand1 .b a.s1 [] = .ok (c, u) → traps (.sbind sc out a) 2) ∧
      (s.curStream? n = none → s.operand1 .b a.s1 [.dst a.d] = .ok (c, u) →
        (capCursor c.v % 16 ≠ 0 ∨ (capTop c.v - capCursor c.v) % 16 ≠ 0 → traps (.sbind sc out a) 7) ∧
        (capCursor c.v % 16 = 0 → (capTop c.v - capCursor c.v) % 16 = 0 → s.issueEngine sc = .ok w → n < 32 →
          ∃ t x, exec (.sbind sc out a) s = .next t ∧ t.cx.stream? n = some x ∧ x.out = out ∧ x.base = capCursor c.v
            ∧ x.total = (capTop c.v - capCursor c.v) / 16 ∧ x.moved = 0 ∧ x.buf = [] ∧ t.cx.reg n = {} ∧ t.mem = s.mem))) ∧
    (∀ r : BitVec 6, a.s1 = .reg r → s.meet (if a.d = r then [] else [.dst a.d]) = .ok () →
      (s.curStream? r.toNat = none → s.meet ([.src r] ++ (if a.d = r then [] else [.dst a.d])) = .ok () → traps (.sunb a) 2) ∧
      (s.curStream? r.toNat = none → r.toNat < 32 → s.inShadow r = false → (s.cx.reg r.toNat).state = .poisoned →
        exec (.sunb a) s = .next (s.trapAt s.cur.core s.cur.ctx clsPoisonUse (s.cx.reg r.toNat).code (BitVec.ofNat 64 r.toNat))) ∧
      (∀ x, r.toNat < 32 → s.cx.stream? r.toNat = some x → (s.cx.reg r.toNat).state ≠ .pending → s.inShadow r = false → s.issueEngine .launch = .ok w →
        ∃ t, exec (.sunb a) s = .next t ∧ t.cx.stream? r.toNat = none ∧ (a.d ≠ r → t.cx.reg r.toNat = {}) ∧
          (x.out = false → ∃ q m, t.net = s.net ++ [q] ∧ q.body = .response m ∧ m.fill = val64 x.moved ∧ m.poison = none
            ∧ q.ready = s.clk + s.delay s.cur.core 1) ∧
          (x.out = true → t.net = s.net ∧ ∃ k, t.cc.closing = s.cc.closing ++ [k] ∧ k.stream = { x with sig := sigUnion x.sig w.cc.acc })))

/-- R412, R413: a refill reads the next entries, four at most, while four of an input stream's eight places are free: from the core's own
SRAM they stand in the buffer at once, else once they have come; one that fails marks the stream. An output stream's four oldest entries
become one store. An unbound output stream stores the rest, and its register gets its count when every store has been acknowledged. That own SRAM
is read at once is the model's reading (assumption log 73). -/
def Clause.StreamPieces : Prop :=
  ∀ (core ctx reg : Nat) (s : State) (x : Stream), (s.core core).join? (s.core core).nextId = none →
    let lid := (s.core core).engineTile.1
    let k := Nat.min 4 (x.total - x.engine)
    let rd := piecesOf (x.base + 16 * x.engine) (16 * k)
    let wr (n : Nat) := piecesOf (x.base + 16 * x.engine) (16 * n)
    let bytes (n : Nat) := (x.buf.take n).flatMap (fun v => natBytes 16 v.toNat)
    let near (ts : List (Piece × Target)) := ts.filter (fun p => p.2.own)
    let runs (t : State) : Prop := exec (.streamRefill core ctx reg) s = .next t
    let becomes (t : State) (y : Stream) : Prop := ((t.core core).ctx ctx).stream? reg = some y
    let filled (buf : List (Nat × Byte)) : Stream := { x with
      engine := x.engine + k, refill := none, buf := x.buf ++ (List.range k).map (fun i => BitVec.ofNat 128 (bufNat buf (16 * i) 16)) }
    ((∀ c ∈ (s.core core).closing, ¬(c.ctx = ctx ∧ c.reg = reg)) → ((s.core core).ctx ctx).stream? reg = some x → x.failed = false →
      (x.out = false → x.refill = none → x.buf.length ≤ 4 → x.engine < x.total →
        (∀ ts, s.hartTargets core lid (walkStream ctx reg) false rd = .ok ts →
          ((∀ p ∈ ts, p.2.own = true) → ∃ t, runs t ∧ t.mem = s.mem ∧ becomes t (filled (s.localPart [] ts))) ∧
          ((∃ p ∈ ts, p.2.own = false) → ∃ t j i, runs t ∧ t.mem = s.mem ∧ becomes t { x with refill := some j }
            ∧ (t.core core).join? j = some i ∧ i.left = (ts.filter (fun p => !p.2.own)).length)) ∧
        (s.hartTargets core lid (walkStream ctx reg) false rd = .engine → ∃ t, runs t ∧ becomes t { x with failed := true })) ∧
      (∀ j i, x.out = false → x.refill = some j → (s.core core).join? j = some i → i.left = 0 →
        ∃ t, runs t ∧ t.mem = s.mem ∧ becomes t (if i.failed then { x with failed := true, refill := none } else filled i.buf)) ∧
      (∀ ts, x.out = true → 4 ≤ x.buf.length → s.hartTargets core lid (walkStream ctx reg) true (wr 4) = .ok ts →
        ∃ t y, runs t ∧ t.mem = storedMem s.mem (bytes 4) [] (near ts) ∧ becomes t y ∧ y.engine = x.engine + 4 ∧ y.buf = x.buf.drop 4
          ∧ ∀ p ∈ ts, p.2.own = false → ∃ o ∈ (t.core core).outs, o.hart = some x.group ∧ o.pa = p.2.pa)) ∧
    (∀ c tk, (s.core core).closing = [c] → c.ctx = ctx → c.reg = reg → c.stream = x → c.ticket = some tk → x.failed = false →
      (s.core core).acked x.group = true →
      let gives (t : State) : Prop := (t.core core).closing = [] ∧ ∃ m, sentLast t .core (.response m) ∧ m.ticket = some tk ∧ m.fill = val64 x.moved
      (x.buf = [] → ∃ t, runs t ∧ t.mem = s.mem ∧ gives t) ∧
      (∀ ts, x.buf ≠ [] → x.buf.length ≤ 4 → s.hartTargets core lid (walkClosing ctx reg) true (wr x.buf.length) = .ok ts →
        ∃ t, runs t ∧ t.mem = storedMem s.mem (bytes x.buf.length) [] (near ts) ∧
          ((∀ p ∈ ts, p.2.own = true) → gives t) ∧
          ((∃ p ∈ ts, p.2.own = false) → ∃ d, (t.core core).closing = [d] ∧ d.stream.buf = [] ∧ d.stream.moved = x.moved)))

/-- R414, R416–R420: a matrix command whose checks pass enters the queue's end while it holds fewer than four, with d PENDING of
class 0x3 (mcfg takes none); a reserved bit of mcfg is COMMAND 6, and a bank that is EMPTY or of another format in the issue view
COMMAND 5. While no earlier mrmt of the queue waits to start its fetch, an mmac or mrmt starts none but its own. -/
def Clause.MatrixCommands : Prop :=
  ∀ (sc : Scope) (done : Option (BitVec 6)) (bank : BitVec 2) (a : Args) (s u w : State) (x y : TagVal),
    let traps (i : Instr) (d : Nat) : Prop := exec i s = .next (s.trapAt s.cur.core s.cur.ctx clsCommand 0 (BitVec.ofNat 64 d))
    let queued (i : Instr) (op : MOp) (p : State → Prop) : Prop := ∃ t m, exec i s = .next t ∧ t.cc.mqueue = s.cc.mqueue ++ [m]
      ∧ m.op = op ∧ m.finish = none ∧ m.earliest = s.clk + s.delay s.cur.core 1 ∧ t.mem = s.mem ∧ p t
    let pend (t : State) : Prop := a.d.toNat < 32 → s.curStream? a.d.toNat = none →
      pendingClass (t.regAt s.cur.core s.cur.ctx a.d.toNat) 3
    (s.operand1 .b a.s1 [] = .ok (x, u) →
      ((x.v.extractLsb' 0 64).toNat ≥ 8 → traps (.mcfg a) 6) ∧
      ((x.v.extractLsb' 0 64).toNat < 8 → s.cc.mqueue.length < 4 →
        queued (.mcfg a) (.mcfg (x.v.extractLsb' 0 3)) (fun t => t.cc.mcfgView = x.v.extractLsb' 0 3)) ∧
      ((x.v.extractLsb' 0 64).toNat < 8 → 4 ≤ s.cc.mqueue.length → exec (.mcfg a) s = .next (s.parkCur .matrix))) ∧
    (s.operand1 .b a.s1 [.dst a.d] = .ok (x, u) → x.tag = true → capR x.v = true → capM x.v = true →
      (capBlog2 x.v = 5 → capLayout x.v = 1 → traps (.mbld sc bank done a) 1) ∧
      (let n := 64 * matK (capTy x.v)
       matOk x.v = true → matBytes x.v n ≤ capLength x.v →
       (∀ o, s.ownOff? (capBase x.v) = some o → overlaps o (matBytes x.v n) (bankOff bank.toNat) 0x4000 = false) →
       s.cc.mqueue.length < 4 → s.issueEngine sc = .ok w →
       queued (.mbld sc bank done a) (.mbld bank.toNat x.v s.cc.fmc ((s.cc.bankView bank.toNat).loads + 1))
         (fun t => pend t ∧ (t.cc.bankView bank.toNat).loaded = true ∧ (t.cc.bankView bank.toNat).fmt = capTy x.v))) ∧
    (s.operands2 .b a.s1 a.s2 [.dst a.d] = .ok (x, y, u) →
      x.tag = true → capR x.v = true → capM x.v = true → y.tag = true → capR y.v = true → capW y.v = true → capM y.v = true →
      let n := 16 * matK (capTy x.v)
      let k := s.cc.mcfgView.toNat % 4
      matOk x.v = true → capTy y.v = .f32 → capBlog2 y.v = 0 → capLayout y.v < 2 → matBytes x.v n ≤ capLength x.v →
      matBytes y.v 1024 ≤ capLength y.v → ∀ oc, s.localRange (capBase y.v) 4096 = .ok oc →
      (∀ o, s.ownOff? (capBase x.v) = some o → overlaps o (matBytes x.v n) oc 4096 = false) → overlaps (bankOff k) 0x4000 oc 4096 = false →
      ((s.cc.bankView k).loaded = false ∨ (s.cc.bankView k).fmt ≠ capTy x.v →
        (∀ oa, s.localRange (capBase x.v) (matBytes x.v n) = .ok oa → traps (.mmac sc done a) 5) ∧ traps (.mrmt sc done a) 5) ∧
      ((s.cc.bankView k).loaded = true → (s.cc.bankView k).fmt = capTy x.v → s.cc.mqueue.length < 4 → s.issueEngine sc = .ok w →
        (∀ e ∈ s.cc.mqueue, e.unfetched = true → e.join ≠ none) →
        (∀ oa, s.localRange (capBase x.v) (matBytes x.v n) = .ok oa → queued (.mmac sc done a) (.mmac x.v y.v s.cc.fmc) pend)
        ∧ queued (.mrmt sc done a) (.mrmt x.v y.v s.cc.fmc) pend)) ∧
    (s.meet [.dst a.d] = .ok () → s.cc.mqueue.length < 4 → s.issueEngine .launch = .ok w →
      queued (.licTake a) .take pend ∧ queued (.licGive a) .give pend)

/-- R190, R191, R414, R417, R419, R420, R426, Table 19-5: a head command starts for its duration, an mbld with 1 clk more for every 64
scales, one that needs the licence only while its core holds it; a head that asks for a free licence starts its handover of 32 clk, and
the handover's end makes its layer the holder (that HOVERS counts it in that clk is the model's choice, log 26); take sets HOLD, give
clears it and passes the licence to a twin that needs it; a wait of 8,192 clk of the column takes the licence from a holder that runs no
multiplication and gives nothing up in that clk, and is due at its completion otherwise. -/
def Clause.LicenceAndQueue : Prop :=
  ∀ (core : Nat) (s : State) (m : MCmd) (r : List MCmd), (s.core core).mqueue = m :: r →
    let col := colOf core
    let z := placeZ core
    let l := (s.column col).lic
    (m.finish = none → m.earliest ≤ s.clk →
      let starts (n : Nat) : Prop := ∃ t, exec (.matrixCommandStart core) s = .next t
        ∧ (t.core core).mqueue = { m with finish := some (s.clk + s.delay core n) } :: r
      (∀ v, m.op = .mcfg v → starts 1) ∧ (m.op = .give → starts 1) ∧
      (∀ b c f k ts, m.op = .mbld b c f k → capTy c ∈ [Ty.bf16, Ty.f8, Ty.f4] → capBlog2 c = 0 ∨ capBlog2 c = 5 →
        s.hartTargets core (s.core core).engineTile.1 walkMatrix false (matPieces c (64 * matK (capTy c))) = .ok ts →
        ∃ t n, exec (.matrixCommandStart core) s = .next t ∧ t.mem = s.mem ∧ (t.core core).mqueue = n :: r ∧ n.op = m.op ∧ n.join ≠ none
          ∧ n.finish = some (s.clk + s.delay core (256 + if capBlog2 c = 0 then 0 else matK (capTy c) / 32))) ∧
      (l.handover = none → l.holder = some z →
        (m.op = .take → starts 1) ∧
        (∀ ca cc f, m.op = .mmac ca cc f → ((s.core core).bank (s.core core).mcfgBank).loaded = true →
          starts (if capTy ca = .bf16 then 256 else if capTy ca = .f8 then 128 else 64))) ∧
      (l.handover = none → l.holder = none → m.op = .take → (s.core (layerCore col (1 - z))).mqueue = [] →
        ∃ t, exec (.matrixCommandStart core) s = .next t ∧ (t.core core).mqueue = m :: r
          ∧ (t.column col).lic.handover = some (z, s.clk + s.delay (2 * col) 32))) ∧
    (∀ f, m.finish = some f → f ≤ s.clk →
      (∀ v, m.op = .mcfg v → ∃ t, exec (.matrixCommandComplete core) s = .next t ∧ (t.core core).mcfg = v ∧ (t.core core).mqueue = r) ∧
      (m.op = .take → ∃ t, exec (.matrixCommandComplete core) s = .next t ∧ (t.core core).licHold = true ∧ (t.core core).mqueue = r) ∧
      (m.op = .give → l.handover = none → l.holder = some z → 0 < queueNeeds (s.core (layerCore col (1 - z))).mqueue →
        ∃ t, exec (.matrixCommandComplete core) s = .next t ∧ (t.core core).licHold = false
          ∧ (t.column col).lic.handover = some (1 - z, s.clk + s.delay (2 * col) 32))) ∧
    (∀ e, l.handover = some (z, e) → e ≤ s.clk → m.op.needsLicence = true →
      ∃ t, exec (.licenceHandoverEnd col) s = .next t ∧ (t.column col).lic.holder = some z ∧ (t.column col).lic.handover = none
        ∧ (t.column col).lic.last = some z ∧ (t.column col).lic.hovers = l.hovers + 1) ∧
    (∀ since, l.holder = some (1 - z) → l.handover = none → l.waitSince.getD z none = some since →
      since + 8192 ≤ s.ownClk (2 * col) → (s.core core).headWants s.clk = true →
      (s.core (layerCore col (1 - z))).gives s.clk = false →
      ∃ t, exec (.licenceWaitExpiry col) s = .next t ∧
        ((s.core (layerCore col (1 - z))).multiplies = false → (t.column col).lic.handover = some (z, s.clk + s.delay (2 * col) 32)
          ∧ (t.core (layerCore col (1 - z))).licHold = false) ∧
        ((s.core (layerCore col (1 - z))).multiplies = true → (t.column col).lic.due = true ∧ (t.column col).lic.holder = some (1 - z)))

/-- R177, R415, R417–R419: an mbld whose source has come leaves its bank LOADED in the source's format with its codes in the bank's SRAM;
a failed one leaves it EMPTY; one whose source is still to come waits. A fetch that has come stages A, a failed one marks its mrmt. A
completed mmac stores C and gives K; one that finds its bank EMPTY, or a damaged sector of the bank, stores nothing and gives ENGINE, as a
failed mrmt does. That an mmac reads A, its bank and C and writes its sums as one event at its completion is the model's choice (log 27). -/
def Clause.MatrixResults : Prop :=
  ∀ (core : Nat) (s : State) (m : MCmd) (r : List MCmd) (f : Nat), (s.core core).mqueue = m :: r →
    let c := s.core core
    let fills (t : State) (g : Reg) : Prop := ∀ tk x n, m.ticket = some tk → c.ticketLoc tk = some (.gpr core x n) →
      (c.ctx x).reg n = Reg.pending tk → findAt n (c.ctx x).streams = none → ((t.core core).ctx x).reg n = g
    let poisons : Prop := ∃ t, exec (.matrixCommandComplete core) s = .next t ∧ (t.core core).mqueue = r ∧ fills t (Reg.poison pzEngine)
      ∧ t.mem = s.mem
    (m.finish = some f → f ≤ s.clk →
      (∀ k cap fmc serial i j, m.op = .mbld k cap fmc serial → m.join = some i → c.join? i = some j →
        let n := 64 * matK (capTy cap)
        (0 < j.left → exec (.matrixCommandComplete core) s = .next s) ∧
        (j.left = 0 → m.fetched = false → ∃ t, exec (.matrixCommandComplete core) s = .next t
          ∧ (t.core core).mqueue = { m with fetched := true, finish := some (s.clk + s.delay core 1) } :: r) ∧
        (j.left = 0 → m.fetched = true → j.failed = true → poisons ∧
          ∀ t, exec (.matrixCommandComplete core) s = .next t → ((t.core core).bank k).loaded = false) ∧
        (j.left = 0 → m.fetched = true → j.failed = false → s.bankDamaged core k = false → capTy cap ∈ [Ty.bf16, Ty.f8, Ty.f4] →
          ∃ t bs, exec (.matrixCommandComplete core) s = .next t ∧ (t.core core).mqueue = r ∧ fills t (Reg.full (val64 n))
            ∧ ((t.core core).bank k).loaded = true ∧ ((t.core core).bank k).fmt = capTy cap ∧ ((t.core core).bank k).fmc = fmc
            ∧ t.mem = Memory.writeMasked s.mem (sramPa core (0x8000 + k * 0x4000)) bs [] ∧ bs.length = 0x4000
            ∧ ∀ e < n, bankCode (capTy cap) bs.toArray e = codeIn cap (j.bytes cap n) e)) ∧
      (∀ ca cc fmc buf, m.op = .mmac ca cc fmc →
        ((c.bank c.mcfgBank).loaded = false → poisons) ∧
        (s.matOwn core ca (16 * matK (capTy ca)) = .ok buf → (c.bank c.mcfgBank).loaded = true →
          (s.bankDamaged core c.mcfgBank = true → poisons) ∧
          (∀ w g, s.runMatrix core (s.matIn core c.mcfgBank (capTy ca) fmc (codeIn ca buf) (scaleIn ca buf)) cc m.sig
              (fun _ => matK (capTy ca) / 32) = .ok (w, g) →
            ∃ t, exec (.matrixCommandComplete core) s = .next t ∧ (t.core core).mqueue = r ∧ t.mem = w.mem
              ∧ fills t (Reg.full (val64 (matK (capTy ca))))))) ∧
      (∀ ca cc fmc, m.op = .mrmt ca cc fmc → m.failed = true ∨ (c.bank c.mcfgBank).loaded = false → poisons)) ∧
    (∀ ca cc fmc i j, m.op = .mrmt ca cc fmc → m.fetched = false → m.join = some i → c.join? i = some j → j.left = 0 →
      ∃ t n, exec (.mrmtFetchComplete core) s = .next t ∧ (t.core core).mqueue.head? = some n ∧ n.fetched = true ∧ t.mem = s.mem ∧
        (j.failed = true → n.failed = true) ∧
        (j.failed = false → n.failed = m.failed ∧ n.codes = (List.range (16 * matK (capTy ca))).flatMap (fun e =>
          natBytes 2 (codeIn ca (j.bytes ca (16 * matK (capTy ca))) e))))

/-- R255–R259: a block's exponent is its largest; an element is aligned by cutting its low bits toward zero; a block pair is the
exact sum of its aligned products scaled, NaN for a NaN, a scale of 255, an infinity with a zero or infinities of both signs, else
infinite with the one sign; C's element takes one rounded addition a block, in order. -/
def Clause.MatrixArithmetic : Prop :=
  (∀ (as : List FVal) (n : Bool) (m : Nat) (x : Int), FVal.fin n m x ∈ as → m ≠ 0 → x + (Nat.log2 m : Int) ≤ blockExp as) ∧
  (∀ as : List FVal, (∃ n m x, FVal.fin n m x ∈ as ∧ m ≠ 0) → ∃ n m x, FVal.fin n m x ∈ as ∧ m ≠ 0 ∧ blockExp as = x + (Nat.log2 m : Int)) ∧
  (∀ (f : Nat) (e x : Int) (n : Bool) (m : Nat), (alignTo f e (.fin n m x)).natAbs =
    (if e ≤ x + f - 1 then m * 2 ^ (x + f - 1 - e).toNat else m / 2 ^ (e - x - f + 1).toNat)
    ∧ (n = false → 0 ≤ alignTo f e (.fin n m x)) ∧ (n = true → alignTo f e (.fin n m x) ≤ 0)) ∧
  (∀ (f sa sb : Nat) (as bs : List FVal),
    (sa = 255 ∨ sb = 255 ∨ (∃ p ∈ as.zip bs, p.1.isNan = true ∨ p.2.isNan = true) → pairValue f as bs sa sb = .nan) ∧
    (sa ≠ 255 → sb ≠ 255 → (∀ p ∈ as.zip bs, p.1.isNan = false ∧ p.2.isNan = false) →
      ((∃ p ∈ as.zip bs, (p.1.isInf = true ∧ p.2.isZero = true) ∨ (p.2.isInf = true ∧ p.1.isZero = true)) → pairValue f as bs sa sb = .nan) ∧
      (∀ n, (∃ p ∈ as.zip bs, p.1.isInf = true ∨ p.2.isInf = true) →
        (∀ p ∈ as.zip bs, (p.1.isInf = true ∨ p.2.isInf = true) → p.1.isZero = false ∧ p.2.isZero = false ∧ (p.1.neg != p.2.neg) = n) →
        pairValue f as bs sa sb = .inf n) ∧
      ((∀ p ∈ as.zip bs, p.1.isInf = false ∧ p.2.isInf = false) →
        let t := ((as.zip bs).map (fun p => alignTo f (blockExp as) p.1 * alignTo f (blockExp bs) p.2)).sum
        pairValue f as bs sa sb = if t = 0 then .fin false 0 0
          else .fin (decide (t < 0)) t.natAbs (blockExp as + blockExp bs - 2 * (f : Int) + 2 + (sa : Int) - 127 + ((sb : Int) - 127))))) ∧
  (∀ (m : MatIn) (i j c0 n : Nat), m.element i j c0 0 = c0 ∧ m.element i j c0 (n + 1) =
    addPair (m.element i j c0 n) (pairValue (matF m.ty) ((List.range 32).map (fun k => m.a (matK m.ty * i + 32 * n + k)))
      ((List.range 32).map (fun k => m.b (matK m.ty * j + 32 * n + k))) (m.sa (matK m.ty / 32 * i + n)) (m.sb (matK m.ty / 32 * j + n))))

/-- R148, R150: a tensor's rendezvous is that of the first entry that is not empty and matches under its mask; without one it is the
default: under DPOOL = 0 routing index T mod J0, else pool slot T mod S0, else compute tile T mod C, under DPOOL = 1 the pool first. -/
def Clause.NameRouting : Prop :=
  ∀ (l : Launch) (t : Nat),
    let e (n : Nat) : W128 := getAt 0 n l.names
    let hits (n : Nat) : Prop := (e n).extractLsb' 78 2 ≠ 0 ∧
      (t &&& ((e n).extractLsb' 80 24).toNat) = (((e n).extractLsb' 104 24).toNat &&& ((e n).extractLsb' 80 24).toNat)
    (∀ n < 15, hits n → (∀ k < n, ¬hits k) → l.rendezvous t =
      (if (e n).extractLsb' 78 2 = 1 then Kind.pool else Kind.routing, ((e n).extractLsb' 0 20).toNat)) ∧
    ((∀ n < 15, ¬hits n) →
      (l.record.dpool = false → 0 < l.j0 → l.rendezvous t = (.routing, t % l.j0)) ∧
      (l.record.dpool = true → 0 < l.s0 → l.rendezvous t = (.pool, t % l.s0)) ∧
      (l.record.dpool = false → l.j0 = 0 → 0 < l.s0 → l.rendezvous t = (.pool, t % l.s0)) ∧
      (l.record.dpool = true → l.s0 = 0 → 0 < l.j0 → l.rendezvous t = (.routing, t % l.j0)) ∧
      (l.j0 = 0 → l.s0 = 0 → 0 < l.c → l.rendezvous t = (.compute, t % l.c)))

/-- R156, R157, R168, R421–R423: want joins the want list, its register PENDING of class 0x4, and injects a WANT with its lifetime unless
the name is listed already; it parks on a full list of live waiters and is COMMAND 3 for a buffer that is not local. offer of 0 or more
than 4,096 bytes is COMMAND 7; else its train waits to be read. seal injects a SEAL of its tensor and iteration. In quiescence want and
seal inject nothing (R168 as the model reads it, log 89). -/
def Clause.NamedInstructions : Prop :=
  ∀ (a : Args) (s u : State) (c n : TagVal),
    let traps (i : Instr) (d : Nat) : Prop := exec i s = .next (s.trapAt s.cur.core s.cur.ctx clsCommand 0 (BitVec.ofNat 64 d))
    let name : W64 := n.v.setWidth 64
    let units := (n.v.extractLsb' 64 16).toNat
    let rest := capTop c.v - capCursor c.v
    let left := Nat.max 1 units * 1024
    let live := s.cc.wants.filter (fun w => s.clk < w.expiry)
    let quiet := (s.launch s.lid).phase = .quiescing
    let pend (t : State) : Prop := a.d.toNat < 32 → s.curStream? a.d.toNat = none →
      pendingClass (t.regAt s.cur.core s.cur.ctx a.d.toNat) 4
    (s.operands2 .b a.s1 a.s2 [.dst a.d] = .ok (c, n, u) → c.tag = true → capBase c.v ≤ capCursor c.v →
      (capW c.v = true →
        (capCursor c.v / 2 ^ 44 ≠ 15 → traps (.want a) 3) ∧
        (∀ o, s.localRange (capCursor c.v) rest = .ok o → s.fenceHolds = none →
          (16 ≤ live.length → exec (.want a) s = .next (s.parkCur .wantList)) ∧
          (live.length < 16 → s.cc.ticketsFull = false → s.cc.holds = [] →
            ∃ t w, exec (.want a) s = .next t ∧ t.cc.wants = s.cc.wants ++ [w] ∧ w.name = name ∧ w.cap = c.v ∧ w.expiry = s.clk + left
              ∧ w.retryAt = none ∧ pend t ∧ t.mem = s.mem ∧
              ((∀ v ∈ live, v.name ≠ name) → ¬quiet → ∃ q i, t.net = s.net ++ [q] ∧ q.vn = .namei ∧ q.body = .interest i ∧ i.name = name
                ∧ i.type = .want ∧ i.left = left ∧ i.byp = false ∧ q.ready = s.clk + s.delay s.cur.core 4) ∧
              ((∃ v ∈ live, v.name = name ∧ s.clk + left ≤ v.expiry) ∨ quiet → t.net = s.net)))) ∧
      (capR c.v = true →
        (rest = 0 ∨ 4096 < rest → traps (.offer a) 7) ∧
        (0 < rest → rest ≤ 4096 → s.fenceHolds = none → s.cc.ticketsFull = false → s.cc.holds = [] →
          ∃ t q x b, exec (.offer a) s = .next t ∧ pend t ∧ t.mem = s.mem ∧ t.net.getLast? = some q ∧ q.vn = .named ∧ q.body = .train x
            ∧ x.name = name ∧ x.code = .data ∧ x.back = false ∧ x.sleft = units * 1024 ∧ x.source = some (capCursor c.v, rest, b)))) ∧
    (s.operand1 .b a.s1 [.dst a.d] = .ok (n, u) → s.fenceHolds = none → s.cc.ticketsFull = false → s.cc.holds = [] →
      ∃ t, exec (.seal a) s = .next t ∧ pend t ∧ (quiet → t.net = s.net) ∧
        (¬quiet → ∃ q i, t.net = s.net ++ [q] ∧ q.vn = .namei ∧ q.body = .interest i ∧ i.type = .sealI
          ∧ i.name.extractLsb' 0 16 = name.extractLsb' 0 16 ∧ i.name.extractLsb' 40 24 = name.extractLsb' 40 24 ∧ i.name.extractLsb' 16 24 = 0))

/-- R154, R155: a WANT whose lifetime has passed is dropped; one that finds a live entry adds its port and goes no further unless it
lives longer, when it goes on as a RENEW; one that finds room is recorded and goes on; one that finds the table full goes on as a
bypass that returns to the last router that recorded it. The age it carries stops at 65,535 clk (Table 7-1). -/
def Clause.InterestsAtRouters : Prop :=
  ∀ (k : Nat) (s : State) (p : Packet) (i : Interest), s.net[k]? = some p → p.body = .interest i → p.ready ≤ s.clk → p.pos ≠ p.dest →
    p.seen = false → i.type = .want → i.byp = false →
    let e := s.clk + i.left - Nat.min 65535 (s.clk - p.born)
    let c := s.core p.pos
    let onward (t : State) (j : Interest) : Prop := ∃ q, t.net[k]? = some q ∧ q.body = .interest j ∧ q.dest = p.dest ∧ q.pos = p.pos ∧ q.seen = true
    (e ≤ s.clk → exec (.interestAtRouter k) s = .next (s.dropPacket k)) ∧
    (s.clk < e → s.cacheHit p.pos p.lid i.name = none →
      (∀ x, c.livePit p.lid i.name s.clk = some x →
        ∃ t y, exec (.interestAtRouter k) s = .next t ∧ (t.core p.pos).livePit p.lid i.name s.clk = some y ∧ p.face ∈ y.faces
          ∧ (∀ f ∈ x.faces, f ∈ y.faces) ∧ y.expiry = Nat.max x.expiry e ∧
          (e ≤ x.expiry → t.net = takeOut k s.net) ∧ (x.expiry < e → onward t { i with type := .renew, lastRec := p.pos })) ∧
      (c.livePit p.lid i.name s.clk = none → c.pitCount s.clk < 32 →
        ∃ t y, exec (.interestAtRouter k) s = .next t ∧ (t.core p.pos).livePit p.lid i.name s.clk = some y ∧ y.faces = [p.face]
          ∧ y.expiry = e ∧ onward t { i with lastRec := p.pos }) ∧
      (c.livePit p.lid i.name s.clk = none → 32 ≤ c.pitCount s.clk →
        ∃ t, exec (.interestAtRouter k) s = .next t ∧ t.cores = s.cores ∧ onward t { i with byp := true, ret := i.lastRec }))

/-- R158, Table 8-5: a WANT at its rendezvous is answered DATA where the directory holds the name, EXPIRED for a tombstone, NEVER
where its iteration is sealed; otherwise it waits, merged or recorded, or is answered RETRY where the table or the list of return
routers is full. -/
def Clause.InterestsAtRendezvous : Prop :=
  ∀ (k : Nat) (s : State) (p : Packet) (i : Interest), s.net[k]? = some p → p.body = .interest i → s.atRendezvous p = true →
    i.type = .want → s.clk < s.clk + i.left - Nat.min 65535 (s.clk - p.born) → p.sig = none →
    let c := s.core p.dest
    let answered (code : DCode) (data : List Byte) : Prop := ∃ t q x, exec (.interestAtRendezvous k) s = .next t
      ∧ t.net = takeOut k s.net ++ [q] ∧ q.body = .train x ∧ x.name = i.name ∧ x.code = code ∧ x.back = true ∧ x.data = data
    (∀ d, c.dirOf p.lid i.name = some d →
      (d.held = true → s.clk < d.expiry → answered .data (Memory.readN s.mem (sramPa p.dest (d.block * 0x1000)) d.len)) ∧
      ((d.held = false ∨ d.expiry ≤ s.clk) → answered .expired [])) ∧
    (c.dirOf p.lid i.name = none →
      (∀ r, c.sealOf p.lid (i.name.toNat / 2 ^ 40) = some r → (r.si - i.name.extractLsb' 0 16).toNat < 0x8000 → answered .never []) ∧
      (c.isSealed p.lid i.name = false →
        (∀ x, c.livePit p.lid i.name s.clk = some x →
          (i.byp = true → 4 ≤ x.rets.length → answered .retry []) ∧
          (i.byp = true → x.rets.length < 4 → ∃ t y, exec (.interestAtRendezvous k) s = .next t ∧ t.net = takeOut k s.net
            ∧ (t.core p.dest).livePit p.lid i.name s.clk = some y ∧ y.rets = x.rets ++ [i.ret] ∧ y.faces = x.faces) ∧
          (i.byp = false → ∃ t y, exec (.interestAtRendezvous k) s = .next t ∧ t.net = takeOut k s.net
            ∧ (t.core p.dest).livePit p.lid i.name s.clk = some y ∧ p.face ∈ y.faces ∧ y.rets = x.rets)) ∧
        (c.livePit p.lid i.name s.clk = none → c.pitCount s.clk < 32 → ∃ t y, exec (.interestAtRendezvous k) s = .next t
          ∧ t.net = takeOut k s.net ∧ (t.core p.dest).livePit p.lid i.name s.clk = some y
          ∧ y.faces = (if i.byp then [] else [p.face]) ∧ y.rets = (if i.byp then [i.ret] else [])) ∧
        (c.livePit p.lid i.name s.clk = none → 32 ≤ c.pitCount s.clk → answered .retry [])))

/-- R160, R164, Table 8-6: an offer at its rendezvous is DUPOFFER for a name held or made a tombstone, SEALED for a sealed iteration,
STORED where it has a store lifetime and a block is free or holds the least recently used cached tile, its bytes in the block and its
expiry set, DELIVERED with a tombstone where it served an interest, and REFUSED, counted, otherwise; the offerer is answered by address.
That no copy of the offer, cached or on its way, waits for its fate any longer is how the model keeps R147 (log 66). -/
def Clause.OffersAtRendezvous : Prop :=
  ∀ (k : Nat) (s : State) (p : Packet) (t : Train), s.net[k]? = some p → p.body = .train t → t.back = false → t.source = none →
    s.atRendezvous p = true → s.turnFirst p = true → s.offerFirst p t = true →
    let c := s.core p.dest
    let answered (u : State) (st : Nat) : Prop := exec (.offerAtRendezvous k) s = .next u ∧ sentLast u .core
      (.train { name := t.name, code := .answer st, back := true, atCore := true, core := t.core, ctx := t.ctx, ticket := t.ticket })
    let settled (u : State) : Prop := (∀ e ∈ u.cores, ∀ d ∈ e.2.cache, d.offer ≠ some p.uid)
      ∧ ∀ q ∈ u.net, ∀ x, q.body = .train x → x.offer ≠ some p.uid
    let kept (u : State) : Prop := settled u ∧ u.mem = s.mem ∧ ((∀ e ∈ s.cores, ∀ d ∈ e.2.cache, d.offer ≠ some p.uid) → u.cores = s.cores)
    let stored (u : State) (b : Nat) : Prop := answered u 0 ∧ ∃ d, (u.core p.dest).dirOf p.lid t.name = some d ∧ d.held = true
      ∧ d.expiry = s.clk + t.sleft ∧ d.block = b ∧ d.len = t.data.length
      ∧ u.mem = Memory.writeMasked s.mem (sramPa p.dest (b * 0x1000)) t.data []
      ∧ (u.core p.dest).livePit p.lid t.name s.clk = none ∧ settled u
    let noBlock : Prop := t.sleft = 0 ∨ (s.freeBlock p.dest = none ∧ ∀ d ∈ c.cache, d.expiry ≤ s.clk)
    ((c.dirOf p.lid t.name).isSome = true → ∃ u, answered u 4 ∧ kept u) ∧
    (c.dirOf p.lid t.name = none → c.isSealed p.lid t.name = true → ∃ u, answered u 3 ∧ kept u) ∧
    (c.dirOf p.lid t.name = none → c.isSealed p.lid t.name = false →
      (∀ b, 0 < t.sleft → s.freeBlock p.dest = some b → ∃ u, stored u b) ∧
      (∀ d ∈ c.cache, 0 < t.sleft → s.freeBlock p.dest = none → s.clk < d.expiry →
        (∀ e ∈ c.cache, e ≠ d → s.clk < e.expiry → d.used < e.used) → ∃ u, stored u d.block) ∧
      (noBlock → (c.livePit p.lid t.name s.clk).isSome = true → ∃ u d, answered u 1 ∧ (u.core p.dest).dirOf p.lid t.name = some d
        ∧ d.held = false ∧ u.mem = s.mem ∧ (u.core p.dest).livePit p.lid t.name s.clk = none ∧ settled u) ∧
      (noBlock → c.livePit p.lid t.name s.clk = none → ∃ u, answered u 2 ∧ kept u
        ∧ ((u.hall (hallOf p.dest)).tally p.lid).tr = ((s.hall (hallOf p.dest)).tally p.lid).tr + 1))

/-- R146, R162: a seal of a tensor without a record writes one, a later iteration replaces an earlier one, and any other is IGNORED;
the interests waiting for sealed iterations that are not held leave the table. -/
def Clause.Seals : Prop :=
  ∀ (k : Nat) (s : State) (p : Packet) (i : Interest), s.net[k]? = some p → p.body = .interest i → i.type = .sealI →
    s.atRendezvous p = true → s.turnFirst p = true →
    let c := s.core p.dest
    let tensor := i.name.toNat / 2 ^ 40
    let it : BitVec 16 := i.name.extractLsb' 0 16
    let answered (u : State) (st : Nat) : Prop := exec (.sealAtRendezvous k) s = .next u ∧ sentLast u .core
      (.train { name := i.name, code := .answer st, back := true, atCore := true, core := i.core, ctx := i.ctx, ticket := i.ticket })
    let recorded (u : State) : Prop := ∃ r ∈ (u.core p.dest).seals, r.lid = p.lid ∧ r.tensor.toNat = tensor ∧ r.si = it
    (c.sealOf p.lid tensor = none → ∃ u, answered u 0 ∧ recorded u ∧ ∀ e ∈ c.pit, e.lid = p.lid → e.name.toNat / 2 ^ 40 = tensor →
      s.clk < e.expiry → c.dirOf p.lid e.name = none → (it - e.name.extractLsb' 0 16).toNat < 0x8000 →
      e ∉ (u.core p.dest).pit) ∧
    (∀ o, c.sealOf p.lid tensor = some o → (it - o.si).toNat < 0x8000 → o.si ≠ it → ∃ u, answered u 0 ∧ recorded u) ∧
    (∀ o, c.sealOf p.lid tensor = some o → (0x8000 ≤ (it - o.si).toNat ∨ o.si = it) → ∃ u, answered u 1 ∧ (u.core p.dest).seals = c.seals)

/-- R148, R159, R160, R166, R422: once no earlier store to it is outstanding an offer's payload is read whole at its homes; when all of it
has come its train is injected for the rendezvous that the table gives then, and where a part has failed its register is ENGINE and nothing
is sent; an offer or a returning train that no interest of its name is to precede and that
meets a live entry sends a copy out of each face and frees the entry, the offer going on; a returning train without an entry is dropped, and
a bypass answer at its return router passes to the router's own core. -/
def Clause.TrainsAtRouters : Prop :=
  ∀ (k : Nat) (s : State) (p : Packet) (t : Train), s.net[k]? = some p → p.body = .train t → p.ready ≤ s.clk → p.sig = none →
    (∀ lid j, (s.core p.pos).role ≠ .host lid .routing j) →
    let copies (u : State) (e : Pit) : Prop := (u.core p.pos).livePit p.lid t.name s.clk = none ∧
      ∀ f ∈ e.faces, ∃ q ∈ u.net, ∃ x, q.body = .train x ∧ x.name = t.name ∧ x.code = t.code ∧ x.data = t.data ∧ x.back = true
        ∧ q.dest = (if f = 5 then p.pos else stepFrom p.pos f) ∧ x.atCore = (f == 5)
    (t.back = false →
      (∀ va n b ts, t.source = some (va, n, b) → t.join = none → (s.core p.src).dirtyUnder ts = false →
        s.hartTargets p.src p.lid (walkOffer p.uid) false (sectorPieces va 0 n 66) = .ok ts →
        ((s.core p.src).payloadHeld p.born b ts = true → ∃ u, exec (.offerTrainAtRouter k) s = .next u ∧ u.net = s.net ∧ u.mem = s.mem) ∧
        ((s.core p.src).payloadHeld p.born b ts = false → (s.core p.src).join? (s.core p.src).nextId = none →
          ∃ u q x j i, exec (.offerTrainAtRouter k) s = .next u ∧ u.mem = s.mem ∧ u.net[k]? = some q ∧ q.body = .train x ∧ x.source = t.source
            ∧ x.join = some j ∧ (u.core p.src).join? j = some i ∧ i.left = (ts.filter (fun g => !g.2.own)).length)) ∧
      (∀ va n b j i, t.source = some (va, n, b) → t.join = some j → (s.core p.src).join? j = some i → i.left = 0 →
        (i.failed = true → ∃ u, exec (.offerTrainAtRouter k) s = .next u ∧ u.net = takeOut k s.net ∧ ∀ tk x r, t.ticket = some tk →
          (s.core p.src).ticketLoc tk = some (.gpr p.src x r) → ((s.core p.src).ctx x).reg r = Reg.pending tk →
          findAt r ((s.core p.src).ctx x).streams = none → ((u.core p.src).ctx x).reg r = Reg.poison pzEngine) ∧
        (i.failed = false → (s.core p.src).holds = [] →
          ∃ u q x, exec (.offerTrainAtRouter k) s = .next u ∧ u.net = takeOut k s.net ++ [q] ∧ q.body = .train x ∧ x.source = none
            ∧ x.name = t.name ∧ x.sleft = t.sleft ∧ x.data = (List.range n).map (bufByte i.buf)
            ∧ q.target = some ((s.launch p.lid).rendezvous (t.name.toNat / 2 ^ 40)) ∧ q.ready = s.clk + s.delay p.src 4)) ∧
      (t.source = none → p.pos ≠ p.dest → p.seen = false → s.interestDue p.pos p.lid t.name = false → ∃ u q, exec (.offerTrainAtRouter k) s = .next u ∧ u.net[k]? = some q ∧ q.body = .train t
        ∧ ∀ e, (s.core p.pos).livePit p.lid t.name s.clk = some e → copies u e)) ∧
    (t.back = true → t.atCore = false → p.pos = p.dest → s.interestDue p.pos p.lid t.name = false →
      (∀ e, (s.core p.pos).livePit p.lid t.name s.clk = some e → ∃ u, exec (.dataTrainAtRouter k) s = .next u ∧ copies u e) ∧
      ((s.core p.pos).livePit p.lid t.name s.clk = none →
        (t.byp = false → exec (.dataTrainAtRouter k) s = .next (s.dropPacket k)) ∧
        (t.byp = true → t.ret = p.pos → ∃ u q x, exec (.dataTrainAtRouter k) s = .next u ∧ u.net = takeOut k s.net ++ [q] ∧ q.dest = p.pos
          ∧ q.body = .train x ∧ x.atCore = true ∧ x.code = t.code ∧ x.data = t.data)))

/-- R157, R159, Table 8-7: DATA that reaches a waiter in time fills its buffer and its register with name and length, a longer one
than the buffer gives BOUNDS; NEVER, EXPIRED and a passed expiry poison; RETRY asks again 1,024 clk later with the lifetime left, or
poisons EXPIRED where less remains; an offerer or sealer takes its status, DUPOFFER as a poison. -/
def Clause.NamedAnswers : Prop :=
  (∀ (k : Nat) (s : State) (p : Packet) (t : Train) (w : Want) (x n : Nat), s.landed k = some p → p.body = .train t → t.atCore = true →
    let c := s.core p.dest
    c.wants = [w] → w.name = t.name → c.ticketLoc w.ticket = some (.gpr p.dest x n) → (c.ctx x).reg n = Reg.pending w.ticket →
    findAt n (c.ctx x).streams = none →
    let gives (g : Reg) (m : List Host.Cell) : Prop := ∃ u, exec (.namedAnswerAtConsumer k) s = .next u ∧ (u.core p.dest).wants = []
      ∧ ((u.core p.dest).ctx x).reg n = g ∧ u.mem = m
    let off := capCursor w.cap % 2 ^ 24
    let room := capTop w.cap - capCursor w.cap
    let bs := t.data.take room
    let written (bs : List Byte) := Memory.writeMasked s.mem (sramPa p.dest off) bs []
    (w.expiry ≤ s.clk → (∀ st, t.code ≠ .answer st) → gives (Reg.poison pzExpired) s.mem) ∧
    (s.clk < w.expiry →
      (t.code = .never → gives (Reg.poison pzNever) s.mem) ∧ (t.code = .expired → gives (Reg.poison pzExpired) s.mem) ∧
      (t.code = .data → (bs = [] ∨ c.sramOk off = true ∧ c.sramOk (off + bs.length - 1) = true) →
        (t.data.length ≤ room → gives (Reg.full ⟨w.name ++ BitVec.ofNat 64 t.data.length, false⟩) (written t.data)) ∧
        (room < t.data.length → gives (Reg.poison pzBounds) (written bs))) ∧
      (t.code = .retry → w.expiry < s.clk + 1024 → gives (Reg.poison pzExpired) s.mem) ∧
      (t.code = .retry → s.clk + 1024 ≤ w.expiry → ∃ u, exec (.namedAnswerAtConsumer k) s = .next u
        ∧ (u.core p.dest).wants = [{ w with retryAt := some (s.clk + 1024) }]))) ∧
  (∀ (k st x n : Nat) (s : State) (p : Packet) (t : Train) (tk : BitVec 16), s.landed k = some p → p.body = .train t →
    t.code = .answer st → t.ticket = some tk → (s.core p.dest).ticketLoc tk = some (.gpr p.dest x n) →
    ((s.core p.dest).ctx x).reg n = Reg.pending tk → findAt n ((s.core p.dest).ctx x).streams = none →
    ∃ u, exec (.namedAnswerToProducer k) s = .next u ∧ ((u.core p.dest).ctx x).reg n =
      if st = 4 then Reg.poison pzDupOffer else Reg.full ⟨t.name ++ BitVec.ofNat 64 st, false⟩) ∧
  (∀ (core t lid l : Nat) (s : State) (w : Want), (s.core core).wants = [w] → w.retryAt = some t → t ≤ s.clk → s.clk < w.expiry →
    (s.core core).role = .host lid .compute l → (s.launch lid).phase ≠ .quiescing → (s.core core).holds = [] →
    ∃ u q i, exec (.interestRetry core 0) s = .next u ∧ (u.core core).wants = [{ w with retryAt := none }] ∧ u.net = s.net ++ [q]
      ∧ q.body = .interest i ∧ i.type = .want ∧ i.name = w.name ∧ i.left = w.expiry - s.clk)

/-- R154, R157, R161, R164: at its clk a waiter is poisoned EXPIRED and leaves the list, a table entry goes, a stored tile becomes a
tombstone, and a cached tile is dropped; before it nothing happens. -/
def Clause.NamedExpiries : Prop :=
  ∀ (core k : Nat) (s : State),
    (∀ w, (s.core core).wants[k]? = some w → (s.clk < w.expiry → exec (.wantExpiry core k) s = .next s) ∧
      (w.expiry ≤ s.clk → ∃ t, exec (.wantExpiry core k) s = .next t ∧ (t.core core).wants = (s.core core).wants.erase w ∧
        ∀ x n, (s.core core).ticketLoc w.ticket = some (.gpr core x n) → ((s.core core).ctx x).reg n = Reg.pending w.ticket →
          findAt n ((s.core core).ctx x).streams = none → ((t.core core).ctx x).reg n = Reg.poison pzExpired)) ∧
    (∀ e, (s.core core).pit[k]? = some e → (s.clk < e.expiry → exec (.pitEntryExpiry core k) s = .next s) ∧
      (e.expiry ≤ s.clk → ∃ t, exec (.pitEntryExpiry core k) s = .next t ∧ (t.core core).pit = (s.core core).pit.erase e)) ∧
    (∀ d, (s.core core).dir[k]? = some d → (s.clk < d.expiry → exec (.storedTileExpiry core k) s = .next s) ∧
      (d.expiry ≤ s.clk → d.held = true → ∃ t e, exec (.storedTileExpiry core k) s = .next t ∧ (t.core core).dir[k]? = some e
        ∧ e.name = d.name ∧ e.held = false)) ∧
    (∀ d, (s.core core).cache[k]? = some d → (s.clk < d.expiry → exec (.cachedTileExpiry core k) s = .next s) ∧
      (d.expiry ≤ s.clk → ∃ t, exec (.cachedTileExpiry core k) s = .next t ∧ (t.core core).cache = (s.core core).cache.eraseIdx k))

/-- R429–R434: send, sendc and sendr to a tile of the launch put one message into the network, with the kind, virtual network, fields
and entries of Table 20-5, 4 clk from the first router, and go on; L at or above C with DEV 0 is COMMAND 8, DEV of 33 and above COMMAND 10, as is
any DEV but 0 of sendr; a taken slot parks, and one is taken while the message ahead waits for room at the router's local port; .cap
alone keeps tags. A sendr goes by its route's waypoints. -/
def Clause.Sends : Prop :=
  ∀ (hi cap : Bool) (sc : Scope) (n rt : BitVec 4) (ch : BitVec 3) (a : Args) (s : State) (t : TagVal) (es : List TagVal),
    s.header a.s1 a.s2 n.toNat = .ok (t, es) →
    let w : W64 := t.v.setWidth 64
    let l := (w.extractLsb' 0 20).toNat
    let dev := (w.extractLsb' 20 6).toNat
    let vn : VN := if hi then .hi else .req
    let send := Instr.send hi false sc n cap a
    let sendc := Instr.sendc false sc n ch a
    let sendr := Instr.sendr false sc n ch rt a
    let traps (i : Instr) (d : Nat) : Prop := exec i s = .next (s.trapAt s.cur.core s.cur.ctx clsCommand 0 (BitVec.ofNat 64 d))
    let here := (s.hostSeen s.cur.core s.lid .compute l).getD s.cur.core
    let route : BitVec 66 := getAt 0 rt.toNat s.cc.routes
    let plain (keep : Bool) := es.map (fun e => ({ v := e.v, tag := keep && e.tag } : TagVal))
    let sent (i : Instr) (v : VN) (p : Packet → Prop) : Prop :=
      (s.slotTaken v = true → exec i s = .next (s.parkCur (.inject (vnIndex v)))) ∧
      (s.slotTaken v = false → getAt 0 (vnIndex v + 8) s.cc.slots ≤ s.clk + s.delay s.cur.core 4 →
        ∃ u q, exec i s = .next u ∧ u.net = s.net ++ [q] ∧ u.mem = s.mem ∧ q.vn = v ∧ q.lid = s.lid ∧ q.src = s.cur.core
          ∧ q.pos = s.cur.core ∧ q.ready = s.clk + s.delay s.cur.core 4 ∧ q.sig = none ∧ q.body = .message ∧ p q)
    (dev = 0 → s.curC ≤ l → traps send 8 ∧ traps sendc 8 ∧ traps sendr 8) ∧
    (33 ≤ dev → traps send 10 ∧ traps sendc 10) ∧ (dev ≠ 0 → traps sendr 10) ∧
    (dev = 0 → l < s.curC → s.fenceHolds = none → s.cc.holds = [] →
      sent send vn (fun q => q.kind = 2 ∧ q.dest = here ∧ q.final = here ∧ q.handler = w.extractLsb' 32 12 ∧ q.stage = w.extractLsb' 44 8
        ∧ q.hiPrio = hi ∧ q.stat = false ∧ q.entries = plain cap) ∧
      sent sendc .req (fun q => q.kind = 3 ∧ q.dest = here ∧ q.final = here ∧ q.ch = ch.toNat ∧ q.stat = false ∧ q.entries = plain false) ∧
      sent sendr .req (fun q => q.kind = 3 ∧ q.final = here ∧ q.ch = ch.toNat ∧ q.stat = true ∧ q.route = rt.toNat
        ∧ q.entries = plain false ∧ q.wps = (s.routePlaces route).map (fun w => w.1) ∧ q.wpTargets = (s.routePlaces route).map (fun w => w.2)
        ∧ q.dest = ((s.routePlaces route).map (fun w => w.1)).headD here))

/-- R35, R432, R433: a send to a peer port that is up goes to the port with the peer's launch and tile; one to a port that is down
raises PEER with the port's number and the sender goes on. -/
def Clause.PeerSends : Prop :=
  ∀ (sc : Scope) (n : BitVec 4) (ch : BitVec 3) (a : Args) (s : State) (t : TagVal) (es : List TagVal),
    s.header a.s1 a.s2 n.toNat = .ok (t, es) →
    let w : W64 := t.v.setWidth 64
    let dev := (w.extractLsb' 20 6).toNat
    1 ≤ dev → dev ≤ 32 → ∀ i ∈ [Instr.send false false sc n false a, Instr.sendc false sc n ch a],
    (s.peerUp (dev - 1) = false → ∃ u, exec i s = .next u ∧ u.net = s.net ∧ u.launches =
      (s.faultAsync s.lid clsPeer s.tileL s.cur.core (BitVec.ofNat 64 (dev - 1))).launches) ∧
    (s.peerUp (dev - 1) = true → s.fenceHolds = none → s.slotTaken .req = false →
      ∃ u q, exec i s = .next u ∧ u.net = s.net ++ [q] ∧ q.port = .peer (dev - 1) ∧ q.peerLid = (w.extractLsb' 26 6).toNat
        ∧ q.peerL = (w.extractLsb' 0 20).toNat)

/-- R224, R228, R432: a send with .rel goes on once its release has been performed; the release's signature, if it is not empty, goes directly
ahead of the message as a message of KIND 7 on the same network to the same tile, and nothing else goes ahead. -/
def Clause.ReleasingSends : Prop :=
  ∀ (sc : Scope) (n : BitVec 4) (ch : BitVec 3) (a : Args) (s w : State) (t : TagVal) (es : List TagVal),
    s.header a.s1 a.s2 n.toNat = .ok (t, es) → t.v.extractLsb' 20 6 = 0 → (t.v.extractLsb' 0 20).toNat < s.curC → s.fenceHolds = none →
    s.cc.holds = [] → s.slotTaken .req = false → s.release sc = .ok w →
    ∀ i ∈ [Instr.send false true sc n false a, Instr.sendc true sc n ch a],
      ∃ u q, exec i s = .next u ∧ q.body = .message ∧
        ((sc = .core ∨ s.cc.acc = 0) → u.net = s.net ++ [q]) ∧
        (sc ≠ .core → s.cc.acc ≠ 0 → ∃ m, u.net = s.net ++ [m, q] ∧ m.kind = 7 ∧ m.body = .sigMark s.cc.acc ∧ m.vn = q.vn ∧ m.dest = q.dest
          ∧ m.ready < q.ready)

/-- R437–R439, R442: chcfg stores a route whose waypoints lie in the grant and gives its old value, else COMMAND 11 with the route as it
was; chcfg.name, lease, role and sysc make d PENDING with a ticket of class 0x6 and send their request. That it waits for the injection slot of
its virtual network is the model's reading of R431 (assumption log 38), and that chcfg.name and sysc send it on HI, as R439 says of lease and role,
the model's choice (assumption log 24). -/
def Clause.Requests : Prop :=
  ∀ (e : BitVec 4) (svc : BitVec 12) (a : Args) (s u : State) (v : TagVal),
    let bad (k : Nat) : Prop := let w := wpField (v.v.extractLsb' 0 66) k
      w.1 = 3 ∨ (w.1 = 1 ∧ s.curC ≤ w.2) ∨ (w.1 = 2 ∧ (s.launch s.lid).record.nroute.toNat ≤ w.2)
    let old : BitVec 66 := getAt 0 e.toNat s.cc.routes
    let kind : Kind := if v.v.extractLsb' 20 2 = 1 then .pool else if v.v.extractLsb' 20 2 = 2 then .routing else .compute
    let ix := (v.v.extractLsb' 0 20).toNat
    let asks (i : Instr) (port : Port) (b : BitVec 16 → Body) : Prop := ∃ t q tk, exec i s = .next t ∧ t.net = s.net ++ [q] ∧ t.mem = s.mem
      ∧ q.vn = .hi ∧ q.port = port ∧ q.body = b tk ∧ tk.extractLsb' 12 4 = 6
      ∧ (a.d.toNat < 32 → s.curStream? a.d.toNat = none → t.regAt s.cur.core s.cur.ctx a.d.toNat = Reg.pending tk)
    (s.operand1 .b a.s1 [.dst a.d] = .ok (v, u) →
      ((∃ k < 3, bad k ∧ ∀ j ≤ k, (wpField (v.v.extractLsb' 0 66) j).1 ≠ 0) →
        exec (.chcfg e a) s = .next (s.trapAt s.cur.core s.cur.ctx clsCommand 0 11)) ∧
      ((∀ k < 3, ¬bad k) → ∃ t, exec (.chcfg e a) s = .next t ∧ getAt 0 e.toNat t.cc.routes = routeStored (v.v.extractLsb' 0 66)
        ∧ t.net = s.net ∧ (a.d.toNat < 32 → s.curStream? a.d.toNat = none →
            t.regAt s.cur.core s.cur.ctx a.d.toNat = Reg.full ⟨old.setWidth 128, false⟩)) ∧
      (s.slotTaken .hi = true → ∀ i ∈ [Instr.chcfgName e a, Instr.lease a, Instr.role a], exec i s = .next (s.parkCur (.inject (vnIndex .hi)))) ∧
      (s.slotTaken .hi = false → s.cc.ticketsFull = false →
        asks (.chcfgName e a) (.hall (s.lowestHall s.lid)) (fun k => .nameReq e.toNat v.v s.cur.core s.cur.ctx s.tileL (some k)) ∧
        asks (.lease a) (.hall (s.targetHall kind ix))
          (fun k => .leaseReq kind ix (v.v.extractLsb' 32 29).toNat s.tileL s.cur.core s.cur.ctx (some k)) ∧
        asks (.role a) (.hall (s.targetHall kind ix)) (fun k => .roleReq kind ix s.cur.core s.cur.ctx (some k)))) ∧
    (s.operand1 .x a.s1 [.dst a.d] = .ok (v, u) → s.slotTaken .hi = false → s.cc.ticketsFull = false →
      asks (.sysc svc a) .mgmt (fun k => .service svc.toNat (v.v.setWidth 64) s.cur.core s.cur.ctx (some k)))

/-- R440, R441: trap raises USER with its code and its source; idle goes on where the low queue, an enabled channel or the latch is not
empty, else it parks with its limit. -/
def Clause.TrapAndIdle : Prop :=
  ∀ (code : BitVec 8) (a : Args) (s u : State) (v : TagVal), s.operand1 .x a.s1 [] = .ok (v, u) →
    exec (.trap code a) s = .next (s.trapAt s.cur.core s.cur.ctx clsUser code (v.v.setWidth 64)) ∧
    ((s.cc.lowQ ≠ [] ∨ (∃ h ∈ s.cc.chans, h.2.en = true ∧ h.2.count ≠ 0) ∨ s.cx.latch = true) → exec (.idle a) s = .next u.advance) ∧
    (s.cc.lowQ = [] → (∀ h ∈ s.cc.chans, h.2.en = true → h.2.count = 0) → s.cx.latch = false →
      exec (.idle a) s = .next (s.parkCur (.idle (s.parkLimit v.v) a.s1)))

/-- R443–R445: ctxsv writes each register's value, tag, state and code into the image, a PENDING one as CANCELLED, and draining waits until none is
PENDING; a POISONED c does not trap POISON_USE but reads zero and untagged, which is CAPABILITY; ctxld gives each register what Table 20-9 and R445
make of the image; both hold the context 40 clk. That the register is CANCELLED from then on is the model's choice (assumption log 37). -/
def Clause.ContextImages : Prop :=
  ∀ (a : Args) (s : State) (c : TagVal), s.cur.core < 2 ^ 19 →
    let pa := sramPa s.cur.core (capCursor c.v % 2 ^ 24)
    let held (t : State) : Prop := t.cx.park = some (.untilClk (s.clk + s.delay s.cur.core 40))
    (s.meetMask (srcMeet a.s1) = .ok () → (s.takeSrc .b a.s1).1 = c → s.checkImage c true = .ok () → s.noShadows = .ok () →
      let saves (i : Instr) : Prop := ∃ t, exec i s = .next t ∧ held t ∧ ∀ n < 32,
        let r := s.cx.reg n
        let m := if r.state = .pending then Reg.poison pzCancelled else r
        Memory.readN t.mem (pa + 16 * n) 16 = natBytes 16 m.read.v.toNat ∧ t.tagOf (pa + 16 * n) = (m.read.tag && capC c.v)
          ∧ t.cx.reg n = m
          ∧ bytesNat (Memory.readN t.mem (pa + 0x200 + 4 * n) 4) = (if m.tag then 1024 else 0)
            + (match m.state with | .full => 0 | .pending => 256 | .poisoned => 512) + (if m.state = .poisoned then m.code.toNat else 0)
      saves (.ctxsv true a) ∧
      ((∀ n < 32, (s.cx.reg n).state ≠ .pending) → saves (.ctxsv false a)) ∧
      ((∃ n < 32, (s.cx.reg n).state = .pending) → exec (.ctxsv false a) s = .next (s.parkCur (.allDone (BitVec.allOnes 32))))) ∧
    (∀ k, a.s1 = .reg k → k.toNat < 32 → s.inShadow k = false → s.curStream? k.toNat = none → (s.regAt s.cur.core s.cur.ctx k.toNat).state = .poisoned →
      ∀ f, exec (.ctxsv f a) s = .next (s.trapAt s.cur.core s.cur.ctx clsCapability 0 0)) ∧
    let ds := (List.range 32).map (fun n => Meet.dst (BitVec.ofNat 6 n))
    (∀ u, s.operand1 .b a.s1 [] = .ok (c, u) → s.checkImage c false = .ok () → checkAll (s.meetState ds) ds = .ok () →
      ∃ t, exec (.ctxld a) s = .next t ∧ held t ∧ t.mem = s.mem ∧ ∀ n < 32,
        let m := bytesNat (Memory.readN s.mem (pa + 0x200 + 4 * n) 4)
        let v := BitVec.ofNat 128 (bytesNat (Memory.readN s.mem (pa + 16 * n) 16))
        (m / 256 % 4 = 0 → t.cx.reg n = Reg.full ⟨v, (m / 1024 % 2 == 1) && s.tagOf (pa + 16 * n) && capC c.v⟩) ∧
        (m / 256 % 4 = 2 → 1 ≤ m % 256 → m % 256 ≤ 10 → t.cx.reg n = Reg.poison (BitVec.ofNat 8 m)) ∧
        (m / 256 % 4 ≠ 0 → (m / 256 % 4 ≠ 2 ∨ m % 256 = 0 ∨ 10 < m % 256) → t.cx.reg n = Reg.poison pzCancelled))

/-- R446–R448: in a hall controller, tlbi drops exactly the entries of its span from every core and walker of its hall; rolew writes the map entry
and waits until every core of the launch has applied it; pwrc gives the register's old value and writes it, ALARM by ones, HALVED not at all. Outside
one the scanner refuses the three words (R305); that they raise CODE_SCAN should one be executed there (assumption log 56), and that rolew adds 1 to
the map's generation (assumption log 33), are the model's choices. -/
def Clause.PrivilegedControls : Prop :=
  ∀ (sp : Span) (droop : Bool) (a : Args) (s : State),
    (s.isHallCtl s.cur.core = false → ∀ i ∈ [Instr.tlbi sp a, Instr.rolew a, Instr.pwrc droop a],
      ∃ d, exec i s = .next (s.trapAt s.cur.core s.cur.ctx clsCodeScan 0 d)) ∧
    (s.isHallCtl s.cur.core = true →
      (∀ v u, s.operand1 .b a.s1 [] = .ok (v, u) → ∃ t, exec (.tlbi sp a) s = .next t ∧ t.mem = s.mem ∧ ∀ k e,
        let lid := (v.v.extractLsb' 48 6).toNat
        let hit : Prop := match sp with
          | .page => e.maps lid ((v.v.extractLsb' 16 32).toNat * 2 ^ 16) = true
          | .launch => e.lid = lid
          | .hall => True
        (hallOf k = hallOf s.cur.core → (e ∈ (t.core k).tlb ↔ e ∈ (s.core k).tlb ∧ ¬hit)) ∧
        (hallOf k ≠ hallOf s.cur.core → (t.core k).tlb = (s.core k).tlb) ∧
        ∀ n w, w ∈ getAt [] n (t.hall (hallOf s.cur.core)).walkers ↔ w ∈ getAt [] n (s.hall (hallOf s.cur.core)).walkers ∧
          ¬(match sp with
            | .page => w.lid = lid ∧ w.top = (v.v.extractLsb' 16 32).toNat * 2 ^ 16 / 2 ^ w.shift
            | .launch => w.lid = lid
            | .hall => True)) ∧
      (∀ v w u l, s.operands2 .b a.s1 a.s2 [] = .ok (v, w, u) →
        let lid := (v.v.extractLsb' 22 6).toNat
        let j := (v.v.extractLsb' 0 20).toNat
        s.launch? lid = some l → v.v.extractLsb' 20 2 = 2 → j < l.routing.length →
        ∃ t, exec (.rolew a) s = .next t ∧ t.cx.park = some (.remap lid (l.generation + 1)) ∧ (t.launch lid).generation = l.generation + 1
          ∧ (t.launch lid).hostOf .routing j = (if w.v.getLsbD 19 then none else some (w.v.extractLsb' 0 19).toNat)) ∧
      (∀ v u, s.operand1 .b a.s1 [.dst a.d] = .ok (v, u) → ∃ t, exec (.pwrc droop a) s = .next t ∧
        (a.d.toNat < 32 → s.curStream? a.d.toNat = none → t.regAt s.cur.core s.cur.ctx a.d.toNat =
          Reg.full ⟨(if droop then s.droopWord else s.stepWord).setWidth 128, false⟩) ∧
        t.stepA = (if droop then s.stepA else v.v.extractLsb' 0 16) ∧
        t.alarm = (if droop then s.alarm &&& ~~~(v.v.extractLsb' 16 16) else s.alarm) ∧ t.groups = s.groups))

/-- R82–R84, Table 5-4: a lease request is recorded at its target's controller: GRANTED until its clk plus the duration, 2^28 at most,
with the requester as lessee, FULL for a 33rd, BADTARGET for a routing index or one outside the grant, RELEASED or NOTHELD for a
duration of 0; its answer carries the word. -/
def Clause.Leases : Prop :=
  ∀ (k h : Nat) (s t : State) (p : Packet) (kd : Kind) (i dur l core ctx : Nat) (tk : Option (BitVec 16)),
    s.landedAtHall k = some (h, p, t) → p.body = .leaseReq kd i dur l core ctx tk →
    let at_ := s.leaseHall p.lid kd i h
    let es := (s.hall at_).leases
    let mine (e : Lease) : Prop := e.lid = p.lid ∧ e.kind = kd ∧ e.idx = i
    let answered (u : State) (status d : Nat) : Prop := exec (.leaseRecord k) s = .next u ∧ ∃ q r, u.net.getLast? = some q ∧ q.dest = core
      ∧ q.body = .response r ∧ r.ticket = tk ∧ r.fill = ⟨(BitVec.ofNat 64 (status * 2 ^ 60 + d)).setWidth 128, false⟩
    let ok : Prop := (kd = .compute ∧ i < (s.launch p.lid).compute.length) ∨ (kd = .pool ∧ i < (s.launch p.lid).pool.length)
    (¬ok → ∃ u, answered u 3 0 ∧ u.halls = s.halls ∧ u.recasts = s.recasts) ∧
    (ok → dur = 0 → (∀ e ∈ es, mine e → e.expiry ≤ s.clk) → ∃ u, answered u 4 0 ∧ u.halls = s.halls) ∧
    (ok → dur = 0 → (∃ e ∈ es, mine e ∧ s.clk < e.expiry) → (s.hall at_).deferred = none →
      ∃ u, answered u 1 0 ∧ ∀ e ∈ (u.hall at_).leases, ¬mine e) ∧
    (ok → 0 < dur → (∀ e ∈ es, mine e → e.expiry ≤ s.clk) → 32 ≤ (es.filter (fun e => s.clk < e.expiry)).length →
      ∃ u, answered u 2 0 ∧ u.halls = s.halls) ∧
    (ok → 0 < dur → ((∃ e ∈ es, mine e ∧ s.clk < e.expiry) ∨ (es.filter (fun e => s.clk < e.expiry)).length < 32) →
      ∃ u, answered u 0 (Nat.min dur (2 ^ 28)) ∧ (u.hall at_).leases.getLast? =
          some { lid := p.lid, kind := kd, idx := i, expiry := s.clk + Nat.min dur (2 ^ 28), lessee := l } ∧
        (∀ r ∈ s.recasts, r.dec.lid = p.lid → r.dec.old = some (kd, i) → r.phase = .grace → s.clk < r.due → r.pair = false →
          (∀ q ∈ s.recasts, q.dec.lid = p.lid → q.dec.old = some (kd, i) → q = r) → r ∉ u.recasts))

/-- R81–R86, R91, R149, R439: a lease past its E leaves its controller; a notice enters its tile's high-priority queue while that has
room; a role query is answered with the word of Table 5-3; a name-route request is answered OK and its entry written when the entry is
empty and its target in the grant, USED or BADTARGET otherwise. That a routing index whose re-cast has been decided is refused is the
model's choice (assumption log 67). -/
def Clause.HallAnswers : Prop :=
  (∀ (hall k : Nat) (s : State) (e : Lease), (s.hall hall).leases[k]? = some e →
    (s.clk < e.expiry → exec (.leaseExpiry hall k) s = .next s) ∧
    (e.expiry ≤ s.clk → (s.hall hall).deferred = none → ∃ t, exec (.leaseExpiry hall k) s = .next t
      ∧ (t.hall hall).leases = (s.hall hall).leases.eraseIdx k)) ∧
  (∀ (k lid l : Nat) (s t : State) (p : Packet) (w : W64), s.accept k = some (p, t) → p.body = .notice w → p.port = .core →
    (s.core p.dest).role = .host lid .compute l → s.holdsItems p.dest = false →
    ((s.core p.dest).highQ.length < 8 → ∃ u, exec (.noticeAccept k) s = .next u
      ∧ (u.core p.dest).highQ = (s.core p.dest).highQ ++ [{ notice := some w }]) ∧
    (8 ≤ (s.core p.dest).highQ.length → exec (.noticeAccept k) s = .next s)) ∧
  (∀ (k h i core ctx : Nat) (s t : State) (p : Packet) (kd : Kind) (tk : Option (BitVec 16)), s.landedAtHall k = some (h, p, t) →
    p.body = .roleReq kd i core ctx tk → ∃ u q r, exec (.roleQuery k) s = .next u ∧ u.net = t.net ++ [q] ∧ q.dest = core
      ∧ q.body = .response r ∧ r.ticket = tk ∧ r.fill = ⟨(s.roleWord p.lid kd i).setWidth 128, false⟩) ∧
  (∀ (lid i : Nat) (s : State),
    let l := s.launch lid
    (l.compute.length ≤ i → s.roleWord lid .compute i = 0) ∧ (l.record.nroute.toNat ≤ i → s.roleWord lid .routing i = 0) ∧
    (∀ q, l.compute[i]? = some q → q < 2 ^ 19 → (∀ e, s.leaseOf lid .compute i = some e → e.expiry ≤ s.clk + 2 ^ 28) →
      (s.roleWord lid .compute i).extractLsb' 62 2 = 1 ∧ ((s.roleWord lid .compute i).extractLsb' 32 19).toNat = q
      ∧ (s.roleWord lid .compute i).getLsbD 61 = (s.leaseOf lid .compute i).isSome) ∧
    (i < l.record.nroute.toNat → l.hostOf .routing i = none →
      (s.roleWord lid .routing i).extractLsb' 62 2 = 3 ∧ (s.roleWord lid .routing i).getLsbD 58 = true
      ∧ (s.roleWord lid .routing i).extractLsb' 32 19 = 0
      ∧ ((∃ r ∈ s.recasts, r.dec.lid = lid ∧ r.dec.new = some (.routing, i) ∧ r.phase = .grace ∧ s.clk < r.due) →
        (s.roleWord lid .routing i).getLsbD 60 = true ∧ (s.roleWord lid .routing i).getLsbD 59 = false))) ∧
  (∀ (k h e core ctx m : Nat) (s t : State) (p : Packet) (v : W128) (tk : Option (BitVec 16)) (l : Launch),
    s.landedAtHall k = some (h, p, t) → p.body = .nameReq e v core ctx m tk → s.requestFirst p m = false → s.launch? p.lid = some l →
    let kind := v.extractLsb' 78 2
    let i := (v.extractLsb' 0 20).toNat
    let fits : Prop := (kind = 1 ∧ i < l.pool.length) ∨ (kind = 2 ∧ (l.hostOf .routing i).isSome = true
      ∧ ∀ r ∈ s.recasts, r.dec.lid = p.lid → r.dec.old ≠ some (.routing, i))
    let used : Prop := (getAt 0 e l.names).extractLsb' 78 2 ≠ 0
    let answered (u : State) (status : Nat) : Prop := exec (.nameRouteDecide k) s = .next u ∧ ∃ q r, u.net.getLast? = some q ∧ q.dest = core
      ∧ q.body = .response r ∧ r.ticket = tk ∧ r.fill = val64 status
    (used → ∃ u, answered u 1 ∧ u.launches = s.launches) ∧
    (¬used → ¬fits → ∃ u, answered u 2 ∧ u.launches = s.launches) ∧
    (¬used → fits → ∃ u, answered u 0 ∧
      let w := getAt 0 e (u.launch p.lid).names
      w.extractLsb' 78 50 = v.extractLsb' 78 50 ∧ w.extractLsb' 0 20 = v.extractLsb' 0 20 ∧ w.extractLsb' 20 53 = 0
        ∧ (w.extractLsb' 73 5).toNat = Nat.min 23 (v.extractLsb' 73 5).toNat))

/-- R88, R89, R98, R99, Table 5-8: an epoch that has not ended changes nothing; at its end a hall decides at most one re-cast, the growth of
row 1 before rows 2 and 3, and clears its measures; a decided re-cast starts its grace of 65,536 clk; growth is decided only while the
pool is at least three quarters written and below its ceiling, in a hall with RO under 25 % and no refusal. Epochs go on in a frozen launch
(R273). RO is taken of the hall's 512 routers of seven ports of ten buffers of 8 flits over 65,536 clk: that denominator is the model's reading
(assumption log 31). In a hall at or above 100 °C for two epochs a thermal request moves the compute tile or pool slot of its hottest core,
which a free value picks, to the nearest idle core in a hall below 85 °C with CAUSE 3, in place of rows 1 to 3; where a lease holds it, it is
deferred and nothing moves (R99). -/
def Clause.CensusDecisions : Prop :=
  ∀ (hall lid : Nat) (s : State) (l : Launch), s.launch? lid = some l →
    let n := (s.clk - l.startClk) / 65536
    let m := (s.hall hall).tally lid
    let ro := m.occ * 100 / (512 * 7 * 80 * 65536)
    let quiet := if ro < 10 ∧ m.tr = 0 then m.quiet + 1 else 0
    (n ≤ getAt 0 hall l.epochs → exec (.censusEpoch hall lid) s = .next s) ∧
    (getAt 0 hall l.epochs < n → (l.fault = none ∨ l.frozen = true) → l.phase = .running → s.leaseWaits hall = false →
      (s.hall hall).hotSince = none →
      let decides (d : Decision) : Prop := ∃ t r, exec (.censusEpoch hall lid) s = .next t ∧ t.recasts = s.recasts ++ [r] ∧ r.dec = d
        ∧ r.phase = .grace ∧ r.due = s.clk + 65536 ∧ getAt 0 hall (t.launch lid).epochs = n ∧ (t.hall hall).tally lid = {}
      (∀ d, s.growth lid hall n = some d → decides d) ∧
      (∀ d, s.growth lid hall n = none → s.pressure lid hall = some d → decides d) ∧
      (∀ d, s.growth lid hall n = none → s.pressure lid hall = none → s.surplus lid hall quiet = some d → decides d) ∧
      (s.growth lid hall n = none → s.pressure lid hall = none → s.surplus lid hall quiet = none →
        ∃ t, exec (.censusEpoch hall lid) s = .next t ∧ t.recasts = s.recasts ∧ t.net = s.net
          ∧ getAt 0 hall (t.launch lid).epochs = n ∧ (t.hall hall).tally lid = { quiet := quiet })) ∧
    (∀ c d, getAt 0 hall l.epochs < n → (l.fault = none ∨ l.frozen = true) → l.phase = .running → s.leaseWaits hall = false →
      (s.hall hall).hotSince = some c → 2 ≤ n → c ≤ l.startClk + (n - 1) * 65536 →
      let p := hallCore hall s.draw.1.toNat
      s.moveAway lid p = [d] →
      (d.lid = lid ∧ d.src = p ∧ d.old = s.targetOn lid p ∧ d.new = d.old ∧ d.cause = 3 ∧ d.dst ∈ s.idleCores lid
        ∧ (s.hall (hallOf d.dst)).temp < 85
        ∧ ∀ x ∈ s.idleCores lid, (s.hall (hallOf x)).temp < 85 → hopsBetween p d.dst ≤ hopsBetween p x) ∧
      (s.leaseHolds lid p = false → s.eligible lid p = true → ∃ t r, exec (.censusEpoch hall lid) s = .next t ∧ t.recasts = s.recasts ++ [r]
        ∧ r.dec = d ∧ r.phase = .grace ∧ r.due = s.clk + 65536 ∧ getAt 0 hall (t.launch lid).epochs = n ∧ (t.hall hall).tally lid = {}) ∧
      (s.leaseHolds lid p = true → ∃ t, exec (.censusEpoch hall lid) s = .next t ∧ t.recasts = s.recasts ∧ t.net = s.net
        ∧ (t.hall hall).deferred = some d ∧ getAt 0 hall (t.launch lid).epochs = n)) ∧
    (∀ d, s.growth lid hall n = some d → ro < 25 ∧ m.tr = 0 ∧ d.cause = 0 ∧ (∃ k, d.new = some (.pool, k) ∧ k < l.record.nstore.toNat
      ∧ l.pool.length ≤ k) ∧ l.growEpoch ≠ some n
      ∧ (l.pool ≠ [] → 3 * 24 * l.pool.length ≤ 4 * (l.pool.map (fun p => (s.core p).written.length)).sum)) ∧
    (∀ d, s.pressure lid hall = some d → (50 ≤ ro ∨ 16 ≤ m.tr) ∧ d.cause = 1 ∧ d.old = none ∧ hallOf d.dst = hall
      ∧ ∃ j, d.new = some (.routing, j) ∧ j < l.record.nroute.toNat ∧ l.hostOf .routing j = none
        ∧ ∀ k < j, l.hostOf .routing k = none → ∃ r ∈ s.recasts, r.dec.new = some (.routing, k)) ∧
    (∀ d q, s.surplus lid hall q = some d → 4 ≤ q ∧ d.cause = 2 ∧ d.new = none ∧ ∃ j, d.old = some (.routing, j) ∧ l.selects j = false)

/-- R89, R92–R95: a re-cast enters drain at the end of grace; a pool slot's 96 KiB stand at the new host after its move and the old one's
are zero; a compute tile moves once its contexts, engines and accesses are done and its dirty sectors written back, with its SRAM, queues, counters,
barriers, channels, s.fmc, s.seed (Table 5-10) and, as the model has it (log 33), its routes, ACC and matrix banks, and leaves a twin window
of FULL zero (R94); a routing tile that is taken or given has its core's SRAM zeroed once its overflow
buffer is empty; the re-map names the new host, takes the target's leases to the new hall's controller (log 33) and leaves a stub of 16,384 clk; a pool that grows has the
core that was idle, or the routing tile whose index then maps to NONE, as its new slot, and every core of the launch is told. -/
def Clause.Recasts : Prop :=
  ∀ (r : Nat) (s : State) (c : Recast), s.recasts[r]? = some c → c.pair = false →
    let d := c.dec
    (c.phase = .grace → c.due ≤ s.clk → ∃ t, exec (.recastGraceEnd r) s = .next t ∧ t.recasts[r]? = some { c with phase := .drain }) ∧
    (c.phase = .grace → s.clk < c.due → exec (.recastGraceEnd r) s = .next s) ∧
    (∀ k, c.phase = .drain → d.old = some (.pool, k) → d.src ≠ d.dst → Memory.wf s.mem = true →
      ∃ t, exec (.recastMove r) s = .next t ∧ t.recasts[r]? = some { c with phase := .moved } ∧ ∀ o < 0x18000,
        Memory.read t.mem (sramPa d.dst o) = Memory.read s.mem (sramPa d.src o) ∧ Memory.read t.mem (sramPa d.src o) = 0) ∧
    (∀ k, c.phase = .drain → d.old = some (.compute, k) → s.busyCore d.src = true → exec (.recastMove r) s = .next s) ∧
    (∀ k, c.phase = .drain → d.old = some (.compute, k) → d.src ≠ d.dst → Memory.wf s.mem = true → s.busyCore d.src = false →
      (s.core d.src).l1.any (fun l => l.dirty != 0) = false →
      ∃ t, exec (.recastMove r) s = .next t ∧ t.recasts[r]? = some { c with phase := .moved } ∧
        (let old := s.core d.src
         let new := t.core d.dst
         new.lowQ = old.lowQ ∧ new.highQ = old.highQ ∧ new.fifo = old.fifo ∧ new.deque = old.deque ∧ new.counters = old.counters
          ∧ new.barriers = old.barriers ∧ new.chans = old.chans ∧ new.routes = old.routes ∧ new.acc = old.acc ∧ new.banks = old.banks
          ∧ new.fmc = old.fmc ∧ new.seed = old.seed
          ∧ new.dir = old.dir ∧ new.role = (s.core d.dst).role) ∧
        (colOf d.src ≠ colOf d.dst → (t.column (colOf d.src)).tw = []) ∧
        ∀ o < 0x18000, Memory.read t.mem (sramPa d.dst o) = Memory.read s.mem (sramPa d.src o) ∧ Memory.read t.mem (sramPa d.src o) = 0) ∧
    (c.phase = .drain → (d.old = none ∨ ∃ j, d.old = some (.routing, j)) → d.src = d.dst → Memory.wf s.mem = true →
      ((∀ j, d.old = some (.routing, j) → ∀ p ∈ s.net, p.spilt = true → p.pos ≠ d.src) →
        ∃ t, exec (.recastMove r) s = .next t ∧ t.recasts[r]? = some { c with phase := .moved } ∧ (t.core d.src).role = (s.core d.src).role
          ∧ ∀ o < 0x18000, Memory.read t.mem (sramPa d.src o) = 0)) ∧
    (∀ j, c.phase = .moved → d.old = none → d.new = some (.routing, j) → (s.launch? d.lid).isSome = true → j < (s.launch d.lid).routing.length →
      (s.launch d.lid).hostOf .routing j = none →
      ∃ t, exec (.recastRemap r) s = .next t ∧ (t.launch d.lid).hostOf .routing j = some d.dst ∧ (t.core d.dst).role = .host d.lid .routing j
        ∧ c ∉ t.recasts ∧ t.mem = s.mem ∧ t.stubs = s.stubs) ∧
    (∀ j, c.phase = .moved → d.old = some (.routing, j) → d.new = none → (s.launch? d.lid).isSome = true →
      (s.launch d.lid).hostOf .routing j = some d.src → (s.core d.src).role = .host d.lid .routing j →
      ∃ t, exec (.recastRemap r) s = .next t ∧ (t.launch d.lid).hostOf .routing j = none ∧ (t.core d.src).role = .idle ∧ c ∉ t.recasts
        ∧ t.mem = s.mem ∧ { lid := d.lid, kind := .routing, idx := j, old := d.src, new := none, closes := s.clk + 16384 } ∈ t.stubs) ∧
    (∀ k i, c.phase = .moved → d.old = some (k, i) → d.new = some (k, i) → d.src ≠ d.dst → k ≠ .routing →
      (s.launch? d.lid).isSome = true → (s.launch d.lid).hostOf k i = some d.src → (s.core d.src).role = .host d.lid k i →
      ∃ t, exec (.recastRemap r) s = .next t ∧ (t.launch d.lid).hostOf k i = some d.dst ∧ (t.core d.dst).role = .host d.lid k i
        ∧ (t.core d.src).role = .idle ∧ c ∉ t.recasts ∧ t.mem = s.mem
        ∧ { lid := d.lid, kind := k, idx := i, old := d.src, new := some d.dst, closes := s.clk + 16384 } ∈ t.stubs
        ∧ ∀ e ∈ (s.hall (hallOf d.src)).leases, e.lid = d.lid → e.kind = k → e.idx = i → e ∈ (t.hall (hallOf d.dst)).leases) ∧
    (∀ k, c.phase = .moved → d.new = some (.pool, k) → (s.launch? d.lid).isSome = true → k = (s.launch d.lid).pool.length →
      (d.old = none ∨ ∃ j, d.old = some (.routing, j) ∧ (s.launch d.lid).hostOf .routing j = some d.src ∧ d.src = d.dst) →
      ∃ t, exec (.recastRemap r) s = .next t ∧ (t.launch d.lid).pool = (s.launch d.lid).pool ++ [d.dst] ∧ (t.core d.dst).role = .host d.lid .pool k
        ∧ (∀ j, d.old = some (.routing, j) → (t.launch d.lid).hostOf .routing j = none) ∧ c ∉ t.recasts ∧ t.mem = s.mem ∧
        ∀ x ∈ (t.launch d.lid).cores, ∃ q ∈ t.net, q.dest = x ∧ q.port = .core
          ∧ q.body = .invalidate .pool k ((s.launch d.lid).generation + 1) true)

/-- R94: both twins of a column move together: one move takes the twin window with them and leaves that of the old column FULL zero, and
one re-map names both new hosts. That the map generation grows by one for each is the model's choice (log 33). -/
def Clause.TwinRecasts : Prop :=
  ∀ (s : State) (c d : Recast) (k j : Nat), s.recasts = [c, d] → c.pair = true → d.pair = true → c.phase = d.phase → c.dec.lid = d.dec.lid →
    c.dec.old = some (.compute, k) → c.dec.new = c.dec.old → d.dec.old = some (.compute, j) → d.dec.new = d.dec.old → k ≠ j →
    placeZ c.dec.src = 0 → d.dec.src = twinOf c.dec.src → placeZ c.dec.dst = 0 → d.dec.dst = twinOf c.dec.dst →
    colOf c.dec.src ≠ colOf c.dec.dst →
    (c.phase = .drain → s.drained c = true → s.drained d = true →
      ∃ t, exec (.recastMove 0) s = .next t ∧ t.recasts = [{ c with phase := .moved }, { d with phase := .moved }] ∧
        (t.column (colOf c.dec.dst)).tw = (s.column (colOf c.dec.src)).tw ∧ (t.column (colOf c.dec.src)).tw = []) ∧
    (∀ l, c.phase = .moved → s.launch? c.dec.lid = some l → k < l.compute.length → j < l.compute.length →
      ∃ t, exec (.recastRemap 0) s = .next t ∧ t.recasts = [] ∧ (t.launch c.dec.lid).hostOf .compute k = some c.dec.dst ∧
        (t.launch c.dec.lid).hostOf .compute j = some d.dec.dst ∧ (t.launch c.dec.lid).generation = l.generation + 2 ∧
        ∀ i, i ≠ k → i ≠ j → (t.launch c.dec.lid).hostOf .compute i = l.hostOf .compute i)

/-- R95, R139: a core that applies an invalidation of an entry it used sends a marker on each virtual network to the old host and holds its
sends to the target; an open stub sends items on to the new host in the order in which they came, on the virtual channel they came by, and a closed
one back through the network to the source, which sends it again by the current map; a static-route message at a waypoint that has moved goes
on to its new host, straight to its final destination where the index maps to NONE, or back to its source once the stub is closed; a marker
goes on after the items ahead of it, or, after the stub has closed, back;
a marker that has come to the new host goes back; the last marker's return ends the hold; a stub closes at its clk. That every tile whose entry
is stale counts as having used it is the model's choice (assumption log 32). -/
def Clause.StubsAndMarkers : Prop :=
  (∀ (k i gen lid l q : Nat) (s u : State) (p : Packet) (kd : Kind), s.accept k = some (p, u) → p.body = .invalidate kd i gen false →
    (s.core p.dest).role = .host lid .compute l →
    (s.core p.dest).stale = [{ kind := kd, idx := i, old := some q }] →
    ∃ t ms, exec (.roleMapInvalidation k) s = .next t ∧ (t.core p.dest).stale = [] ∧ t.net = takeOut k s.net ++ ms
      ∧ ms.map (fun m => m.vn) = [.req, .rsp, .namei, .named, .hi] ∧ (∀ m ∈ ms, m.body = .marker kd i false ∧ m.dest = q)
      ∧ (t.core p.dest).holds = (s.core p.dest).holds ++ [{ kind := kd, idx := i, markers := 5 }]) ∧
  (∀ (k i q : Nat) (s : State) (p : Packet) (kd : Kind), s.landed k = some p → (∀ a b f, p.body ≠ .marker a b f) →
    p.target = some (kd, i) → (s.launch p.lid).hostOf kd i = some q → q ≠ p.dest → s.itemFirst p = false →
    (∃ b ∈ s.stubs, b.lid = p.lid ∧ b.kind = kd ∧ b.idx = i ∧ b.old = p.dest ∧ s.clk < b.closes) →
    ∃ t m, exec (.stubForward k) s = .next t ∧ t.net[k]? = some m ∧ m.dest = q ∧ m.final = q ∧ m.pos = p.pos ∧ m.vc1 = p.vc1) ∧
  (∀ (k i q : Nat) (s : State) (p : Packet) (kd : Kind), s.landed k = some p → (∀ a b f, p.body ≠ .marker a b f) →
    p.target = some (kd, i) → (s.launch p.lid).hostOf kd i = some q → q ≠ p.dest → s.itemFirst p = false → s.stubOpen p.lid kd i p.dest = false →
    ∃ t m, exec (.stubForward k) s = .next t ∧ t.net[k]? = some m ∧ m.dest = p.src ∧ m.final = p.src ∧ m.pos = p.pos ∧ m.back = some p.final) ∧
  (∀ (k i q f : Nat) (s : State) (p : Packet) (kd : Kind), s.arrived k = some p → p.back = some f → p.wpTargets = [] →
    p.target = some (kd, i) → (s.launch p.lid).hostOf kd i = some q →
    ∃ t m, exec (.stubForward k) s = .next t ∧ t.net[k]? = some m ∧ m.dest = q ∧ m.final = q ∧ m.pos = p.pos ∧ m.back = none
      ∧ m.hops = 0 ∧ m.born = s.clk ∧ m.uid = p.uid) ∧
  (∀ (k i q : Nat) (s : State) (p : Packet) (kd : Kind), s.net[k]? = some p → s.wayMoved p = true → p.wpTargets[p.step]? = some (kd, i) →
    s.stubOpen p.lid kd i p.pos = true → (s.launch p.lid).hostOf kd i = some q →
    ∃ t m, exec (.stubForward k) s = .next t ∧ t.net[k]? = some m ∧ m.dest = q ∧ m.final = p.final ∧ m.pos = p.pos) ∧
  (∀ (k i : Nat) (s : State) (p : Packet) (kd : Kind), s.net[k]? = some p → s.wayMoved p = true → p.wpTargets[p.step]? = some (kd, i) →
    ∃ t m, exec (.stubForward k) s = .next t ∧ t.net[k]? = some m ∧ m.pos = p.pos ∧
      (s.stubOpen p.lid kd i p.pos = true → (s.launch p.lid).hostOf kd i = none → m.dest = p.final ∧ m.onWay = false) ∧
      (s.stubOpen p.lid kd i p.pos = false → m.dest = p.src ∧ m.final = p.src ∧ m.back.isSome = true)) ∧
  (∀ (k i : Nat) (s : State) (p : Packet) (kd : Kind), s.landed k = some p →
    (p.body = .marker kd i false →
      (s.markerWaits p = true → exec (.stubForward k) s = .next s) ∧
      (s.markerWaits p = false → (∀ q, (s.launch p.lid).hostOf kd i = some q → q = p.dest ∨ s.stubOpen p.lid kd i p.dest = false) →
        ∃ t, exec (.stubForward k) s = .next t ∧ sentLast t .core (.marker kd i true)) ∧
      (∀ q, s.markerWaits p = false → (s.launch p.lid).hostOf kd i = some q → q ≠ p.dest → s.stubOpen p.lid kd i p.dest = true →
        ∃ t m, exec (.stubForward k) s = .next t ∧ t.net[k]? = some m ∧ m.dest = q ∧ m.final = q ∧ m.body = p.body)) ∧
    (p.body = .marker kd i true → ∀ n, (s.core p.dest).holds = [{ kind := kd, idx := i, markers := n }] →
      ∃ t, exec (.markerReturn k) s = .next t ∧ (t.core p.dest).holds = if n ≤ 1 then [] else [{ kind := kd, idx := i, markers := n - 1 }])) ∧
  (∀ (k : Nat) (s : State) (b : Stub), s.stubs[k]? = some b → (s.clk < b.closes → exec (.stubClose k) s = .next s) ∧
    (b.closes ≤ s.clk → ∃ t, exec (.stubClose k) s = .next t ∧ t.stubs = s.stubs.eraseIdx k))

/-- R80, R334, Table 5-2: topo writes the key's value, zero-extended, FULL and untagged, and goes on; a reserved key reads zero. -/
def Clause.TopologyKeys : Prop :=
  ∀ (a : Args) (s : State), s.meet [.dst a.d] = .ok () →
    let key := (srcImm a.s1).toNat
    let l := s.launch s.lid
    let cw := if l.record.cw = 0 then l.record.w.toNat else l.record.cw.toNat
    ∃ v : W64, exec (.topo a) s = .next ((s.writeD a.d ⟨v.setWidth 128, false⟩).advance) ∧
      (key = 0 → v = s.mb.grade.setWidth 64) ∧ (key = 1 → v = BitVec.ofNat 64 l.c) ∧ (key = 2 → v = BitVec.ofNat 64 s.cc.poolView) ∧
      (key = 3 → v = BitVec.ofNat 64 s.cc.routesView) ∧ (key = 4 → v = BitVec.ofNat 64 cw) ∧
      (key = 5 → v = BitVec.ofNat 64 ((l.c + cw - 1) / cw)) ∧ (key = 6 → v = BitVec.ofNat 64 s.tileL) ∧
      (key = 7 → s.tileL < 2 ^ 32 → 0 < cw →
        v.toNat / 2 ^ 32 = s.tileL / cw ∧ v.toNat % 2 ^ 32 = s.tileL % cw) ∧
      (key = 8 → v.toNat / 2 ^ 32 = l.record.h.toNat ∧ v.toNat % 2 ^ 32 = l.record.w.toNat) ∧
      (key = 9 → v.toNat / 2 ^ 32 = l.record.fy.toNat ∧ v.toNat % 2 ^ 32 = l.record.fx.toNat) ∧
      (key = 10 → v.toNat = l.record.nstore.toNat) ∧ (key = 11 → v = BitVec.ofNat 64 (s.cc.poolView * 0x18000)) ∧
      (key = 12 → s.cur.core < 2 ^ 19 → v.toNat / 1024 = placeX s.cur.core ∧ v.toNat / 2 % 512 = placeY s.cur.core
        ∧ v.toNat % 2 = placeZ s.cur.core) ∧
      (key = 13 → v = BitVec.ofNat 64 (groupOf s.cur.core)) ∧ (key = 14 → v = BitVec.ofNat 64 s.cc.genView) ∧ (15 ≤ key → v = 0)

/-- R385, R388: a local amofadd writes the sum of the old item and its value, rounded once to .f32 by RNE whatever s.fmc holds, and
returns the old item. -/
def Clause.FloatingAdd : Prop :=
  ∀ (ord : Ord) (sc : Scope) (a : Args) (s w : State) (sig : Option Sig) (p : Piece × Target),
    s.meet (srcMeet a.s1 ++ srcMeet a.s2 ++ [.dst a.d]) = .ok () → a.ty.bits = 32 →
    let c := s.takeSrc a.ty a.s1
    let v := c.2.takeSrc a.ty a.s2
    s.checkAccess c.1 (capCursor c.1.v) 4 true true = .ok (.ok [p]) → capCursor c.1.v % 4 = 0 → paRegion p.2.pa ≠ 3 →
    p.2.own = true → p.2.device = false → s.beforeStore (ord == .rel || ord == .ar) sc = .ok (w, sig) → w.cx.acquires = [] →
    w.cc.ticketsFull = false → w.mem = s.mem → w.damaged p.2.pa = false →
    let old := bytesNat (Memory.readN s.mem p.2.pa 4)
    let new := encodeVal fmtF32 rulesRne 0 (FVal.add false (fmtF32.decode old) (fmtF32.decode (v.1.v.toNat % 2 ^ 32)))
    ∃ t, exec (.amofadd ord sc a) s = .next t ∧ t.mem = Memory.writeMasked s.mem p.2.pa (natBytes 4 new) []
      ∧ (a.d.toNat < 32 → s.curStream? a.d.toNat = none → pendingClass (t.regAt s.cur.core s.cur.ctx a.d.toNat) 0)
      ∧ ∃ q r, t.net.getLast? = some q ∧ q.body = .response r ∧ r.fill = ⟨BitVec.ofNat 128 old, false⟩

/-- R55, R56, R59: a doorbell is ignored outside READY and refused with DBERR where it would leave fewer records, else sets TAIL; FLUSH
cancels every record that has not started; a queue's head is read once, when it becomes head, and consumed with its status where a head
check fails. -/
def Clause.LaunchQueues : Prop :=
  ∀ (q : Nat) (s : State), q < 16 →
    let k := s.queue q
    let r := parseRecord (s.slotBytes q k.head.toNat)
    (∀ tail, s.mb.state ≠ .ready → exec (.doorbell q tail) s = .next s) ∧
    (∀ tail, s.mb.state = .ready → ∃ t, exec (.doorbell q tail) s = .next t ∧ t.records = s.records ∧ t.launches = s.launches ∧
      t.mem = s.mem ∧ (∀ j, j ≠ q → t.queue j = s.queue j) ∧
      t.queue q = if tail - k.head < k.tail - k.head then { k with dberr := true } else { k with tail := tail }) ∧
    (∃ t rs, exec (.queueFlush q) s = .next t ∧ t.records = s.records ++ rs ∧ rs.length = (k.tail - k.head).toNat ∧
      (∀ c ∈ rs, c.status = .cancelled ∧ c.lid = 0xFF ∧ c.src = q ∧ c.tstart = 0 ∧ c.grant = 0) ∧ t.launches = s.launches ∧
      (t.queue q).head = k.tail ∧ (t.queue q).tail = k.tail ∧ (t.queue q).latched = none ∧ t.mem = s.mem) ∧
    (s.mb.state = .ready → k.head ≠ k.tail → k.latched = none →
      (s.headCheck r = none → ∃ t, exec (.headLatch q) s = .next t ∧ t.queue q = { k with latched := some r } ∧ t.records = s.records) ∧
      (∀ st d, s.headCheck r = some (st, d) → ∃ t c, exec (.headLatch q) s = .next t ∧ t.queue q = { k with head := k.head + 1 } ∧
        t.records = s.records ++ [c] ∧ c.tag = r.tag ∧ c.status = st ∧ c.detail = d ∧ c.lid = 0xFF ∧ c.tstart = 0 ∧ c.grant = 0
        ∧ c.src = q)) ∧
    (k.latched ≠ none → exec (.headLatch q) s = .next s)

/-- R59, Table 4-4: the head checks in their order, each with its status and DETAIL; those of a resume record are of its version and reserved
fields, its region's place, TLIM and, last, that RLID names a saved launch of the same region (R60). -/
def Clause.HeadChecks : Prop :=
  ∀ (s : State) (r : LRec),
    let c1 : Prop := r.ver = 1 ∧ r.clean = true ∧ (r.resume = false → r.rlid = 0)
    let wide := if s.mb.grade = 0x0A then 480 else 448
    let c3 : Prop := 1 ≤ r.w.toNat ∧ 1 ≤ r.h.toNat ∧ r.fx.toNat + r.w.toNat ≤ wide ∧ r.fy.toNat + r.h.toNat ≤ 512 ∧
      (r.resume = false → 1 ≤ r.nmin.toNat ∧ r.nmin.toNat ≤ r.ncomp.toNat ∧ r.sresv.toNat ≤ r.nstore.toNat)
    let c4 : Prop := r.tlim ≠ 0 ∧ (r.resume = false → r.ptroot.toNat % 4096 = 0 ∧ r.init.toNat ≤ r.hcnt.toNat)
    let c5 : Prop := r.resume = true → ∃ l, s.launch? r.rlid.toNat = some l ∧ l.phase = .saved ∧ r.fx = l.record.fx ∧ r.fy = l.record.fy
      ∧ r.w = l.record.w ∧ r.h = l.record.h
    (¬c1 → s.headCheck r = some (.badRecord, 1)) ∧
    (c1 → s.mb.grade = 0 → s.headCheck r = some (.gradeNone, 0)) ∧
    (c1 → (s.mb.grade = 0x0A ∨ s.mb.grade = 0x0B) →
      (¬c3 → s.headCheck r = some (.badRecord, 2)) ∧ (c3 → ¬c4 → s.headCheck r = some (.badRecord, 3)) ∧
      (c3 → c4 → ¬c5 → s.headCheck r = some (.badRecord, 4)) ∧ (c3 → c4 → c5 → s.headCheck r = none))

/-- R50, R62, R63, R66, R267, Tables 4-5, 4-6, 13-2: no record is written while the ring is full or EN is 0, nor once the budget of a command
that waits for it has run out; else, when the endpoint's port is free for it, the oldest one's 64 bytes stand at TAIL, TAIL goes on and the pass
bit inverts on a wrap, and its vector is signalled. That a record takes 3 flits at the port is the model's (assumption log 106). -/
def Clause.RecordRing : Prop :=
  ∀ (s : State) (r : CRec) (rest : List CRec), s.records = r :: rest →
    let n := if 6 ≤ s.cmd.log2n.toNat ∧ s.cmd.log2n.toNat ≤ 16 then 2 ^ s.cmd.log2n.toNat else 64
    ((s.cmd.crEn = false ∨ (s.cmd.crTail.toNat + 1) % n = s.cmd.crHead.toNat ∨ s.mb.waiting.isSome = true ∧ s.mb.budgetEnd ≤ s.clk ∨
      s.hostFree 0 = false) → exec .completionRecordWrite s = .next s) ∧
    (s.mb.waiting = none → s.cmd.crEn = true → (s.cmd.crTail.toNat + 1) % n ≠ s.cmd.crHead.toNat → s.hostFree 0 = true →
      Memory.wf s.mem = true → s.cmd.crTail.toNat < n →
      s.cmd.crBase.toNat + 64 * n ≤ 2 ^ 48 →
      ∃ t, exec .completionRecordWrite s = .next t ∧ t.records = rest ∧ t.launches = s.launches ∧
        t.cmd.crTail.toNat = (s.cmd.crTail.toNat + 1) % n ∧
        t.cmd.pass = (if (s.cmd.crTail.toNat + 1) % n = 0 then !s.cmd.pass else s.cmd.pass) ∧
        let at_ := 3 * 2 ^ 48 + s.cmd.crBase.toNat + 64 * s.cmd.crTail.toNat
        let w (k : Nat) : Nat := bytesNat (Memory.readN t.mem (at_ + 8 * k) 8)
        (∀ x, (x < at_ ∨ at_ + 64 ≤ x) → Memory.read t.mem x = Memory.read s.mem x) ∧
        (r.src ≤ 16 → r.lid < 256 → w 0 / 2 ^ 32 = r.tag.toNat ∧ w 0 / 2 ^ 24 % 256 = r.src ∧ w 0 / 2 ^ 16 % 256 = r.lid ∧
          ([Status.ok, .fault, .preempted, .turnover, .noFit, .badRecord, .gradeNone, .overrun, .cancelled, .skipped, .saveLost] :
            List Status)[w 0 / 2 ^ 8 % 256]? = some r.status ∧ w 0 % 256 = (if r.fault.isSome then 2 else 1)) ∧
        w 7 = (if s.cmd.pass then 2 ^ 63 else 0) ∧
        (r.fault = none → (r.entry < 256 → w 1 = r.detail.toNat * 256 + r.entry) ∧ w 2 = r.tstart.toNat ∧ w 3 = r.tend.toNat ∧
          w 4 = r.grant.toNat ∧ w 5 = r.tasks.toNat ∧ w 6 = 0 ∧ t.msix = (if r.irq then [r.src] else []) ++ s.msix) ∧
        (∀ f, r.fault = some f → f.l < 2 ^ 20 → f.place < 2 ^ 19 → f.ctx < 8 →
          w 1 / 2 ^ 56 = f.cls.toNat ∧ w 1 / 2 ^ 48 % 256 = f.code.toNat ∧ w 1 / 2 ^ 28 % 2 ^ 20 = f.l ∧ w 1 / 2 ^ 19 % 512 = placeX f.place ∧
          w 1 / 2 ^ 10 % 512 = placeY f.place ∧ w 1 / 2 ^ 9 % 2 = placeZ f.place ∧ w 1 / 2 ^ 6 % 8 = f.ctx ∧
          w 1 / 32 % 2 = (if f.async then 1 else 0) ∧ w 2 % 2 ^ 48 = f.pc.toNat ∧ w 2 / 2 ^ 48 % 2 ^ 15 = f.shadow.toNat ∧
          w 2 / 2 ^ 63 = (if f.older then 1 else 0) ∧ w 3 = f.time.toNat ∧ w 4 = f.detail.toNat ∧ w 5 / 2 ^ 56 = f.stage.toNat ∧
          w 5 / 2 ^ 44 % 2 ^ 12 = f.handler.toNat ∧ w 5 % 2 ^ 32 = f.seq.toNat ∧ w 6 = f.opc.toNat ∧ t.msix = 17 :: s.msix))

/-- R59–R61: nothing starts outside READY, without room in the ring or twice in a clk; of the candidates that could start the first is
taken, time-triggered ones ahead of queue heads; it ends NO_FIT or SKIPPED without a LID, or takes a free one, which one being a free value
(assumption log 2), and its grant's roles. -/
def Clause.LaunchStarts : Prop :=
  (∀ s : State, (s.mb.state ≠ .ready ∨ s.cmd.ringRoom = false ∨ s.cmd.lastStart = some s.clk ∨
      (∀ n < 64, (s.launch? n).isSome = true)) → exec .launchStart s = .next s) ∧
  (∀ a b : LRec, 1 ≤ a.w.toNat → 1 ≤ a.h.toNat → 1 ≤ b.w.toNat → 1 ≤ b.h.toNat →
    (regionsMeet a b = true ↔ ∃ x y, (a.fx.toNat ≤ x ∧ x < a.fx.toNat + a.w.toNat ∧ a.fy.toNat ≤ y ∧ y < a.fy.toNat + a.h.toNat)
      ∧ b.fx.toNat ≤ x ∧ x < b.fx.toNat + b.w.toNat ∧ b.fy.toNat ≤ y ∧ y < b.fy.toNat + b.h.toNat)) ∧
  (∀ (s : State) (c : Candidate), s.mb.state = .ready → s.cmd.ringRoom = true → s.cmd.lastStart ≠ some s.clk →
    s.candidates.find? s.couldStart = some c →
    let g := grantOf c.record (s.available c.record)
    ((∃ b ∈ s.candidates, b.src = 16 ∧ s.couldStart b = true) → c.src = 16) ∧
    (∀ e ∈ s.launches, e.2.phase ≠ .saved → regionsMeet e.2.record c.record = false) ∧
    (c.record.resume = false →
      (g.1.length < c.record.nmin.toNat → ∃ t q, exec .launchStart s = .next t ∧ t.launches = s.launches ∧ t.records = s.records ++ [q] ∧
        q.status = .noFit ∧ q.detail = 0 ∧ q.lid = 0xFF ∧ q.tag = c.record.tag ∧ t.cmd.lastStart = some s.clk ∧
        (g.1.length < 2 ^ 20 → q.grant.toNat % 2 ^ 20 = g.1.length)) ∧
      (c.record.nmin.toNat ≤ g.1.length → c.record.notafter ≠ 0 → c.record.notafter < s.time →
        ∃ t q, exec .launchStart s = .next t ∧ t.launches = s.launches ∧ t.records = s.records ++ [q] ∧ q.status = .skipped ∧ q.lid = 0xFF
          ∧ q.grant = 0) ∧
      (c.record.nmin.toNat ≤ g.1.length → (c.record.notafter = 0 ∨ s.time ≤ c.record.notafter) →
        (g.1 ++ g.2.1 ++ g.2.2.filterMap id).Nodup →
        ∃ t n l, exec .launchStart s = .next t ∧ n < 64 ∧ s.launch? n = none ∧ t.launch? n = some l ∧ l.phase = .admission ∧
          l.record = c.record ∧ l.compute = g.1 ∧ l.pool = g.2.1 ∧ l.routing = g.2.2 ∧ l.tstart = s.time ∧ t.records = s.records ∧
          t.cmd.lastStart = some s.clk ∧ t.mem = s.mem ∧
          (∀ i p, g.1[i]? = some p → (t.core p).role = .host n .compute i ∧ (t.core p).fmc = c.record.fmc
            ∧ (t.core p).tlimit = c.record.tlim ∧ (t.core p).seed =
              (if c.record.seed ^^^ BitVec.ofNat 32 i = 0 then 1 else c.record.seed ^^^ BitVec.ofNat 32 i)) ∧
          (∀ i p, g.2.1[i]? = some p → (t.core p).role = .host n .pool i) ∧
          (∀ i p, g.2.2[i]? = some (some p) → (t.core p).role = .host n .routing i))))

/-- R60, R61, R71, R129: a resume record whose launch is no longer saved ends BAD_RECORD 4, one past NOTAFTER SKIPPED; else it starts its launch
under its own LID and on its saved roles, with the TAG, IRQ, TLIM and NOTAFTER of the resume record, tasks counted anew; what Table 6-10 saves
of its cores, their SRAM with its tags, and its twin windows stand as saved, and it waits for staggered admission. -/
def Clause.ResumeStarts : Prop :=
  ∀ (s : State) (c : Candidate), s.mb.state = .ready → s.cmd.ringRoom = true → s.cmd.lastStart ≠ some s.clk →
    s.candidates.find? s.couldStart = some c → c.record.resume = true →
    let r := c.record
    let n := r.rlid.toNat
    ((∀ l, s.launch? n = some l → l.phase ≠ .saved ∨ ¬(r.fx = l.record.fx ∧ r.fy = l.record.fy ∧ r.w = l.record.w ∧ r.h = l.record.h)) →
      ∃ t q, exec .launchStart s = .next t ∧ t.launches = s.launches ∧ t.records = s.records ++ [q] ∧ q.status = .badRecord ∧ q.detail = 4 ∧
        q.lid = 0xFF ∧ q.tag = r.tag) ∧
    (∀ l v, s.launch? n = some l → l.phase = .saved → l.saved = some v → r.fx = l.record.fx → r.fy = l.record.fy → r.w = l.record.w →
      r.h = l.record.h →
      (r.notafter ≠ 0 → r.notafter < s.time → ∃ t q, exec .launchStart s = .next t ∧ t.launches = s.launches ∧ t.records = s.records ++ [q] ∧
        q.status = .skipped ∧ q.lid = 0xFF ∧ q.tag = r.tag) ∧
      ((r.notafter = 0 ∨ s.time ≤ r.notafter) → Memory.wf s.mem = true → (v.cores.map (fun e => e.1)).Nodup →
        (v.bytes.map (fun b => b.1)).Nodup → (v.twins.map (fun e => e.1)).Nodup →
        (∀ b ∈ v.bytes, ∃ e ∈ v.cores, sramPa e.1 0 ≤ b.1 ∧ b.1 < sramPa e.1 0 + 0x18000) →
        ∃ t k, exec .launchStart s = .next t ∧ t.launch? n = some k ∧ k.phase = .admission ∧
          k.record = { l.record with tag := r.tag, irq := r.irq, tlim := r.tlim, notafter := r.notafter, resume := true } ∧
          k.compute = l.compute ∧ k.pool = l.pool ∧ k.routing = l.routing ∧ k.rows = groupRows l.compute ∧ k.nextStep = s.clk ∧ k.tasks = 0 ∧
          k.tstart = s.time ∧ k.grant = l.grant ∧ k.src = c.src ∧ k.saved = none ∧ t.records = s.records ∧ t.cmd.lastStart = some s.clk ∧
          (∀ e ∈ v.cores, let a := t.core e.1
            a.role = e.2.role ∧ a.lowQ = e.2.lowQ ∧ a.highQ = e.2.highQ ∧ a.fifo = e.2.fifo ∧ a.deque = e.2.deque ∧ a.spill = e.2.spill ∧
            a.counters = e.2.counters ∧ a.barriers = e.2.barriers ∧ a.chans = e.2.chans ∧ a.routes = e.2.routes ∧ a.seals = e.2.seals ∧
            a.fmc = e.2.fmc ∧ a.seed = e.2.seed ∧ a.tlimit = e.2.tlimit ∧ a.pit = (s.core e.1).pit ∧
            a.dir.map (fun d => (d.name, d.held)) = e.2.dir.map (fun d => (d.name, d.held)) ∧
            (∀ d ∈ a.dir, d.held = true → s.clk ≤ d.expiry)) ∧
          (∀ b ∈ v.bytes, Memory.read t.mem b.1 = b.2) ∧
          (∀ e ∈ v.cores, ∀ x < 0x18000, (∀ b ∈ v.bytes, b.1 ≠ sramPa e.1 0 + x) → Memory.read t.mem (sramPa e.1 0 + x) = 0) ∧
          (∀ x, (∀ e ∈ v.cores, x < sramPa e.1 0 ∨ sramPa e.1 0 + 0x18000 ≤ x) → Memory.read t.mem x = Memory.read s.mem x) ∧
          (∀ g ∈ v.tags, g ∈ t.tags) ∧ (∀ e ∈ v.twins, (t.column e.1).tw = e.2)))

/-- R23, R24, R60: a start's step admits the next max(1, floor(STEP_A / 440)) group rows, STEP_A at most 3,520, when it is due and no
throttle runs or has ended less than 260 clk ago; the next falls due 260 clk later, and a fresh launch's initial tasks start with ARG0 to
ARG2 and L. -/
def Clause.StaggeredAdmission : Prop :=
  ∀ (lid : Nat) (s : State) (l : Launch), s.launch? lid = some l → l.phase = .admission → l.live = true →
    let n := Nat.max 1 (Nat.min 3520 s.stepA.toNat / 440)
    (s.clk < l.nextStep → exec (.staggerStep lid) s = .next s) ∧ (∀ g < 16, s.halved g = true → exec (.staggerStep lid) s = .next s) ∧
    (∀ e, s.throttleEnded = some e → l.nextStep < e → s.clk < e + 260 → exec (.staggerStep lid) s = .next s) ∧
    (l.nextStep ≤ s.clk → (∀ g < 16, s.halved g = false) → (∀ e, s.throttleEnded = some e → e ≤ l.nextStep ∨ e + 260 ≤ s.clk) →
      ∃ t, exec (.staggerStep lid) s = .next t ∧ (t.launch lid).rows = l.rows.drop n ∧ (t.launch lid).nextStep = s.clk + 260 ∧
        (t.launch lid).phase = (if l.rows.length ≤ n then .running else .admission) ∧
        (∀ i p, l.record.resume = false → l.compute.Nodup → l.c = l.compute.length → l.compute[i]? = some p → rowOf p ∈ l.rows.take n →
          ∃ k, ((t.core p).ctx 1).task = some k ∧ k.handler = l.record.init ∧ k.lid = lid ∧
            ((t.core p).ctx 1).reg 0 = Reg.full ⟨l.record.arg0, false⟩ ∧ ((t.core p).ctx 1).reg 1 = Reg.full ⟨l.record.arg1, false⟩ ∧
            ((t.core p).ctx 1).reg 2 = Reg.full ⟨l.record.arg2, false⟩ ∧ ((t.core p).ctx 1).reg 3 = Reg.full (val64 i) ∧
            ∀ j, 4 ≤ j → j < 32 → ((t.core p).ctx 1).reg j = Reg.full ⟨0, false⟩))

/-- R65, R121, R122: a launch whose work is not over does not end; one with a bound counter is STRANDED_TASK, naming L and the counter; its
dirty lines are written back first; then it ends OK, its LID free. -/
def Clause.LaunchEnds : Prop :=
  ∀ (lid : Nat) (s : State) (l : Launch), s.launch? lid = some l →
    (s.workDone lid = false → exec (.launchEnd lid) s = .next s) ∧
    (s.workDone lid = true → (∀ p ∈ l.compute, ∀ k ∈ (s.core (s.nowAt p)).counters, k.2.bound = none) →
      ((∃ p ∈ l.cores, ∃ x ∈ (s.core p).l1, x.dirty ≠ 0) → exec (.launchEnd lid) s = .next (s.cleanLaunch lid)) ∧
      ((∀ p ∈ l.cores, ∀ x ∈ (s.core p).l1, x.dirty = 0) → ∃ t c, exec (.launchEnd lid) s = .next t ∧ t.launch? lid = none ∧
        t.records = s.records ++ [c] ∧ c.status = .ok ∧ c.lid = lid ∧ c.tag = l.record.tag ∧ c.tasks = l.tasks ∧ c.grant = l.grant ∧
        c.tstart = l.tstart ∧ c.tend = s.time ∧ c.fault = none ∧ t.mem = s.mem ∧
        (∀ p ∈ l.cores, (∃ k i, (s.core p).role = .host lid k i) → (t.core p).role = .idle) ∧
        (s.cmd.preGo = true → s.cmd.preLid.toNat = lid → t.cmd.preGo = false ∧ t.cmd.preResult = 2))) ∧
    (∀ p n w, s.workDone lid = true → l.compute = [p] → l.c = 1 → (s.core (s.nowAt p)).counters = [(n, w)] → w.bound.isSome = true →
      l.fault = none → l.frozen = false →
      ∃ t f, exec (.launchEnd lid) s = .next t ∧ (t.launch lid).fault = some (s.clk, f) ∧ f.cls = 0x0C ∧ f.async = true ∧ f.l = 0
        ∧ f.detail = BitVec.ofNat 64 n)

/-- R70–R72, R126, Table 4-11: GO for a launch that does not run finishes NOT_RUNNING, and NO_SLOT where a column holds two saved launches;
else the launch quiesces, a second GO changing nothing; once it is quiet and clean its SRAM is saved, its cores are idle, PREEMPTED is
recorded and RESULT is DONE. -/
def Clause.PreEmption : Prop :=
  ∀ (lid : BitVec 8) (s : State),
    let n := lid.toNat
    let l := s.launch n
    let done (r : BitVec 3) (t : State) : Prop := t.cmd.preResult = r ∧ t.cmd.preGo = false ∧ t.msix = 18 :: s.msix
    (s.cmd.preGo = true → exec (.preempt lid) s = .next s) ∧
    (s.cmd.preGo = false → (l.compute = [] ∨ l.phase ≠ .running ∨ l.fault ≠ none) →
      ∃ t, exec (.preempt lid) s = .next t ∧ done 2 t ∧ t.launches = s.launches) ∧
    (s.cmd.preGo = false → l.compute ≠ [] → l.phase = .running → l.fault = none →
      ((∃ c ∈ s.regionCols l.record, 2 ≤ (s.launches.filter (fun e => e.2.phase == .saved && (s.regionCols e.2.record).contains c)).length) →
        ∃ t, exec (.preempt lid) s = .next t ∧ done 3 t ∧ t.launches = s.launches) ∧
      ((∀ c ∈ s.regionCols l.record, (s.launches.filter (fun e => e.2.phase == .saved && (s.regionCols e.2.record).contains c)).length < 2) →
        ∃ t, exec (.preempt lid) s = .next t ∧ (t.launch n).phase = .quiescing ∧ t.cmd.preGo = true ∧ t.cmd.preLid = lid ∧
          (∀ r ∈ t.recasts, r.dec.lid = n → r.phase ≠ .grace) ∧ t.cores = s.cores ∧ t.mem = s.mem)) ∧
    (l.phase = .quiescing → s.quiet n = true → s.workDone n = false →
      (s.dirtyCores n ≠ [] → exec (.quiescenceSave n) s = .next (s.cleanLaunch n)) ∧
      (s.dirtyCores n = [] → ∃ t v c, exec (.quiescenceSave n) s = .next t ∧ (t.launch n).phase = .saved ∧ (t.launch n).saved = some v ∧
        done 1 t ∧ t.records = s.records ++ [c] ∧ c.status = .preempted ∧ c.lid = n ∧ t.mem = s.mem ∧
        (∀ p ∈ l.cores, ∀ b ∈ s.mem, sramPa p 0 ≤ b.1 → b.1 < sramPa p 0 + 0x18000 → b ∈ v.bytes) ∧
        (∀ p ∈ l.cores, (∃ k i, (s.core p).role = .host n k i) → (t.core p).role = .idle))) ∧
    ((l.phase ≠ .quiescing ∨ s.quiet n = false) → exec (.quiescenceSave n) s = .next s)

/-- R68, Table 4-8: EN set fixes the first slot: the earliest of TT_START + k * P that is not before s.time, P raised to 10,000; a one-shot
that is late fires in the next clk. TT_CNT reads MISSED and FIRED and clears them. -/
def Clause.TimeTableArms : Prop :=
  ∀ (e : Nat) (rule : BitVec 2) (s : State), e < 256 →
    let x := s.ttEntry e
    let now := s.time13 / 13
    let p := Nat.max 10000 x.period.toNat
    (s.out.ttTable = false → exec (.ttArm e rule) s = .next s ∧ ∃ t, exec (.ttCntRead e) s = .next t ∧ t.hostData = natBytes 8 0) ∧
    (s.out.ttTable = true → x.en = true → ∃ t, exec (.ttArm e rule) s = .next t ∧ t.ttEntry e = { x with rule := rule }) ∧
    (s.out.ttTable = true → x.en = false → ∃ t, exec (.ttArm e rule) s = .next t ∧ (t.ttEntry e).en = true ∧ (t.ttEntry e).rule = rule ∧
      (x.period = 0 → (t.ttEntry e).next = x.start.toNat ∧
        (t.ttEntry e).late = (if x.start.toNat < now then some (s.clk + 1) else none)) ∧
      (x.period ≠ 0 → (t.ttEntry e).late = none ∧ now ≤ (t.ttEntry e).next ∧ (∃ k, (t.ttEntry e).next = x.start.toNat + k * p) ∧
        ∀ k, now ≤ x.start.toNat + k * p → (t.ttEntry e).next ≤ x.start.toNat + k * p)) ∧
    (s.out.ttTable = true → ∃ t, exec (.ttCntRead e) s = .next t ∧
      t.hostData = natBytes 8 (x.missed.toNat * 2 ^ 32 + x.fired.toNat) ∧ t.ttEntry e = { x with missed := 0, fired := 0 })

/-- R68, R69: an entry fires at its slot time, once for the latest of the slots that have passed, with its record read afresh; a firing
whose record fails a head check ends with its status; an overrunning one is dropped as SKIPPED, waits, or ends the previous launch
OVERRUN as RULE says, and not where a pre-emption of it was seen in an earlier clk; a waiting one becomes a candidate once nothing of the entry waits
or runs. That the table fires only in READY, and that the head checks come ahead of the overrun rule and a firing that fails one is not counted
(assumption log 42), and that a launch that has faulted ends FAULT at an ABORT firing (assumption log 43), are the model's choices. -/
def Clause.TimeTableFirings : Prop :=
  ∀ (e : Nat) (s : State),
    let x := s.ttEntry e
    let now := s.time13 / 13
    let p := Nat.max 10000 x.period.toNat
    let r := parseRecord (Memory.readN s.w0 (0x160000 + e * 0x200) 0x100)
    let busy : Prop := x.cand.isSome = true ∨ x.deferred.isSome = true ∨ ∃ n ∈ x.lids, (s.launch n).phase ≠ .saved
    let gone : Nat := if x.period = 0 ∨ now < x.next then 0 else (now - x.next) / p
    ((x.en = false ∨ s.out.ttTable = false ∨ s.mb.state ≠ .ready ∨ (∀ c, x.late = some c → s.clk < c) ∧ (x.late = none → now < x.next)) →
      exec (.ttFiring e) s = .next s) ∧
    (x.en = true → s.out.ttTable = true → s.mb.state = .ready →
      ((∃ c, x.late = some c ∧ c ≤ s.clk) ∨ x.late = none ∧ x.next ≤ now) →
      (∃ t, exec (.ttFiring e) s = .next t ∧
        (x.period = 0 → (t.ttEntry e).en = false) ∧
        (x.period ≠ 0 → (t.ttEntry e).en = true ∧ now < (t.ttEntry e).next ∧ (∃ k, (t.ttEntry e).next = x.start.toNat + k * p)
          ∧ ∀ k, now < x.start.toNat + k * p → (t.ttEntry e).next ≤ x.start.toNat + k * p)) ∧
      (∀ st d, s.headCheck r = some (st, d) → ∃ t c, exec (.ttFiring e) s = .next t ∧ t.records = s.records ++ [c] ∧ c.status = st
        ∧ c.detail = d ∧ c.src = 16 ∧ c.entry = e ∧ c.lid = 0xFF ∧ (t.ttEntry e).missed = x.missed + BitVec.ofNat 32 gone) ∧
      (s.headCheck r = none →
        (¬busy → ∃ t, exec (.ttFiring e) s = .next t ∧ (t.ttEntry e).cand = some r ∧ t.records = s.records
          ∧ (t.ttEntry e).missed = x.missed + BitVec.ofNat 32 gone) ∧
        (busy → (x.rule = 0 ∨ x.rule = 3 ∨ x.rule = 1 ∧ x.deferred.isSome = true) → ∃ t c, exec (.ttFiring e) s = .next t ∧
          t.records = s.records ++ [c] ∧ c.status = .skipped ∧ (t.ttEntry e).missed = x.missed + BitVec.ofNat 32 gone + 1 ∧
          (t.ttEntry e).cand = x.cand ∧ (t.ttEntry e).deferred = x.deferred ∧ t.launches = s.launches) ∧
        (busy → x.rule = 1 → x.deferred = none → ∃ t, exec (.ttFiring e) s = .next t ∧ (t.ttEntry e).deferred = some r ∧
          (t.ttEntry e).cand = x.cand ∧ t.records = s.records ∧ t.launches = s.launches) ∧
        (busy → x.rule = 2 → ∃ t, exec (.ttFiring e) s = .next t ∧ (t.ttEntry e).cand = some r ∧
          ∀ n ∈ x.lids, ∀ l, s.launch? n = some l → l.phase ≠ .saved →
            (l.fault = none → (∀ c, l.goAt = some c → s.clk ≤ c) → t.launch? n = none ∧
              ∃ c ∈ t.records, c.lid = n ∧ c.status = .overrun ∧ c.fault = none) ∧
            (∀ c f, l.fault = some (c, f) → t.launch? n = none ∧ (∃ a ∈ t.records, a.lid = n ∧ a.fault = some f) ∧
              ∃ b ∈ t.records, b.lid = n ∧ b.status = .fault ∧ b.fault = none) ∧
            (l.fault = none → (∃ c, l.goAt = some c ∧ c < s.clk) → (t.launch? n).isSome = true)))) ∧
    (∀ d, x.deferred = some d → x.cand = none →
      ((∃ n ∈ x.lids, (s.launch n).phase ≠ .saved) → exec (.ttDeferredCandidate e) s = .next s) ∧
      ((∀ n ∈ x.lids, (s.launch n).phase = .saved) → ∃ t, exec (.ttDeferredCandidate e) s = .next t ∧
        t.ttEntry e = { x with cand := some d, deferred := none }))

/-- R30, R31, R128, R216, R218: an access through W2 within a sector reaches (BASE << 36) + o in READY once the endpoint's port is free for it,
after the launches' accesses to its bytes that had come to their home before it; on a harvested column, an unassigned region, system space, a
reserved slice or outside READY a read is all ones, a write discarded, and ERR set; a write to a code unit is discarded and sets ERR; what was
written reads back, and nothing else changes outside the second tier. The model's choices: an access to the host region, or to a peer whose port
is down, is performed like any other (assumption log 47), so is one to a damaged sector (assumption log 81), and an access takes the flits of its
requests at the port (assumption log 106). -/
def Clause.HostAperture : Prop :=
  ∀ (off : Nat) (s : State),
    let pa := s.w2Base.toNat * 2 ^ 36 + off % 2 ^ 36
    let reach : Prop := s.mb.state = .ready ∧ s.paOk pa = true ∧
      ¬((paRegion pa = 1 ∨ paRegion pa = 4 ∧ pa / 2 ^ 42 % 2 = 0) ∧ 0x360000 ≤ pa % 2 ^ 22)
    let passed (v : State) : Prop := v.mem = s.mem ∧ v.cores = s.cores ∧ v.columns = s.columns ∧ v.edges = s.edges ∧ v.net = s.net
    let taken (v : State) (n : Nat) : Prop := passed v ∧ getAt 0 s.hostPlace v.ports = s.clk * s.galleryRate s.hostPlace + n
    (reach → s.hostFree 2 = false → ∀ len data, 0 < len → off % 64 + len ≤ 64 → data ≠ [] → off % 64 + data.length ≤ 64 →
      exec (.w2Read off len) s = .next s ∧ exec (.w2Write off data) s = .next s) ∧
    (∀ len, 0 < len → off % 64 + len ≤ 64 →
      (reach → s.hostFree 2 = true → ∃ t v, exec (.w2Read off len) s = .next t ∧ taken v 1 ∧ t.hostData = (v.settleAhead pa len).readHome pa len 0 ∧
        t.w2Err = s.w2Err ∧ t.mem = (v.settleAhead pa len).mem ∧
        ((paRegion pa = 0 ∨ paRegion pa = 3) → v.settleAhead pa len = v ∧ t.hostData = s.readHome pa len 0)) ∧
      (¬reach → ∃ t, exec (.w2Read off len) s = .next t ∧ t.hostData = List.replicate len 0xFF ∧ t.w2Err = true ∧ t.mem = s.mem)) ∧
    (∀ data : List Byte, data ≠ [] → off % 64 + data.length ≤ 64 → Memory.wf s.mem = true →
      ((¬reach ∨ s.hostFree 2 = true ∧ s.isCode pa = true) → ∃ t, exec (.w2Write off data) s = .next t ∧ t.w2Err = true ∧ t.mem = s.mem ∧
        t.tags = s.tags) ∧
      (reach → s.hostFree 2 = true → s.isCode pa = false → ∃ t v, exec (.w2Write off data) s = .next t ∧
        taken v (flitsOf (entriesFor data.length)) ∧ t.w2Err = s.w2Err ∧ t.readHome pa data.length 0 = data ∧
        ((paRegion pa = 0 ∨ paRegion pa = 3) → v.settleAhead pa data.length = v) ∧
        (paRegion pa ≠ 2 → ∀ x, (x < pa ∨ pa + data.length ≤ x) →
          Memory.read t.mem x = Memory.read (v.settleAhead pa data.length).mem x))) ∧
    (∀ (c : Nat) (r : Req) (v : List Byte), paRegion pa = 1 → (s.column (paCol pa)).table.map (fun x => x.req) = [r] → r.op = .store → r.done = none →
      r.pa = pa → r.len = 8 → r.data = v → v.length = 8 → r.mask = [] → s.isCode pa = false → s.damaged pa = false → c = 8 → reach → off % 64 + c ≤ 64 →
      s.hostFree 2 = true → Memory.wf s.mem = true → ∃ t, exec (.w2Read off c) s = .next t ∧ t.hostData = v) ∧
    (∀ v : W64, ∃ t, exec (.w2CtlWrite v) s = .next t ∧ t.w2Base = v.extractLsb' 36 16 ∧ t.w2Err = (s.w2Err && !v.getLsbD 1)
      ∧ t.mem = s.mem)

/-- R6, R7, R25, R41, R55, R62, R68, R272, R274, R275: an aligned 64-bit write of a register of W0 sets its writable fields and nothing else, or
does what its command does; a read-only or unassigned register ignores it, and an entry of a time-triggered table that is not fitted does; a queue
slot, a time-triggered record and the MSI-X table hold the bytes written. That the low six bits of CR_BASE are dropped (assumption log 48) and that bits [7:3] of
DBG_META are stored like the others (assumption log 70) are the model's choices. -/
def Clause.HostRegisters : Prop :=
  ∀ (v : W64) (s : State), s.powered = true →
    exec (.registerWrite 0x1000 8 v) s = .next { s with stepA := v.extractLsb' 0 16 } ∧
    exec (.registerWrite 0x1008 8 v) s = .next { s with alarm := s.alarm &&& ~~~(v.extractLsb' 16 16) } ∧
    exec (.registerWrite 0x2000 8 v) s = exec (.w2CtlWrite v) s ∧
    exec (.registerWrite 0x10008 8 v) s = .next { s with mb := { s.mb with img := v } } ∧
    exec (.registerWrite 0x10000 8 v) s = .next (s.command (v.extractLsb' 0 8) (v.extractLsb' 32 32)) ∧
    exec (.registerWrite 0x141000 8 v) s = .next { s with cmd := { s.cmd with crBase := v.extractLsb' 6 58 ++ 0#6 } } ∧
    exec (.registerWrite 0x141008 8 v) s = .next { s with cmd := { s.cmd with log2n := v.extractLsb' 0 5, crEn := v.getLsbD 8 } } ∧
    exec (.registerWrite 0x141010 8 v) s = .next { s with cmd := { s.cmd with crHead := v.extractLsb' 0 16 } } ∧
    (s.cmd.preGo = false → v.getLsbD 8 = true → exec (.registerWrite 0x142000 8 v) s = exec (.preempt (v.extractLsb' 0 8)) s) ∧
    exec (.registerWrite 0x143000 8 v) s =
      .next (s.writeDbgCtl (v.extractLsb' 8 8) (v.getLsbD 2) (v.getLsbD 1) (v.getLsbD 0)) ∧
    (let l := v.extractLsb' 40 20; let x := v.extractLsb' 37 3; let o := v.extractLsb' 31 6
     (v.extractLsb' 62 2 = 0 → exec (.registerWrite 0x143008 8 v) s = exec (.dbgRead l x o) s) ∧
     (v.extractLsb' 62 2 = 1 → exec (.registerWrite 0x143008 8 v) s = exec (.dbgWrite l x o) s) ∧
     (v.extractLsb' 62 2 = 2 → exec (.registerWrite 0x143008 8 v) s = exec (.dbgCancel l x o) s)) ∧
    exec (.registerWrite 0x143010 8 v) s = .next { s with cmd := { s.cmd with dbgData := s.cmd.dbgData.extractLsb' 64 64 ++ v } } ∧
    exec (.registerWrite 0x143018 8 v) s = .next { s with cmd := { s.cmd with dbgData := v ++ s.cmd.dbgData.extractLsb' 0 64 } } ∧
    (∀ n < 4, (∃ t, exec (.registerWrite (0x143040 + 16 * n) 8 v) s = .next t ∧ t = { s with cmd := { s.cmd with bps := t.cmd.bps } } ∧
        t.cmd.bp n = (v.extractLsb' 0 48, (s.cmd.bp n).2) ∧ ∀ m, m ≠ n → t.cmd.bp m = s.cmd.bp m) ∧
      ∃ t, exec (.registerWrite (0x143048 + 16 * n) 8 v) s = .next t ∧ t = { s with cmd := { s.cmd with bps := t.cmd.bps } } ∧
        t.cmd.bp n = ((s.cmd.bp n).1, v.getLsbD 63, v.getLsbD 62, v.extractLsb' 0 20) ∧ ∀ m, m ≠ n → t.cmd.bp m = s.cmd.bp m) ∧
    (∀ k < 4, ∃ t, exec (.registerWrite (0x10020 + 8 * k) 8 v) s = .next t ∧ t = { s with mb := { s.mb with nonce := t.mb.nonce } } ∧
      t.mb.nonce.extractLsb' (64 * k) 64 = v ∧ ∀ j < 4, j ≠ k → t.mb.nonce.extractLsb' (64 * j) 64 = s.mb.nonce.extractLsb' (64 * j) 64) ∧
    (∀ e < 256, let at_ := 0x160000 + 0x200 * e
      (s.out.ttTable = false → ∀ o < 64, exec (.registerWrite (at_ + 8 * o) 8 v) s = .next s) ∧
      (s.out.ttTable = true →
        (∃ t, exec (.registerWrite (at_ + 0x100) 8 v) s = .next t ∧ t.ttEntry e = { s.ttEntry e with start := v } ∧ t.mem = s.mem) ∧
        (∃ t, exec (.registerWrite (at_ + 0x108) 8 v) s = .next t ∧ t.ttEntry e = { s.ttEntry e with period := v } ∧ t.mem = s.mem) ∧
        (v.getLsbD 0 = true → exec (.registerWrite (at_ + 0x110) 8 v) s = exec (.ttArm e (v.extractLsb' 1 2)) s) ∧
        (v.getLsbD 0 = false → ∃ t, exec (.registerWrite (at_ + 0x110) 8 v) s = .next t ∧
          t.ttEntry e = { s.ttEntry e with rule := v.extractLsb' 1 2, en := false, late := none }) ∧
        exec (.registerWrite (at_ + 0x118) 8 v) s = .next s)) ∧
    exec (.registerWrite 0x143020 8 v) s = .next { s with cmd := { s.cmd with dbgMeta := v.extractLsb' 0 32 } } ∧
    (∀ q < 16, v.getLsbD 17 = false → v.getLsbD 18 = false →
      exec (.registerWrite (0x140000 + 8 * q) 8 v) s = exec (.doorbell q (v.extractLsb' 0 6)) s) ∧
    (∀ off, off % 8 = 0 → (0x100000 ≤ off ∧ off < 0x140000 ∨ 0xF00000 ≤ off ∧ off < 0x1000000 ∨
      s.out.ttTable = true ∧ 0x160000 ≤ off ∧ off < 0x180000 ∧ off % 0x200 < 0x100) → Memory.wf s.w0 = true → ∃ t, exec (.registerWrite off 8 v) s = .next t ∧
      Memory.readN t.w0 off 8 = natBytes 8 v.toNat ∧ (∀ x, (x < off ∨ off + 8 ≤ x) → Memory.read t.w0 x = Memory.read s.w0 x) ∧
      t.mem = s.mem ∧ t.queues = s.queues) ∧
    (∀ off, off % 8 = 0 → (off = 0x8 ∨ off = 0x10 ∨ 0x100 ≤ off ∧ off < 0x200 ∨ off = 0x10010 ∨ 0x11000 ≤ off ∧ off < 0x20000 ∨
      0x20000 ≤ off ∧ off < 0x100000 ∨ 0x180000 ≤ off ∧ off < 0xF00000) → exec (.registerWrite off 8 v) s = .next s)

/-- R269, R272–R274, Table 13-4: within a session HALT halts the launch and its clearing resumes it, or tears a frozen one down with its fault
and completion records; outside one HALT is ignored and reads 0; LID is kept while ARMED is 1; a breakpoint halts the launch only while
armed, as a context is about to issue its instruction and before it does. A limit that is reached in the clk of the halt faults first (R269).
That HALT acts in a write that clears ARMED too, and that a context resumed at a breakpoint halts there again, are the model's reading
(assumption log 45). -/
def Clause.DebugHalts : Prop :=
  (∀ (lid : BitVec 8) (fhalt armed : Bool) (s : State),
    let k := if s.cmd.dbgArmed then s.cmd.dbgLid else lid
    let n := k.toNat
    let noLimit : Prop := ∀ p x, (s.core p).who.1 = n → s.limitLeft p x ≠ some 0
    let regs (t : State) : Prop := t.cmd.dbgLid = k ∧ t.cmd.dbgFhalt = fhalt ∧ t.cmd.dbgArmed = armed
    (s.cmd.dbgArmed = false → armed = false → ∃ t, exec (.debugHalt lid fhalt armed) s = .next t ∧ regs t ∧ t.cmd.dbgHalt = false ∧
      t.launches = s.launches ∧ t.cores = s.cores) ∧
    ((s.cmd.dbgArmed = true ∨ armed = true) → ∀ l, s.launch? n = some l →
      (l.phase ≠ .saved → l.halted = none → ∃ t, exec (.debugHalt lid fhalt armed) s = .next t ∧ regs t ∧ t.cmd.dbgHalt = true ∧
        (t.launch n).halted = some s.clk ∧ (noLimit → (t.launch n).fault = l.fault) ∧ t.mem = s.mem ∧ t.net = s.net) ∧
      (∀ p x k, l.phase ≠ .saved → l.halted = none → l.fault = none → l.frozen = false → (p, x) ∈ s.tasked → (s.core p).who.1 = n →
        ((s.core p).ctx x).task = some k → k.lid = n → s.limitLeft p x = some 0 → ∃ t f, exec (.debugHalt lid fhalt armed) s = .next t ∧
          (t.launch n).fault = some (s.clk, f) ∧ (f.cls = clsTaskLimit ∨ f.cls = clsHandlerLimit)) ∧
      (l.frozen = false → l.halted.isSome = true → ∃ t, exec (.debugResume lid fhalt armed) s = .next t ∧ regs t ∧
        t.cmd.dbgHalt = false ∧ (t.launch n).halted = none ∧ t.mem = s.mem ∧ t.net = s.net) ∧
      (∀ c f, l.frozen = true → l.fault = some (c, f) → ∃ t a b, exec (.debugTeardown lid fhalt armed) s = .next t ∧
        t.launch? n = none ∧ t.records = s.records ++ [a, b] ∧ a.fault = some f ∧ a.status = .fault ∧ a.lid = n ∧ b.fault = none ∧
        b.status = .fault ∧ b.lid = n ∧ b.tag = l.record.tag))) ∧
  (∀ (core ctx lid i : Nat) (s : State), (s.core core).role = .host lid .compute i → (s.launch? lid).isSome = true →
    (s.launch lid).live = true →
    let hit : Prop := s.cmd.dbgArmed = true ∧ s.cmd.dbgLid.toNat = lid ∧ ∃ b ∈ s.cmd.bps, b.2.2.1 = true ∧
      b.2.1 = ((s.core core).ctx ctx).pc ∧ (b.2.2.2.1 = true ∨ b.2.2.2.2.toNat = i)
    ((¬hit ∨ s.aboutToIssue core ctx = false) → exec (.breakpointHalt core ctx) s = .next s) ∧
    (hit → s.aboutToIssue core ctx = true → ∃ t, exec (.breakpointHalt core ctx) s = .next t ∧ (t.launch lid).halted = some s.clk ∧
      ((∀ p x, (s.core p).who.1 = lid → s.limitLeft p x ≠ some 0) → (t.launch lid).fault = (s.launch lid).fault) ∧
      ((t.core core).ctx ctx).pc = ((s.core core).ctx ctx).pc ∧ ((t.core core).ctx ctx).regs = ((s.core core).ctx ctx).regs))

/-- R275, Table 13-5: an access to a register of a launch that is neither halted nor frozen is NOT_HALTED, one that names no register
BADSEL, and both change nothing else; READ shows value, code, ticket, tag and state, zero for a value that is not FULL; WRITE sets the
register, POISONED under META's state 2, and is refused PENDING; CANCEL makes a PENDING register POISONED DEBUGCANCEL and its ticket delivers nowhere, and otherwise reads;
the same for a register of the twin window. A code that Table 9-5 does not list is stored as DEBUGCANCEL, the model's choice (log 65). -/
def Clause.DebugAccess : Prop :=
  ∀ (l : BitVec 20) (ctx : BitVec 3) (opnd : BitVec 6) (s : State),
    let k := s.launch s.cmd.dbgLid.toNat
    let n := opnd.toNat
    let x := ctx.toNat
    let kept (t : State) : Prop := t.cores = s.cores ∧ t.columns = s.columns ∧ t.cmd.dbgData = s.cmd.dbgData ∧ t.cmd.dbgMeta = s.cmd.dbgMeta
    let code := s.cmd.dbgMeta.extractLsb' 24 8
    let written (w : Reg) : Prop :=
      (s.cmd.dbgMeta.extractLsb' 0 2 = 2 → w.state = .poisoned ∧ w.read = {} ∧
        w.code = if 1 ≤ code.toNat ∧ code.toNat ≤ 10 then code else 0x09) ∧
      (s.cmd.dbgMeta.extractLsb' 0 2 ≠ 2 → w.state = .full ∧ w.read = ⟨s.cmd.dbgData, s.cmd.dbgMeta.getLsbD 2⟩)
    let all3 : List Instr := [.dbgRead l ctx opnd, .dbgWrite l ctx opnd, .dbgCancel l ctx opnd]
    (k.halted = none → k.frozen = false → ∀ i ∈ all3, ∃ t, exec i s = .next t ∧ t.cmd.selStatus = 1 ∧ kept t) ∧
    ((k.halted.isSome = true ∨ k.frozen = true) →
      ((k.hostOf .compute l.toNat = none ∨ n < 32 ∧ 5 ≤ x ∨ 32 ≤ n ∧ n < 40 ∨ 48 ≤ n) →
        ∀ i ∈ all3, ∃ t, exec i s = .next t ∧ t.cmd.selStatus = 3 ∧ kept t) ∧
      (∀ p₀ p, k.hostOf .compute l.toNat = some p₀ → p = s.nowAt p₀ → n < 32 → x ≤ 4 →
        let r := ((s.core p).ctx x).reg n
        let shown (t : State) : Prop := t.cmd.selStatus = 0 ∧ t.cmd.dbgData = r.read.v ∧ t.cmd.dbgMeta.extractLsb' 24 8 = r.code ∧
          t.cmd.dbgMeta.extractLsb' 8 16 = r.ticket ∧ t.cmd.dbgMeta.getLsbD 2 = r.tag ∧
          t.cmd.dbgMeta.extractLsb' 0 2 = (match r.state with | .full => 0#2 | .pending => 1#2 | .poisoned => 2#2)
        (∃ t, exec (.dbgRead l ctx opnd) s = .next t ∧ shown t ∧ t.cores = s.cores) ∧
        (r.state = .pending → ∃ t, exec (.dbgWrite l ctx opnd) s = .next t ∧ t.cmd.selStatus = 2 ∧ kept t) ∧
        (r.state ≠ .pending → ∃ t w, exec (.dbgWrite l ctx opnd) s = .next t ∧ t.cmd.selStatus = 0 ∧ ((t.core p).ctx x).reg n = w ∧
          written w ∧
          ∀ j, j ≠ n → ((t.core p).ctx x).reg j = ((s.core p).ctx x).reg j) ∧
        (r.state = .pending → ∃ t, exec (.dbgCancel l ctx opnd) s = .next t ∧ t.cmd.selStatus = 0 ∧
          ((t.core p).ctx x).reg n = Reg.poison 0x09 ∧ ∀ e ∈ (t.core p).tickets, e.t = r.ticket → e.loc ≠ .gpr p x n) ∧
        (r.state ≠ .pending → ∃ t, exec (.dbgCancel l ctx opnd) s = .next t ∧ shown t ∧ t.cores = s.cores)) ∧
      (∀ p₀ p, k.hostOf .compute l.toNat = some p₀ → p = s.nowAt p₀ → 40 ≤ n → n < 48 → ((s.column (colOf p)).twin (n - 40)).wclk ≠ some s.clk →
        let r := s.regAt p 0 n
        let now (t : State) : Reg := ((t.column (colOf p)).twin (n - 40)).cur
        (∃ t, exec (.dbgRead l ctx opnd) s = .next t ∧ t.cmd.selStatus = 0 ∧ t.cmd.dbgData = r.read.v ∧ t.columns = s.columns) ∧
        (r.state = .pending → ∃ t, exec (.dbgWrite l ctx opnd) s = .next t ∧ t.cmd.selStatus = 2 ∧ kept t) ∧
        (r.state ≠ .pending → ∃ t, exec (.dbgWrite l ctx opnd) s = .next t ∧ t.cmd.selStatus = 0 ∧ written (now t)) ∧
        (r.state = .pending → ∃ t, exec (.dbgCancel l ctx opnd) s = .next t ∧ t.cmd.selStatus = 0 ∧ now t = Reg.poison 0x09)))

/-- R41–R44, R52: power-up starts from the boot ROM with nothing of what power keeps and zero memory; without power nothing is kept either;
an I3C reset does the same; an OP that names no command ends with BAD_OP, vector 63 and STATE as it was; a write
while BUSY is 1 is ignored. The model's choices: memory reads zero after power-up (assumption log 7), an I3C reset leaves device time and its lock (assumption log 44), and a command
that ends BAD_OP leaves its OP and ARG and clears RLOST (assumption log 69). -/
def Clause.PowerAndCommands : Prop :=
  ∀ (op : BitVec 8) (arg : BitVec 32) (s : State),
    let cold (t : State) : Prop := t.mb = {} ∧ t.launches = [] ∧ t.cores = [] ∧ t.columns = [] ∧ t.net = [] ∧ t.tags = [] ∧ t.queues = []
      ∧ t.tt = [] ∧ t.lineKeys = [] ∧ t.keyEpoch = s.keyEpoch + 1 ∧ t.out = s.out ∧ t.stepA = 0x04B0
      ∧ ∀ x, Memory.read t.mem x = if paRegion x < 3 then 0 else Memory.read s.mem x
    (∃ t, exec .powerUp s = .next t ∧ cold t ∧ t.powered = true ∧ t.timeLocked = false) ∧
    (∃ t, exec .powerLoss s = .next t ∧ cold t ∧ t.powered = false) ∧
    (s.powered = false → exec .i3cReset s = .next s ∧ ∀ i ∈ [Instr.report, .turnover, .loadImage arg], exec i s = .next s) ∧
    (s.powered = true → ∃ t, exec .i3cReset s = .next t ∧ cold t ∧ t.powered = true ∧ t.clk = s.clk ∧ t.time13 = s.time13 ∧
      t.timeLocked = s.timeLocked) ∧
    (s.mb.busy = true → ∀ i ∈ [Instr.report, .turnover, .loadImage arg], exec i s = .next s) ∧
    (¬(1 ≤ op.toNat ∧ op.toNat ≤ 3) →
      (s.mb.busy = true → exec (.badOp op arg) s = .next s) ∧
      (s.mb.busy = false → s.powered = true → ∃ t, exec (.badOp op arg) s = .next t ∧ t.mb.result = .badOp ∧ t.mb.state = s.mb.state ∧
        t.mb.busy = false ∧ t.mb.rlost = false ∧ t.msix = 63 :: s.msix ∧ t.mb.op = op ∧ t.mb.arg = arg ∧ t.launches = s.launches ∧
        t.mem = s.mem)) ∧
    (s.mb.busy = false → s.powered = true → s.mb.state ≠ .ready → ∀ i ∈ [Instr.report, .turnover], ∃ t, exec i s = .next t ∧
      t.mb.result = .busy ∧ t.mb.state = s.mb.state ∧ t.msix = 63 :: s.msix ∧ t.mem = s.mem)

/-- R44–R48, Table 3-5: in ROM_WAIT and HALTED, LOAD_IMAGE refuses an image past 16 MiB, one whose read fails or one that fails its checks with IMAGE_BAD; a good
one is measured, a new BOOTID drawn, a free value, and TURNS zero; a key other than the certificate's ends HALTED with ID_FAIL; else the module
is wiped, its harvest map and grade measured again, and READY. That the image is read from the low 48 bits of MB_IMG on, and GRADE is 0 after a boot that fails, is the model's choice
(assumption log 69). -/
def Clause.Boots : Prop :=
  ∀ (arg : BitVec 32) (s : State), s.mb.busy = false → s.powered = true → (s.mb.state = .romWait ∨ s.mb.state = .halted) →
    let img := Memory.readN s.mem (3 * 2 ^ 48 + s.mb.img.toNat % 2 ^ 48) arg.toNat
    let fits : Bool := decide (arg.toNat ≤ 0x1000000) && !s.out.hostReadError && imageGood img
    let known : Bool := decide (publicKey s.out.identity = s.out.certKey)
    ∃ t, exec (.loadImage arg) s = .next t ∧ t.msix = 63 :: s.msix ∧ t.mb.busy = false ∧
      t.mb.result = (if !fits then .imageBad else if known then .ok else .idFail) ∧
      t.mb.state = (if !fits then .romWait else if known then .ready else .halted) ∧
      ((fits && known) = false → t.mb.grade = 0 ∧ t.mb.featuresBuilt = false) ∧
      ((fits && known) = true → t.mb.turns = 0 ∧ t.mb.measure = digest img ∧ t.mb.idOk = true ∧ t.mb.featuresBuilt = true ∧
        t.mb.bootId = Config.draw64 s.free ∧ t.mb.grade = s.measure.mb.grade ∧ t.mb.badCols = s.measure.mb.badCols ∧ t.launches = [] ∧ t.cores = [] ∧ t.tags = [] ∧ t.lineKeys = [] ∧ t.keyEpoch = s.keyEpoch + 1 ∧
        ∀ x, paRegion x < 3 → Memory.read t.mem x = 0)

/-- R43, R49–R52, Table 3-6: step 1 of a turnover ends active launches (FAULT where one has faulted), queued records and saved launches in that
order and clears queues and table; the command waits until its records are written, or dropped with RLOST when their budget ends; then everything a tenant
left is zero, the keys are new, the harvest map and the grade are measured again, no entry of the table is armed, no throttle runs, TURNS goes on and
BOOTID, time and firmware stay. That a launch that has faulted ends FAULT, and
that records older than the command wait and are dropped with it, are the model's choices (assumption log 43). -/
def Clause.Turnovers : Prop :=
  (∀ s : State, s.mb.busy = false → s.powered = true → s.mb.state = .ready → (s.launches.map (fun e => e.1)).Pairwise (· < ·) →
    (∀ e ∈ s.launches, ∀ p ∈ e.2.cores, ∃ k i, (s.core p).role = .host e.1 k i) → s.launches ≠ [] → ∀ arg : BitVec 32,
    let part (saved : Bool) : List (Nat × Launch) := s.launches.filter (fun e => decide (e.2.phase = .saved) == saved)
    let step1 (t : State) (st : BootState) : Prop := ∃ a b c, t.records = s.records ++ a ++ b ++ c ∧
      a.map (fun r => (r.lid, r.status, r.fault)) = (part false).flatMap (fun e => match e.2.fault with
        | some f => [(e.1, Status.fault, some f.2), (e.1, Status.fault, none)]
        | none => [(e.1, Status.turnover, none)]) ∧ (∀ r ∈ b, r.status = .cancelled ∧ r.lid = 0xFF) ∧
      c.map (fun r => (r.lid, r.status)) = (part true).map (fun e => (e.1, Status.saveLost)) ∧ t.launches = [] ∧ t.queues = [] ∧ t.tt = [] ∧
      t.mb.state = st ∧ t.mb.busy = true ∧ t.mb.budgetEnd = s.clk + 13000000
    (∃ t, exec .turnover s = .next t ∧ step1 t .turnover) ∧ (∃ t, exec (.loadImage arg) s = .next t ∧ step1 t .booting)) ∧
  (∀ s : State,
    ((s.mb.waiting = none ∨ s.clk < s.mb.budgetEnd) → exec .turnoverRecordBudgetExpiry s = .next s) ∧
    (s.mb.waiting = some .turnover → s.mb.budgetEnd ≤ s.clk → digest s.mb.image = s.mb.measure →
      ∃ t, exec .turnoverRecordBudgetExpiry s = .next t ∧ t.records = [] ∧ t.mb.rlost = (s.mb.rlost || !s.records.isEmpty) ∧
        t.mb.state = .ready ∧ t.mb.result = .ok ∧ t.mb.busy = false ∧ t.mb.turns = s.mb.turns + 1 ∧ t.mb.bootId = s.mb.bootId ∧
        t.mb.measure = s.mb.measure ∧ t.mb.grade = s.measure.mb.grade ∧ t.mb.badCols = s.measure.mb.badCols ∧
        (∀ e ∈ t.tt, e.2.en = false ∧ e.2.rule = 0 ∧ e.2.cand = none ∧ e.2.deferred = none ∧ e.2.lids = []) ∧
        (∀ g, t.halved g = false) ∧ t.time13 = s.time13 ∧ t.timeLocked = s.timeLocked ∧ t.launches = [] ∧ t.cores = [] ∧
        t.columns = [] ∧ t.edges = [] ∧ t.net = [] ∧ t.tags = [] ∧ t.lineKeys = [] ∧ t.keyEpoch = s.keyEpoch + 1 ∧ t.codeMarks = [] ∧
        t.w2Base = 0 ∧ t.stepA = 0x04B0 ∧ t.mb.ideUp = false ∧ t.msix = 63 :: s.msix ∧
        ∀ x, Memory.read t.mem x = if paRegion x < 3 then 0 else Memory.read s.mem x) ∧
    (s.mb.waiting = some .turnover → s.mb.budgetEnd ≤ s.clk → digest s.mb.image ≠ s.mb.measure →
      ∃ t, exec .turnoverRecordBudgetExpiry s = .next t ∧ t.mb.state = .romWait ∧ t.mb.result = .imageBad ∧ t.mb.turns = s.mb.turns ∧
        ∀ x, paRegion x < 3 → Memory.read t.mem x = 0))

/-- R16–R18, R138: self-test puts every dead router into a rectangle of its layer, whose sides dead routers lie on and which is at least 3 columns or
3 rows away from every other of its layer; it takes every column inside one, every column that fails, and then every exposed one that fails
the health test; the grade is A where every hall row has 15 columns left, else B where each has 14, else NONE; each hall row exposes that many, up to 15
on grade NONE, those of the lowest x. -/
def Clause.SelfTests : Prop :=
  (∀ dead : List Nat, let rs := finalRects dead
    (∀ p ∈ dead, ∃ x0 y0 x1 y1, (placeZ p, x0, y0, x1, y1) ∈ rs ∧ x0 ≤ placeX p ∧ placeX p ≤ x1 ∧ y0 ≤ placeY p ∧ placeY p ≤ y1) ∧
    (∀ z x0 y0 x1 y1, (z, x0, y0, x1, y1) ∈ rs → (∃ p ∈ dead, placeZ p = z ∧ placeX p = x0) ∧ (∃ p ∈ dead, placeZ p = z ∧ placeX p = x1) ∧
      (∃ p ∈ dead, placeZ p = z ∧ placeY p = y0) ∧ ∃ p ∈ dead, placeZ p = z ∧ placeY p = y1) ∧
    rs.Pairwise (fun a b => a.1 = b.1 → a.2.2.2.1 + 3 ≤ b.2.1 ∨ b.2.2.2.1 + 3 ≤ a.2.1 ∨ a.2.2.2.2 + 3 ≤ b.2.2.1 ∨ b.2.2.2.2 + 3 ≤ a.2.2.1)) ∧
  (∀ (rs : List Rect) (x y : Nat), x < 512 → y < 512 →
    let inside : Prop := ∃ r ∈ rs, r.2.1 ≤ x ∧ x ≤ r.2.2.2.1 ∧ r.2.2.1 ≤ y ∧ y ≤ r.2.2.2.2
    (inside → x * 512 + y ∈ rectColumns rs) ∧
    ((∀ r ∈ rs, (r.2.2.1 ≠ 0 ∨ r.2.2.2.2 ≠ 511) ∧ (r.2.1 ≠ 0 ∨ r.2.2.2.1 ≠ 511)) → x * 512 + y ∈ rectColumns rs → inside)) ∧
  (∀ s : State, let t := s.measure
    let bad := s.out.badColumns ++ rectColumns (finalRects s.out.deadRouters)
    let u : State := { s with mb := { s.mb with badCols := some bad, mapGrade := measureGrade bad } }
    let fails := s.out.unhealthy.filter u.exposedCol
    let left (b : List Nat) (hx y : Nat) : Nat := ((List.range 16).filter (fun i => decide ((16 * hx + i) * 512 + y ∉ b))).length
    let every (n : Nat) (b : List Nat) : Prop := ∀ hx < 32, ∀ y < 512, n ≤ left b hx y
    t.mb.badCols = some (bad ++ fails) ∧ t.mb.rects = finalRects s.out.deadRouters ∧ t.mb.healthFails = BitVec.ofNat 32 fails.length ∧
    t.mb.mapGrade = t.mb.grade ∧ (every 15 (bad ++ fails) → t.mb.grade = 0x0A) ∧
    (¬every 15 (bad ++ fails) → every 14 (bad ++ fails) → t.mb.grade = 0x0B) ∧ (¬every 14 (bad ++ fails) → t.mb.grade = 0) ∧
    ∀ hx < 32, ∀ y < 512, let xs := t.exposedXs hx y
      xs.Pairwise (· < ·) ∧ xs.length = (if t.mb.grade = 0x0A then 15 else if t.mb.grade = 0x0B then 14 else Nat.min 15 (left (bad ++ fails) hx y)) ∧
      ∀ x ∈ xs, 16 * hx ≤ x ∧ x < 16 * hx + 16 ∧ x * 512 + y ∉ bad ++ fails ∧
        ∀ w, 16 * hx ≤ w → w < x → w * 512 + y ∉ bad ++ fails → w ∈ xs)

/-- R53, Table 3-7: in READY a report holds, little-endian, its version and length, the nonce, the time, TURNS, the grade, the flags, the
count of exposed columns, the measurement, the security version, the harvest map's digest, the alias key and BOOTID, and is followed by the
alias key's signature of those bytes, whose nonce is a free value. -/
def Clause.Reports : Prop :=
  ∀ s : State, s.mb.busy = false → s.powered = true → s.mb.state = .ready →
    ∃ t, exec .report s = .next t ∧ t.mb.result = .ok ∧ t.mb.state = .ready ∧ t.mb.busy = false ∧ t.msix = 63 :: s.msix ∧ t.mem = s.mem ∧
      t.launches = s.launches ∧
      let field (o n : Nat) : List Byte := (t.mb.report.drop o).take n
      field 0 2 = natBytes 2 1 ∧ field 2 2 = natBytes 2 0x120 ∧ field 8 32 = natBytes 32 s.mb.nonce.toNat ∧
      field 0x28 8 = natBytes 8 s.time.toNat ∧ field 0x30 8 = natBytes 8 s.mb.turns.toNat ∧ field 0x38 1 = natBytes 1 s.mb.grade.toNat ∧
      field 0x39 1 = natBytes 1 ((if s.timeLocked then 1 else 0) + (if s.out.tierCrypt then 2 else 0) + (if s.mb.idOk then 4 else 0)) ∧
      field 0x3A 2 = [0, 0] ∧ field 0x3C 4 = natBytes 4 s.exposedAll.length ∧ field 0x40 32 = natBytes 32 s.mb.measure.toNat ∧
      field 0x60 4 = natBytes 4 s.mb.secver.toNat ∧ field 0x64 4 = natBytes 4 s.mb.healthFails.toNat ∧
      field 0x68 32 = sha256 s.harvestBytes ∧ field 0x98 64 = keyBytes (publicKey s.mb.aliasPriv.toNat) ∧ field 0xD8 8 = natBytes 8 s.mb.bootId.toNat ∧
      let sig := ecdsaSign s.mb.aliasPriv.toNat (digestInt (field 0 0xE0)) (Config.ecdsaNonce s.free)
      field 0xE0 64 = natBytes 32 sig.1 ++ natBytes 32 sig.2 ∧ t.mb.report.length = 0x120

/-- R21, R22, R26, R35, R37, R98, R99, R465: an alarm halves its group's clock for 4,096 clk from the next one, whatever ran before, and sets
its ALARM bit; a wait that is running then lasts twice what is left of it, and half of what is left from the throttle's end, which comes
no sooner; neither changes the group's clk counted; the governor gates a hall by its temperature; a trip, or a reading of 105 degrees or more, is THERMAL
in every launch on the hall; a correction of more than 1 ms steps device time forward, one below is slewed; a port goes down. -/
def Clause.ClocksAndSensors : Prop :=
  (∀ (g : Nat) (s : State), g < 16 →
    (∃ t, exec (.droopAlarm g) s = .next t ∧ (t.group g).until_ = some (s.clk + 1 + 4096) ∧ t.halved g = true ∧
      t.alarm = s.alarm ||| BitVec.ofNat 16 (2 ^ g) ∧ (∀ h, h ≠ g → t.group h = s.group h) ∧ t.groupClk g = s.groupClk g ∧ t.mem = s.mem ∧
      (∀ p, groupOf p ≠ g → t.core p = s.core p) ∧
      ∀ p x k, groupOf p = g → ((s.core p).ctx x).park = some (.untilClk k) → s.clk < k →
        ((t.core p).ctx x).park = some (.untilClk (if s.halved g then k else 2 * k - (s.clk + 1)))) ∧
    (∀ u, (s.group g).until_ = some u → s.clk < u → exec (.throttleEnd g) s = .next s) ∧
    (∀ u, (s.group g).until_ = some u → u ≤ s.clk → ∃ t, exec (.throttleEnd g) s = .next t ∧ t.halved g = false ∧
      t.throttleEnded = some s.clk ∧ t.groupClk g = s.groupClk g ∧ (∀ h, h ≠ g → t.group h = s.group h) ∧
      (∀ p, groupOf p ≠ g → t.core p = s.core p) ∧
      ∀ p x k, groupOf p = g → ((s.core p).ctx x).park = some (.untilClk k) → s.clk ≤ k →
        ((t.core p).ctx x).park = some (.untilClk (s.clk + (k - s.clk + 1) / 2)))) ∧
  (∀ (h c : Nat) (s : State), h < 1024 →
    let trips (t : State) : Prop := ∀ lid l, s.launch? lid = some l → l.phase ≠ .saved →
      l.fault = none → l.frozen = false → (h ∈ s.launchHalls lid → ∃ f, (t.launch lid).fault = some (s.clk, f) ∧ f.cls = 0x11 ∧
        f.async = true ∧ f.l = 0 ∧ f.ctx = 7 ∧ f.detail = BitVec.ofNat 64 (h % 32 * 32 + h / 32))
    (∃ t, exec (.governorGate h c) s = .next t ∧ (t.hall h).temp = c ∧ t.cores = s.cores ∧ (c < 105 → t.launches = s.launches) ∧
      (105 ≤ c → (s.launches.map (fun e => e.1)).Nodup → trips t) ∧
      (100 ≤ c → (t.hall h).gating = 4) ∧ (95 < c → c < 100 → (t.hall h).gating = if (s.hall h).gate100 then 4 else 2) ∧
      (c = 95 → (t.hall h).gating = 2) ∧ (90 < c → c < 95 → (t.hall h).gating = if (s.hall h).gate95 then 2 else 1) ∧
      (c ≤ 90 → (t.hall h).gating = 1)) ∧
    (∃ t, exec (.thermalTrip h) s = .next t ∧ 105 ≤ (t.hall h).temp ∧ ((s.launches.map (fun e => e.1)).Nodup → trips t))) ∧
  (∀ (d : Int) (s : State),
    (1000000 < d → s.slew = 0 → ∃ t, exec (.timeCorrection d) s = .next t ∧ t.timeLocked = true ∧
      (t.time13 : Int) = s.time13 + 13 * d ∧ t.slew = 0) ∧
    (d < 1000000 → s.slew = 0 → ∃ t, exec (.timeCorrection d) s = .next t ∧ t.timeLocked = true ∧ t.time13 = s.time13 ∧ t.slew = 13 * d) ∧
    exec .timeLockLoss s = .next { s with timeLocked := false } ∧
    ∀ p < 32, ∃ t, exec (.peerPortDown p) s = .next t ∧ t.peerUp p = false ∧ (∀ q, q ≠ p → t.peerUp q = s.peerUp q) ∧ t.net = s.net)

/-- R41–R44, R50–R53: power comes and goes, an I3C reset starts the boot ROM, and each management command completes: a report in READY, a
turnover and a LOAD_IMAGE that end the tenancy, a LOAD_IMAGE of a good image on a module whose identity holds, an OP that names no
command, and a turnover whose budget for records has run out. That an I3C reset leaves device time (assumption log 44) and where LOAD_IMAGE reads its
image (assumption log 69) are the model's choices. -/
def Clause.PowerEventsComplete : Prop :=
  ∀ (op : BitVec 8) (arg : BitVec 32) (s : State),
    (∃ t, exec .powerUp s = .next t ∧ t.powered = true ∧ t.mb.state = .romWait ∧ t.launches = []) ∧
    (∃ t, exec .powerLoss s = .next t ∧ t.powered = false ∧ t.launches = []) ∧
    (s.powered = true → ∃ t, exec .i3cReset s = .next t ∧ t.mb.state = .romWait ∧ t.launches = [] ∧ t.time13 = s.time13) ∧
    (s.powered = true → s.mb.busy = false →
      (s.mb.state = .ready →
        (∃ t, exec .report s = .next t ∧ t.mb.result = .ok ∧ t.mb.state = .ready ∧
          (t.mb.report.drop 8).take 32 = natBytes 32 s.mb.nonce.toNat) ∧
        (∃ t, exec .turnover s = .next t ∧ t.launches = [] ∧ t.queues = [] ∧ t.tt = []) ∧
        (∃ t, exec (.loadImage arg) s = .next t ∧ t.launches = [] ∧ t.queues = [] ∧ t.tt = [])) ∧
      ((s.mb.state = .romWait ∨ s.mb.state = .halted) →
        let fits : Bool := decide (arg.toNat ≤ 0x1000000) && !s.out.hostReadError && imageGood (s.hostImage s.mb.img arg.toNat)
        let known : Bool := decide (publicKey s.out.identity = s.out.certKey)
        ∃ t, exec (.loadImage arg) s = .next t ∧ t.mb.busy = false ∧
          t.mb.state = (if fits && known then .ready else if fits then .halted else .romWait)) ∧
      (op.toNat = 0 ∨ 3 < op.toNat → ∃ t, exec (.badOp op arg) s = .next t ∧ t.mb.result = .badOp ∧ t.mb.state = s.mb.state)) ∧
    (s.mb.waiting = some .turnover → s.mb.budgetEnd ≤ s.clk → digest s.mb.image = s.mb.measure →
      ∃ t, exec .turnoverRecordBudgetExpiry s = .next t ∧ t.records = [] ∧ t.mb.state = .ready ∧ t.mb.result = .ok)

/-- R21, R22, R26, R30, R31, R35, R37, R98: the clock, sensor and host-access events complete: a correction locks device time and a lock is
lost, a port goes down, an alarm halves a group and its throttle ends, a hall's sensor reads and trips, and the host writes a register
and reads and writes through W2 when the endpoint's port is free, a damaged sector like any other (the model's choice, assumption log 81). -/
def Clause.ClockAndHostEventsComplete : Prop :=
  ∀ (n g h c off : Nat) (d : Int) (v : W64) (data : List Byte) (s : State),
    (∃ t, exec (.timeCorrection d) s = .next t ∧ t.timeLocked = true ∧ s.time13 ≤ t.time13) ∧
    (∃ t, exec .timeLockLoss s = .next t ∧ t.timeLocked = false) ∧
    (n < 32 → ∃ t, exec (.peerPortDown n) s = .next t ∧ t.peerUp n = false) ∧
    (g < 16 → ∃ t, exec (.droopAlarm g) s = .next t ∧ t.halved g = true ∧ t.alarm = s.alarm ||| BitVec.ofNat 16 (2 ^ g)) ∧
    (∀ u, (s.group g).until_ = some u → u ≤ s.clk → ∃ t, exec (.throttleEnd g) s = .next t ∧ t.halved g = false) ∧
    (h < 1024 → (∃ t, exec (.governorGate h c) s = .next t ∧ (t.hall h).temp = c ∧ (c ≤ 90 → (t.hall h).gating = 1)) ∧
      ∃ t, exec (.thermalTrip h) s = .next t ∧ 105 ≤ (t.hall h).temp) ∧
    (s.powered = true → ∃ t, exec (.registerWrite 0x1000 8 v) s = .next t ∧ t.stepA = v.extractLsb' 0 16) ∧
    (∃ t, exec (.w2CtlWrite v) s = .next t ∧ t.w2Base = v.extractLsb' 36 16) ∧
    (let pa := s.w2Base.toNat * 2 ^ 36 + off % 2 ^ 36
     s.mb.state = .ready → paRegion pa = 0 → s.paOk pa = true → s.hostFree 2 = true →
      (∀ len, 0 < len → off % 64 + len ≤ 64 → ∃ t, exec (.w2Read off len) s = .next t ∧ t.hostData = s.readHome pa len 0) ∧
      (data ≠ [] → off % 64 + data.length ≤ 64 → Memory.wf s.mem = true → s.isCode pa = false →
        ∃ t, exec (.w2Write off data) s = .next t ∧ t.readHome pa data.length 0 = data))

/-- R55–R72: the events of launches complete: a doorbell that adds records, a flush, a latch, a start, a stagger step and an end; an entry of
the table that is armed, fires, comes out of deferral and has its counters read; a record written; a pre-emption and its save. -/
def Clause.LaunchEventsComplete : Prop :=
  ∀ (q e n : Nat) (s : State),
    let k := s.queue q
    let r := parseRecord (s.slotBytes q k.head.toNat)
    let x := s.ttEntry e
    (∀ tail, q < 16 → s.mb.state = .ready → k.tail - k.head ≤ tail - k.head →
      ∃ t, exec (.doorbell q tail) s = .next t ∧ t.queue q = { k with tail := tail }) ∧
    (q < 16 → ∃ t, exec (.queueFlush q) s = .next t ∧ (t.queue q).head = k.tail) ∧
    (q < 16 → s.mb.state = .ready → k.head ≠ k.tail → k.latched = none → s.headCheck r = none →
      ∃ t, exec (.headLatch q) s = .next t ∧ (t.queue q).latched = some r) ∧
    (∀ c, s.mb.state = .ready → s.cmd.ringRoom = true → s.cmd.lastStart ≠ some s.clk → s.candidates.find? s.couldStart = some c →
      c.record.resume = false → s.startCheck c.record = none →
      ∃ t m l, exec .launchStart s = .next t ∧ s.launch? m = none ∧ t.launch? m = some l ∧ l.record = c.record ∧ l.phase = .admission) ∧
    (∀ l, s.launch? n = some l → l.phase = .admission → l.live = true → s.stepDue l = true →
      ∃ t, exec (.staggerStep n) s = .next t ∧ (t.launch n).rows = l.rows.drop s.stepRows) ∧
    (∀ l, s.launch? n = some l → s.workDone n = true → (∀ p ∈ l.compute, ∀ w ∈ (s.core (s.nowAt p)).counters, w.2.bound = none) →
      (∀ p ∈ l.cores, ∀ z ∈ (s.core p).l1, z.dirty = 0) →
      ∃ t c, exec (.launchEnd n) s = .next t ∧ t.launch? n = none ∧ t.records = s.records ++ [c] ∧ c.status = .ok ∧ c.lid = n) ∧
    (s.out.ttTable = true → e < 256 →
      (∀ rule, x.en = false → ∃ t, exec (.ttArm e rule) s = .next t ∧ (t.ttEntry e).en = true) ∧
      (∃ t, exec (.ttCntRead e) s = .next t ∧ t.hostData = natBytes 8 (x.missed.toNat * 2 ^ 32 + x.fired.toNat)) ∧
      (let f := parseRecord (Memory.readN s.w0 (0x160000 + e * 0x200) 0x100)
       s.mb.state = .ready → x.en = true → x.late = none → x.next ≤ s.time13 / 13 → s.headCheck f = none → x.cand = none → x.deferred = none →
        (∀ m ∈ x.lids, (s.launch m).phase = .saved) → ∃ t, exec (.ttFiring e) s = .next t ∧ (t.ttEntry e).cand = some f)) ∧
    (∀ d, x.deferred = some d → x.cand = none → (∀ m ∈ x.lids, (s.launch m).phase = .saved) →
      ∃ t, exec (.ttDeferredCandidate e) s = .next t ∧ (t.ttEntry e).cand = some d ∧ (t.ttEntry e).deferred = none) ∧
    (∀ c rest, s.records = c :: rest → s.mb.waiting = none → s.cmd.ringRoom = true → s.hostFree 0 = true →
      ∃ t, exec .completionRecordWrite s = .next t ∧ t.records = rest) ∧
    (∀ lid : BitVec 8, let l := s.launch lid.toNat
      s.cmd.preGo = false → l.compute ≠ [] → l.phase = .running → l.fault = none → s.noSlot l.record = false →
      ∃ t, exec (.preempt lid) s = .next t ∧ (t.launch lid.toNat).phase = .quiescing ∧ t.cmd.preGo = true) ∧
    ((s.launch n).phase = .quiescing → s.quiet n = true → s.workDone n = false → s.dirtyCores n = [] →
      ∃ t v, exec (.quiescenceSave n) s = .next t ∧ (t.launch n).phase = .saved ∧ (t.launch n).saved = some v)

/-- R272–R275: the debugger's events complete: within a session a launch is halted, resumed and, frozen, torn down; a breakpoint halts it; and
a register of a halted launch is read, written and, where it is PENDING, cancelled. -/
def Clause.DebugEventsComplete : Prop :=
  ∀ (lid : BitVec 8) (l : BitVec 20) (x : BitVec 3) (n : BitVec 6) (core ctx : Nat) (s : State), s.cmd.dbgArmed = true →
    let i := s.cmd.dbgLid.toNat
    (∀ k, s.launch? i = some k →
      (k.phase ≠ .saved → k.halted = none → ∃ t, exec (.debugHalt lid false true) s = .next t ∧ (t.launch i).halted = some s.clk) ∧
      (k.frozen = false → ∃ t, exec (.debugResume lid false true) s = .next t ∧ (t.launch i).halted = none) ∧
      (k.frozen = true → ∃ t, exec (.debugTeardown lid false true) s = .next t ∧ t.launch? i = none) ∧
      (∀ j, (s.core core).role = .host i .compute j → k.live = true → s.aboutToIssue core ctx = true → s.atBreakpoint core ctx = true →
        ∃ t, exec (.breakpointHalt core ctx) s = .next t ∧ (t.launch i).halted = some s.clk) ∧
      (∀ p₀ p, k.halted.isSome = true → k.hostOf .compute l.toNat = some p₀ → p = s.nowAt p₀ → n.toNat < 32 → x.toNat ≤ 4 →
        let r := ((s.core p).ctx x.toNat).reg n.toNat
        (∃ t, exec (.dbgRead l x n) s = .next t ∧ t.cmd.dbgData = r.read.v ∧ t.cmd.selStatus = 0) ∧
        (r.state ≠ .pending → s.cmd.dbgMeta.extractLsb' 0 2 = 0 → ∃ t, exec (.dbgWrite l x n) s = .next t ∧
          (((t.core p).ctx x.toNat).reg n.toNat).read = ⟨s.cmd.dbgData, s.cmd.dbgMeta.getLsbD 2⟩ ∧ t.cmd.selStatus = 0) ∧
        (r.state = .pending → ∃ t, exec (.dbgCancel l x n) s = .next t ∧ ((t.core p).ctx x.toNat).reg n.toNat = Reg.poison 0x09)))

/-- R82–R95: the events of leases and re-casts complete: a grace ends, a drained pool slot moves, a moved target is mapped at its new host, a
core applies an invalidation, an item follows its target, a marker goes back, its return is counted, and a stub closes. -/
def Clause.RecastEventsComplete : Prop :=
  ∀ (r k i q gen : Nat) (grow : Bool) (s : State),
    (∀ c, s.recasts[r]? = some c → c.pair = false →
      (c.phase = .grace → c.due ≤ s.clk → ∃ t, exec (.recastGraceEnd r) s = .next t ∧ t.recasts[r]? = some { c with phase := .drain }) ∧
      (∀ j, c.phase = .drain → c.dec.old = some (.pool, j) → ∃ t, exec (.recastMove r) s = .next t ∧
        t.recasts[r]? = some { c with phase := .moved }) ∧
      (∀ j, c.phase = .moved → c.dec.old = some (.pool, j) → c.dec.new = some (.pool, j) → (s.launch? c.dec.lid).isSome = true →
        (s.launch c.dec.lid).hostOf .pool j = some c.dec.src →
        ∃ t, exec (.recastRemap r) s = .next t ∧ (t.launch c.dec.lid).hostOf .pool j = some c.dec.dst)) ∧
    (∀ p u kd, s.accept k = some (p, u) → p.body = .invalidate kd i gen grow → ∃ t, exec (.roleMapInvalidation k) s = .next t ∧
      ∀ e ∈ (t.core p.dest).stale, ¬(e.kind = kd ∧ e.idx = i)) ∧
    (∀ p kd, s.landed k = some p →
      ((∀ a b f, p.body ≠ .marker a b f) → p.target = some (kd, i) → (s.launch p.lid).hostOf kd i = some q → q ≠ p.dest →
        s.itemFirst p = false → ∃ t m, exec (.stubForward k) s = .next t ∧ t.net[k]? = some m ∧
          m.final = if s.stubOpen p.lid kd i p.dest then q else p.src) ∧
      (p.body = .marker kd i false → s.markerWaits p = false → (s.launch p.lid).hostOf kd i = none →
        ∃ t, exec (.stubForward k) s = .next t ∧ sentLast t .core (.marker kd i true)) ∧
      (p.body = .marker kd i true → ∃ t, exec (.markerReturn k) s = .next t ∧ t.net = takeOut k s.net)) ∧
    (∀ b, s.stubs[k]? = some b → b.closes ≤ s.clk → ∃ t, exec (.stubClose k) s = .next t ∧ t.stubs = s.stubs.eraseIdx k)

/-- R174, R265: registers are met in operand order. The first that is PENDING parks the instruction on it, the first source that is
POISONED traps POISON_USE with its code and operand code; a destination may be POISONED, and FULL operands let the instruction go. -/
def Clause.OperandStates : Prop :=
  ∀ (s : State) (pre post : List Meet) (m : Meet),
    let plain (m : Meet) : Prop := m.code.toNat < 32 ∧ s.inShadow m.code = false ∧ s.curStream? m.code.toNat = none
    let reg (m : Meet) : Reg := s.regAt s.cur.core s.cur.ctx m.code.toNat
    (∀ p ∈ pre, plain p ∧ (reg p).state = .full) → plain m →
    ((reg m).state = .pending → s.meet (pre ++ m :: post) = .error (.park s (.reg m.code))) ∧
    ((reg m).state = .poisoned → m.isSrc = true →
      s.meet (pre ++ m :: post) = .error (.trap 0x01 (reg m).code (BitVec.ofNat 64 m.code.toNat))) ∧
    (((reg m).state = .full ∨ (reg m).state = .poisoned ∧ m.isSrc = false) → s.meet (pre ++ [m]) = .ok ()) ∧
    (∀ row ∈ laneRows, ∀ a : Args,
      (∀ t p, s.meet (srcMeet a.s1 ++ srcMeet a.s2 ++ [.dst a.d]) = .error (.park t p) → exec (row.1 a) s = .next (t.parkCur p)) ∧
      (∀ c k d, s.meet (srcMeet a.s1 ++ srcMeet a.s2 ++ [.dst a.d]) = .error (.trap c k d) →
        exec (row.1 a) s = .next (s.trapAt s.cur.core s.cur.ctx c k d)))

/-- R264, R266–R268: a trap records its class, code and DETAIL with the context's tile, place, PC and task and the window of the oldest
shadowed instruction in flight; its context's shadowed instructions in that window are abandoned, and each whose own window holds the trap
(Table 17-8, read as assumption log 93 says); of the faults of one clk the lowest class, then
L, then context is kept, and later clk change nothing. -/
def Clause.TrapsRecorded : Prop :=
  (∀ (core ctx lid : Nat) (cls code : BitVec 8) (d : W64) (s : State) (k : Task) (l : Launch),
    ((s.core core).ctx ctx).task = some k → k.lid = lid → s.launch? lid = some l → l.fault = none → l.frozen = false →
    let t := s.trapAt core ctx cls code d
    let old := (s.core core).shadows.find? (fun h => h.ctx == ctx)
    (∃ f, (t.launch lid).fault = some (s.clk, f) ∧ f.cls = cls ∧ f.code = code ∧ f.detail = d ∧ f.async = false ∧ f.ctx = ctx ∧
      f.place = core ∧ f.pc = ((s.core core).ctx ctx).pc ∧ f.time = s.time ∧ f.stage = k.stage ∧ f.handler = k.handler ∧ f.seq = k.seq ∧
      (∀ i, (s.core core).role = .host lid .compute i → f.l = i) ∧
      (old = none → f.older = false ∧ f.shadow = 0 ∧ f.opc = 0) ∧
      (∀ h, old = some h → f.older = true ∧ f.shadow = h.window ∧ f.opc = h.pc)) ∧
    (∀ h ∈ (t.core core).shadows, h ∈ (s.core core).shadows) ∧ (∀ h ∈ (s.core core).shadows, h.ctx ≠ ctx → h ∈ (t.core core).shadows) ∧
    (∀ k, old = some k → ∀ h ∈ (s.core core).shadows, h.ctx = ctx →
      (h ∈ (t.core core).shadows ↔ h.look < h.since + 1 ∧ (h.same k = true ∨ k.look < k.since - h.since))) ∧ t.mem = s.mem ∧ t.net = s.net ∧
    ((t.core core).ctx ctx) = ((s.core core).ctx ctx)) ∧
  (∀ (lid : Nat) (f : FaultInfo) (s : State) (l : Launch), s.launch? lid = some l → l.frozen = false →
    ((s.recordFault lid f).launch lid).fault = match l.fault with
      | none => some (s.clk, f)
      | some (c, g) =>
        if c = s.clk ∧ (f.cls.toNat < g.cls.toNat ∨ f.cls = g.cls ∧ (f.l < g.l ∨ f.l = g.l ∧ f.ctx < g.ctx)) then some (c, f)
        else some (c, g))

/-- R64, R266, R269, R273: once the clk of a launch's fault has ended the launch is gone, with its fault record and then its completion
record waiting for the ring and its cores idle; under a session with FHALT it freezes instead, and its re-casts are abandoned. A task that retired in
the fault's clk has not: TASKS does not count it, its LINK decrement is not sent, and its core holds what it held before (that `end` is then undone,
and that the fault takes effect as its clk ends, are the model's form, assumption log 8). -/
def Clause.FaultsEndLaunches : Prop :=
  ∀ (lid dt c : Nat) (s : State) (l : Launch) (f : FaultInfo), s.launches = [(lid, l)] → l.fault = some (c, f) → c ≤ s.clk →
    l.frozen = false → 0 < dt →
    let t := s.tick dt
    let ended := l.ended.filter (fun e => e.clk == c)
    let session : Prop := s.cmd.dbgArmed = true ∧ s.cmd.dbgLid.toNat = lid ∧ s.cmd.dbgFhalt = true
    (s.tasked = [] → s.pass 1 = s.tick 1) ∧
    (¬session →
      t.launch? lid = none ∧ (∃ a b, t.records = s.records ++ [a, b] ∧ a.fault = some f ∧ a.status = .fault ∧ a.lid = lid ∧
        a.tag = l.record.tag ∧ b.fault = none ∧ b.status = .fault ∧ b.lid = lid ∧ b.tag = l.record.tag ∧
        b.tasks = l.tasks - BitVec.ofNat 64 ended.length) ∧
      (∀ p ∈ l.cores, (∃ k i, (s.core p).role = .host lid k i) →
        (∀ e ∈ l.ended, e.clk = c → e.core = p → e.was.role = (s.core p).role) → (t.core p).role = .idle) ∧ (∀ q ∈ t.net, q.lid ≠ lid)) ∧
    (session →
      (t.launch lid).frozen = true ∧ (t.launch lid).halted.isSome = true ∧ t.records = s.records ∧ (∀ r ∈ t.recasts, r.dec.lid ≠ lid) ∧
      t.mem = s.mem ∧ (t.launch lid).tasks = l.tasks - BitVec.ofNat 64 ended.length ∧
      (∀ e, ended = [e] →
        (∀ q ∈ t.net, q.lid = lid → q.src = e.core → q.born = c → ∀ n g, q.body ≠ .decrement n g) ∧
        (s.recasts = [] → let k := t.core e.core
          k.role = e.was.role ∧ k.lowQ = e.was.lowQ ∧ k.highQ = e.was.highQ ∧ k.deque = e.was.deque ∧ k.counters = e.was.counters ∧
          k.tickets = e.was.tickets ∧ ∀ x, (k.ctx x).pc = (e.was.ctx x).pc ∧ (k.ctx x).regs = (e.was.ctx x).regs ∧
            (k.ctx x).task.map (fun w => (w.handler, w.seq)) = (e.was.ctx x).task.map (fun w => (w.handler, w.seq)))))

/-- R87, R114, R117, R118, R179, R269, R274, R299: a core's turn presents the next instruction of its first runnable context. When no breakpoint names it, its
fetch is allowed and its halfwords decode to `i`, the step is what `i` does to that context's state with its successor noted; the core
has then issued, or, where the context parks on the instruction, the next context is tried. In a clk in which limits of the core are reached an
`end` of each such context may still issue, and otherwise nothing does and they fault (R117, R118, R269). An event's turn is what the event does. That turns come from a
schedule, that a turn whose place in the order of its clk has gone by waits for the next clk, and that past the schedule's end the last core takes the turns,
are the model's own (assumption log 1). -/
def Clause.StepRunsDecoded : Prop :=
  (∀ (core ctx dt n pa : Nat) (r : List Turn) (i : Instr) (s : State), s.schedule = .issue dt core :: r →
    let u := (({ s with schedule := r } : State).pass dt).upTo 2
    let v : State := { u with cur := ⟨core, ctx⟩ }
    u.powered = true → (u.core core).nextIssue ≤ u.clk → u.atLimit core = [] → (u.core core).issueOrder.find? (u.runnable core) = some ctx →
    v.cx.entry = none → v.atBreakpoint core ctx = false → v.checkFetch core v.lid v.cx.pc.toNat = .ok pa → decode (v.fetchHalves pa (v.fetchKey pa)) = .ok (i, n) →
    i.wellFormed = true ∧
    (∀ t, exec i (v.present n) = .next t → ((t.core core).ctx ctx).waits = false → step s = .next (t.noteIssue core ctx)) ∧
    (∀ t, exec i (v.present n) = .next t → ((t.core core).ctx ctx).waits = true →
      step s = (t.keepNotice v).issueFirst core (((u.core core).issueOrder.dropWhile (fun x => x != ctx)).drop 1)) ∧
    ((v.present n).core core).ctx ctx = { (v.core core).ctx ctx with npc := ((v.core core).ctx ctx).pc + BitVec.ofNat 48 (2 * n), park := none, notice := none } ∧
    ((v.present n).core core).notice = ((v.core core).ctx ctx).notice.getD (v.core core).notice ∧
    (v.present n).mem = u.mem) ∧
  (∀ (core dt : Nat) (r : List Turn) (s t : State), s.schedule = .issue dt core :: r →
    let u := (({ s with schedule := r } : State).pass dt).upTo 2
    u.powered = true → (u.core core).nextIssue ≤ u.clk → u.atLimit core ≠ [] → u.issueFirst core (u.core core).issueOrder = .next t →
    ((∀ x ∈ u.atLimit core, ((t.core core).ctx x).task = none) → step s = .next t) ∧
    ((∃ x ∈ u.atLimit core, ((t.core core).ctx x).task ≠ none) →
      step s = .next ((u.atLimit core).foldl (fun (v : State) x => v.expireAt core x) u))) ∧
  (∀ (dt : Nat) (r : List Turn) (i : Instr) (s : State), s.schedule = .occur dt i :: r → i.slot = none →
    let u := ({ s with schedule := r } : State).pass dt
    let v := u.upTo (u.rank (.occur dt i))
    v.powered = true → step s = exec i v) ∧
  (∀ s : State, s.schedule = [] → step s = ((s.pass 1).upTo 2).issue s.cur.core) ∧
  (∀ (n : Nat) (s : State), s.upTo n = if n < s.phase then { s.pass 1 with phase := n } else { s with phase := n })

/-- R37: device time never runs backward, and a slew changes it by at most 200 ppm. -/
def Clause.DeviceTime : Prop :=
  ∀ (dt : Nat) (s : State), s.time13 ≤ (s.pass dt).time13 ∧ (s.pass dt).time13 ≤ s.time13 + 10 * dt + (dt + 499) / 500 ∧
    s.time13 + 10 * dt ≤ (s.pass dt).time13 + (dt + 499) / 500 ∧ (s.slew = 0 → (s.pass dt).time13 = s.time13 + 10 * dt)

/-- R290–R305, Tables 15-2 to 15-4: every well-formed machine instruction's words decode to it, whatever follows them, and words that
decode are those of one well-formed instruction. -/
def Clause.CodingAgrees : Prop :=
  (∀ (i : Instr) (rest : List Half), i.slot.isSome = true → i.wellFormed = true →
    decode (encode i ++ rest) = .ok (i, (encode i).length)) ∧
  (∀ (ws : List Half) (i : Instr) (n : Nat), decode ws = .ok (i, n) → n ≤ ws.length ∧ i.wellFormed = true ∧ i.slot.isSome = true
    ∧ encode i = ws.take n)

/-- R284, Table 14-6 and the listings of spec 15, 17 and 20–25: words the manual writes out decode to their instructions, and an XP with
page 0 or 9 is refused. -/
def Clause.WordsDecode : Prop :=
  (decode [0x0000]).toOption = some (.nop {}, 1) ∧
  (decode [0x1085]).toOption = some (.add { d := 4, s1 := .reg 4, s2 := .reg 5 }, 1) ∧
  (decode [0xCA80, 0x10E7]).toOption = some (.add { xr := true, d := 7, s1 := .reg 7, s2 := .reg 42 }, 2) ∧
  (decode [0xCFC0, 0x1085, 0x5678, 0x1234, 0x0000, 0x0000]).toOption = some (.add { xr := true, d := 4, s1 := .reg 5, s2 := .lit 0x12345678 }, 6) ∧
  (decode [0xDFFF, 0x6803]).toOption = some (.b { nxi := 1, s1 := .imm (0 - 29) }, 2) ∧
  (decode [0xE120, 0xC180, 0x0085]).toOption = some (.div { xr := true, look := 2, d := 4, s1 := .reg 5, s2 := .reg 6 }, 3) ∧
  (decode [0xE200, 0xC18A, 0x0C85]).toOption = some (.vfma { xr := true, ty := .bf16, d := 4, s1 := .reg 5, s2 := .reg 6 }, 3) ∧
  (decode [0xE300, 0xF009, 0xC00C, 0x0128]).toOption = some (.vcvt .f32 0 { xr := true, ty := .f8, d := 9, s1 := .reg 8 }, 4) ∧
  (decode [0xE40D, 0x0049]).toOption = some (.ld .acq .hall { ty := .x, d := 2, s1 := .reg 9 }, 2) ∧
  (decode [0xE500, 0xF001, 0xC010, 0xD001, 0x2E3E]).toOption = some (.bwait 1 { xr := true, nxi := 1, d := 17, s1 := .reg 62, s2 := .imm 1 }, 5) ∧
  (decode [0xE600, 0xF860, 0xC24F, 0x00E8]).toOption = some (.copy .launch false (some 3) { xr := true, ty := .b, d := 7, s1 := .reg 8, s2 := .reg 9 }, 4) ∧
  (decode [0xE700, 0xF194, 0x1544]).toOption = some (.sendr false .launch 4 1 3 { ty := .b, s1 := .reg 10, s2 := .reg 4 }, 3) ∧
  (decode [0xE000, 0x1085]).toOption = none ∧ (decode [0xE900, 0x1085]).toOption = none

/-- R199, R201: after reset memory, the bytes of W0 and the tags are in canonical form. -/
def Clause.ResetMemory : Prop := State.reset.memOk
/-- R199, R201, R216: every step keeps memory and the bytes of W0 in canonical form and the tags a rising list, from every state
that has them so, whatever turn it takes; equal contents are then equal data. -/
def Clause.StepsKeepMemory : Prop := ∀ s t : State, s.memOk → step s = .next t → t.memOk

/-- R6, R20–R25, R41, R44, Tables 0-3, 1-3, 1-4, 2-2, 2-5, 3-2, 3-3, 4-2, 4-8 to 4-10, 13-4, 13-5: what the field maps give for reset. -/
def Clause.ResetValues : Prop :=
  let s := State.reset
  s.w0Word 0x1000 = 0x04B0 ∧ s.w0Word 0x1008 = 0 ∧ s.w0Word 0x2000 = 0 ∧ s.w0Word 0x10 = 0 ∧ s.w0Word 0x8 = 0 ∧ s.w0Word 0x10000 = 0 ∧
  s.w0Word 0x10010 = 0 ∧ s.mb.state = .romWait ∧ s.mb.busy = false ∧ (∀ q < 16, s.w0Word (0x140000 + 8 * q) = 0) ∧ s.w0Word 0x142000 = 0 ∧
  s.w0Word 0x143000 = 0 ∧ s.w0Word 0x143008 = 0 ∧ (∀ e < 256, s.w0Word (0x160000 + 0x200 * e + 0x110) = 0 ∧
    s.w0Word (0x160000 + 0x200 * e + 0x118) = 0) ∧ s.launches = [] ∧ (∀ g, s.halved g = false) ∧ (∀ p, (s.core p).role = .idle)

/-- The instructions of pages 0 to 3 that touch only registers, fmov and control apart, with operands `a`. -/
def Clause.registerOnly (a : Args) (cc : VCond) (op : RedOp) (i : BitVec 5) (src : Ty) (part : BitVec 3) (b : Bool) : List Instr :=
  [.nop a, .mov a, .li a, .add a, .sub a, .and a, .or a, .xor a, .andn a, .shl a, .shr a, .sar a, .mul a, .min a, .max a, .seq a, .sne a,
   .slt a, .sle a, .sel a, .clz a, .popc a, .bext a, .bins a, .cadd a, .div a, .rem a, .mulh a, .rot a, .cbnd a, .cprm a, .cfmt a, .cget a,
   .ctest a, .cclr a, .topo a, .sget a, .vadd a, .vsub a, .vmul a, .vfma a, .vfms a, .vmin a, .vmax a, .vabs a, .vneg a, .vcmp cc a, .vsel a,
   .vrcp a, .vrsq a, .vexp2 a, .vlog2 a, .vdot a, .vred op a, .vamax a, .vshuf a, .vbcast i a, .vins i a, .vext i a, .vdiv a, .vsqrt a,
   .vcvt src part a, .vpack src a, .vunpk src b a, .vscl b a, .vqnt a, .fclass a]

/-- THE FRAME of the register instructions of pages 0 to 3 (R172, R314, R348), where they issue, park or trap alike: every general register but
d, every other context and core, memory, tags and the network are as before; so are the twin window unless d names it, and the core's
queues, deque, counters, barriers, TLB, L1, s.fmc and s.tlimit. A source that is a channel or a stream is popped; s.seed may draw. -/
def Clause.RegisterFrame : Prop :=
  ∀ (a : Args) (cc : VCond) (op : RedOp) (ix : BitVec 5) (src : Ty) (part : BitVec 3) (b : Bool),
    ∀ i ∈ Clause.registerOnly a cc op ix src part b, ∀ s t : State, exec i s = .next t →
    t.mem = s.mem ∧ t.tags = s.tags ∧ t.net = s.net ∧ t.clk = s.clk ∧ t.cur = s.cur ∧ t.halls = s.halls ∧
    (a.d.toNat < 40 ∨ 48 ≤ a.d.toNat → t.columns = s.columns) ∧
    (∀ k, k ≠ s.cur.core → t.core k = s.core k) ∧ (∀ x, x ≠ s.cur.ctx → t.cc.ctx x = s.cc.ctx x) ∧
    (∀ n < 32, n ≠ a.d.toNat → t.cx.reg n = s.cx.reg n) ∧ t.cx.task = s.cx.task ∧
    t.cc.fmc = s.cc.fmc ∧ t.cc.tlimit = s.cc.tlimit ∧ t.cc.lowQ = s.cc.lowQ ∧ t.cc.highQ = s.cc.highQ ∧ t.cc.deque = s.cc.deque ∧
    t.cc.fifo = s.cc.fifo ∧ t.cc.counters = s.cc.counters ∧ t.cc.barriers = s.cc.barriers ∧ t.cc.tlb = s.cc.tlb ∧ t.cc.l1 = s.cc.l1 ∧
    t.cc.tickets = s.cc.tickets

/-- Integer lane instructions give their lanes and complete (R321, R326, R322, R325). -/
def Obligations.IntegerArithmetic : Prop := Clause.IntegerLaneResults ∧ Clause.BitCounts ∧ Clause.ShadowedArithmetic

/-- Moves, immediates and bit fields give their results and complete (R323, R324, R317, R318, R320, R333, R181). -/
def Obligations.MovesAndFields : Prop := Clause.SelectAndFields ∧ Clause.Moves ∧ Clause.FutureMoves

/-- Capability operations give their fields or trap (R328, R329, R330, R331, R332, R333). -/
def Obligations.CapabilityOperations : Prop := Clause.CapabilityFields ∧ Clause.BoundsDerivation

/-- No capability operation widens permissions or bounds (R327). -/
def Obligations.CapabilitiesOnlyNarrow : Prop := Clause.CapabilitiesNeverWiden

/-- Branches, calls, indirect transfers and breaks (R335, R336, R337, R342, R338, R344). -/
def Obligations.ControlTransfers : Prop := Clause.Branches ∧ Clause.IndirectTransfers ∧ Clause.Breaks

/-- Counted loops: pushing, iterating and ending (R340, R341). -/
def Obligations.CountedLoopRules : Prop := Clause.CountedLoops ∧ Clause.LoopEnds

/-- System registers and topology keys are read and written as their tables say (R192, R345, R119, R193, R346, R80, R334). -/
def Obligations.SystemRegisters : Prop := Clause.SystemRegisterReads ∧ Clause.SystemRegisterWrites ∧ Clause.TopologyKeys

/-- A byte written reads back, and a masked write changes only its nibbles (R201, R199, R207). -/
def Obligations.MemoryWrites : Prop := Clause.MemoryReadsBack ∧ Clause.MaskedWrites

/-- Loads: what they write, when they land, and when they make a future (R377, R375, R176, R205, R206). -/
def Obligations.Loads : Prop := Clause.LoadedItems ∧ Clause.LocalLoads ∧ Clause.RemoteLoads ∧ Clause.CachedLoads

/-- Stores: where their bytes go, and what out of bounds does (R195, R374, R199, R221, R264, R375, R219, R224, R228, R205, R206, R207, R220). -/
def Obligations.Stores : Prop := Clause.OutOfBoundsAccesses ∧ Clause.LocalStores ∧ Clause.RemoteStores ∧ Clause.ReleasingStores ∧ Clause.CachedStores

/-- Cache control, line fills and ordering signatures (R382, R383, R384, R206, R226, R227, R228, R229, R230, R231). -/
def Obligations.CachedLines : Prop := Clause.CacheControl ∧ Clause.LineFills ∧ Clause.Signatures

/-- Atomics return the old item and write the operation of Table 18-5 (R385, R386, R387, R204, R219, R388, R236). -/
def Obligations.AtomicOperations : Prop := Clause.LocalAtomics ∧ Clause.RemoteAtomics ∧ Clause.FloatingAdd ∧ Clause.AtomicsAtHome

/-- Fences and the barrier instructions (R226, R389, R391, R392, R393, R431). -/
def Obligations.FencesAndBarriers : Prop := Clause.Fences ∧ Clause.BarrierInstructions

/-- A barrier at its home: arrivals release generations, waits are answered (R392, R393). -/
def Obligations.BarriersAtHome : Prop := Clause.BarrierArrivals ∧ Clause.BarrierWaits

/-- Hall controllers combine or forward barrier arrivals (R394). -/
def Obligations.BarrierCombining : Prop := Clause.BarriersAtHalls

/-- Events, watches and the tests of futures (R395, R396, R397, R398, R399). -/
def Obligations.EventsWatchesFutures : Prop := Clause.EventLatches ∧ Clause.Watches ∧ Clause.FutureTests

/-- Vector arithmetic rounds each lane once and completes (R350, R353, R355). -/
def Obligations.VectorLanes : Prop := Clause.VectorArithmetic

/-- Vector comparisons, lane moves and signs (R356, R357, R358, R359, R363, R364, R360). -/
def Obligations.VectorSelections : Prop := Clause.VectorCompares ∧ Clause.VectorLaneMoves ∧ Clause.VectorSigns

/-- Reductions and dot products over the pairwise tree (R351, R361, R362, R252). -/
def Obligations.Reductions : Prop := Clause.VectorReductions ∧ Clause.PairwiseTree

/-- Conversions, packing, scaling, quantising and classification (R365, R366, R367, R368, R369, R370). -/
def Obligations.Conversions : Prop := Clause.VectorConversions

/-- Admission of tasks: the order of sources and what a task starts with (R102, R103, R110). -/
def Obligations.TaskAdmission : Prop := Clause.Admission ∧ Clause.AgingOrder

/-- Task limits, and the end of a task (R117, R118, R109, R120). -/
def Obligations.TaskLimitsAndEnds : Prop := Clause.TimeLimits ∧ Clause.TaskEnds

/-- fork, join and dependence counters (R107, R400, R401, R436, R108). -/
def Obligations.TasksAndCounters : Prop := Clause.ForksAndCounters ∧ Clause.CounterDecrements

/-- Spills, steals and donations of tasks (R107, R111, R112, R113, R232). -/
def Obligations.TaskSharing : Prop := Clause.StealsAndDonations

/-- Results land, futures are filled, stores are acknowledged (R175, R199, R176, R177, R219, R226). -/
def Obligations.ResultsArrive : Prop := Clause.ShadowedResultsLand ∧ Clause.FuturesFilled ∧ Clause.Acknowledgements

/-- Accesses performed at their homes (R199, R207, R216, R219, R131, R208, R211). -/
def Obligations.AccessesAtHomes : Prop := Clause.StoresAtHome ∧ Clause.HomesServe

/-- Page walks and scans, and the checks of a page table (R212, R213, R214, R215, R218, R306). -/
def Obligations.Translation : Prop := Clause.WalksAndScans ∧ Clause.PageTableChecks

/-- A router sends a packet one hop on, around dead rectangles too (R131, R132, R135, R137, R140, R472, R139). -/
def Obligations.Routing : Prop := Clause.RouterHops ∧ Clause.Detours

/-- Messages are accepted while there is room, and services are answered (R106, R143, R433, R442). -/
def Obligations.MessageDelivery : Prop := Clause.MessagesAccepted ∧ Clause.Services

/-- copy and fill, and the pieces the copy engine moves (R406, R407, R408, R409, R410, R217). -/
def Obligations.CopyEngine : Prop := Clause.CopyCommands ∧ Clause.CopyPieces

/-- Streams: binding, refilling, writing and unbinding (R411, R412, R413). -/
def Obligations.StreamEngine : Prop := Clause.StreamBindings ∧ Clause.StreamPieces

/-- Matrix commands, their queue and the licence of a column (R414, R416, R417, R418, R419, R420, R190, R191, R426). -/
def Obligations.MatrixQueue : Prop := Clause.MatrixCommands ∧ Clause.LicenceAndQueue

/-- What a completed matrix command leaves, and its arithmetic (R177, R415, R417, R418, R419, R255, R256, R257, R258, R259). -/
def Obligations.MatrixUnit : Prop := Clause.MatrixResults ∧ Clause.MatrixArithmetic

/-- Names find their rendezvous; want, offer and seal complete (R148, R150, R156, R157, R168, R421, R422, R423). -/
def Obligations.NamedTiles : Prop := Clause.NameRouting ∧ Clause.NamedInstructions

/-- Interests at routers and at the rendezvous (R154, R155, R158). -/
def Obligations.Interests : Prop := Clause.InterestsAtRouters ∧ Clause.InterestsAtRendezvous

/-- Offers, seals and trains (R160, R164, R147, R146, R162, R148, R159, R166, R422). -/
def Obligations.OffersAndSeals : Prop := Clause.OffersAtRendezvous ∧ Clause.Seals ∧ Clause.TrainsAtRouters

/-- How waiters are answered, and what expires (R157, R159, R154, R161, R164). -/
def Obligations.NamedOutcomes : Prop := Clause.NamedAnswers ∧ Clause.NamedExpiries

/-- send, sendc and sendr put one message into the network (R429, R430, R431, R432, R433, R434, R35, R224, R228). -/
def Obligations.SendingMessages : Prop := Clause.Sends ∧ Clause.PeerSends ∧ Clause.ReleasingSends

/-- Requests to controllers, the user trap and idle (R437, R438, R439, R442, R431, R440, R441). -/
def Obligations.RequestsTrapsIdle : Prop := Clause.Requests ∧ Clause.TrapAndIdle

/-- Context images are saved and restored (R443, R444, R445). -/
def Obligations.ContextImageContents : Prop := Clause.ContextImages

/-- Privileged instructions act in hall controllers only (R446, R447, R448, R305). -/
def Obligations.PrivilegedInstructions : Prop := Clause.PrivilegedControls

/-- Leases, notices, role queries and name-route requests at their controllers (R82, R83, R84, R81, R85, R86, R91, R149, R439). -/
def Obligations.LeasesAndHalls : Prop := Clause.Leases ∧ Clause.HallAnswers

/-- What the census decides at the end of an epoch (R88, R89, R98, R99, R273). -/
def Obligations.CensusRules : Prop := Clause.CensusDecisions

/-- Re-casts, stubs and markers (R89, R92, R93, R94, R95, R139). -/
def Obligations.RoleChanges : Prop := Clause.Recasts ∧ Clause.TwinRecasts ∧ Clause.StubsAndMarkers

/-- Launch queues, head checks and the record ring (R55, R56, R59, R60, R50, R62, R63, R66, R267). -/
def Obligations.LaunchRecords : Prop := Clause.LaunchQueues ∧ Clause.HeadChecks ∧ Clause.RecordRing

/-- How launches start and end (R59, R60, R61, R71, R129, R23, R24, R65, R121, R122). -/
def Obligations.LaunchLives : Prop := Clause.LaunchStarts ∧ Clause.ResumeStarts ∧ Clause.StaggeredAdmission ∧ Clause.LaunchEnds

/-- Pre-emption of a launch (R70, R71, R72, R126). -/
def Obligations.PreEmptions : Prop := Clause.PreEmption

/-- The time-triggered table arms and fires (R68, R69). -/
def Obligations.TimeTriggeredLaunches : Prop := Clause.TimeTableArms ∧ Clause.TimeTableFirings

/-- The host reads and writes through W2 and W0 (R30, R31, R128, R216, R218, R6, R7, R25, R41, R55, R62, R68, R272, R274, R275). -/
def Obligations.HostAccess : Prop := Clause.HostAperture ∧ Clause.HostRegisters

/-- The debugger halts launches and reads and writes their registers (R269, R272, R273, R274, R275). -/
def Obligations.Debugger : Prop := Clause.DebugHalts ∧ Clause.DebugAccess

/-- The events of power, boot, clocks, host, launches, debugger and re-casts complete (R41, R42, R43, R44, R50, R51, R52, R53, R21, R22, R26, R30, R31, R35, R37, R98, R55, R56, R57, R58, R59, R60, R61, R62, R63, R64, R65, R66, R67, R68, R69, R70, R71, R72, R272, R273, R274, R275, R82, R83, R84, R85, R86, R87, R88, R89, R90, R91, R92, R93, R94, R95). -/
def Obligations.BootAndPower : Prop := Clause.PowerEventsComplete ∧ Clause.ClockAndHostEventsComplete ∧ Clause.LaunchEventsComplete ∧ Clause.DebugEventsComplete ∧ Clause.RecastEventsComplete

/-- A turnover leaves nothing of a tenant; power, management commands, boot and reports (R43, R49, R50, R51, R52, R41, R42, R44, R45, R46, R47, R48, R53). -/
def Obligations.ModuleTurnovers : Prop := Clause.Turnovers ∧ Clause.PowerAndCommands ∧ Clause.Boots ∧ Clause.Reports

/-- Clocks, sensors, device time, and self-test with the harvest map and grade (R21, R22, R26, R35, R37, R98, R99, R465, R16, R17, R18, R138). -/
def Obligations.ClocksAndTime : Prop := Clause.ClocksAndSensors ∧ Clause.DeviceTime ∧ Clause.SelfTests

/-- Operand states, traps, faults and the end of a faulted launch (R174, R265, R264, R266, R267, R268, R64, R269, R273). -/
def Obligations.TrapsAndFaults : Prop := Clause.OperandStates ∧ Clause.TrapsRecorded ∧ Clause.FaultsEndLaunches

/-- A step runs the instruction that the bytes at the program counter decode to (R87, R114, R117, R118, R179, R269, R274, R299). -/
def Obligations.ATurnRunsTheDecodedInstruction : Prop := Clause.StepRunsDecoded

/-- Decoding and encoding agree for every well-formed machine instruction (R290, R291, R292, R293, R294, R295, R296, R297, R298, R299, R300, R301, R302, R303, R304, R305). -/
def Obligations.DecodeAndEncodeAgree : Prop := Clause.CodingAgrees

/-- Every step keeps the canonical form of memory, of the bytes of W0 and of the tags (R199, R201, R216). -/
def Obligations.EveryStepKeepsMemoryCanonical : Prop := Clause.StepsKeepMemory

/-- Reset: the values the field maps give, and memory in canonical form (R199, R201, R6, R20, R21, R22, R23, R24, R25, R41, R44). -/
def Obligations.ResetState : Prop := Clause.ResetMemory ∧ Clause.ResetValues

/-- Words the manual writes out decode to their instructions (R284). -/
def Obligations.WrittenWordsDecode : Prop := Clause.WordsDecode

/-- What the register instructions of pages 0 to 3 leave unchanged (R172, R314, R348). -/
def Obligations.RegisterInstructionFrame : Prop := Clause.RegisterFrame
end

