-- ==== Sys2Proof/Laws/State.lean ====
section
/-! SUPPORT. What each update of the state leaves as it was, field by field, and what the parts by key read after it. -/

namespace Sys2Proof.Machine
open Sys2Proof

set_option Elab.async false

/-! `State.setCore` changes cores and nothing else. -/

section
variable (s : State) (p : Nat) (c : Core)

@[simp] theorem setCore_schedule : (s.setCore p c).schedule = s.schedule := rfl
@[simp] theorem setCore_cur : (s.setCore p c).cur = s.cur := rfl
@[simp] theorem setCore_free : (s.setCore p c).free = s.free := rfl
@[simp] theorem setCore_phase : (s.setCore p c).phase = s.phase := rfl
@[simp] theorem setCore_powered : (s.setCore p c).powered = s.powered := rfl
@[simp] theorem setCore_clk : (s.setCore p c).clk = s.clk := rfl
@[simp] theorem setCore_time13 : (s.setCore p c).time13 = s.time13 := rfl
@[simp] theorem setCore_timeLocked : (s.setCore p c).timeLocked = s.timeLocked := rfl
@[simp] theorem setCore_slew : (s.setCore p c).slew = s.slew := rfl
@[simp] theorem setCore_mb : (s.setCore p c).mb = s.mb := rfl
@[simp] theorem setCore_out : (s.setCore p c).out = s.out := rfl
@[simp] theorem setCore_cmd : (s.setCore p c).cmd = s.cmd := rfl
@[simp] theorem setCore_w0 : (s.setCore p c).w0 = s.w0 := rfl
@[simp] theorem setCore_queues : (s.setCore p c).queues = s.queues := rfl
@[simp] theorem setCore_tt : (s.setCore p c).tt = s.tt := rfl
@[simp] theorem setCore_records : (s.setCore p c).records = s.records := rfl
@[simp] theorem setCore_msix : (s.setCore p c).msix = s.msix := rfl
@[simp] theorem setCore_hostData : (s.setCore p c).hostData = s.hostData := rfl
@[simp] theorem setCore_peerOut : (s.setCore p c).peerOut = s.peerOut := rfl
@[simp] theorem setCore_w2Base : (s.setCore p c).w2Base = s.w2Base := rfl
@[simp] theorem setCore_w2Err : (s.setCore p c).w2Err = s.w2Err := rfl
@[simp] theorem setCore_stepA : (s.setCore p c).stepA = s.stepA := rfl
@[simp] theorem setCore_alarm : (s.setCore p c).alarm = s.alarm := rfl
@[simp] theorem setCore_groups : (s.setCore p c).groups = s.groups := rfl
@[simp] theorem setCore_throttleEnded : (s.setCore p c).throttleEnded = s.throttleEnded := rfl
@[simp] theorem setCore_launches : (s.setCore p c).launches = s.launches := rfl
@[simp] theorem setCore_columns : (s.setCore p c).columns = s.columns := rfl
@[simp] theorem setCore_edges : (s.setCore p c).edges = s.edges := rfl
@[simp] theorem setCore_halls : (s.setCore p c).halls = s.halls := rfl
@[simp] theorem setCore_recasts : (s.setCore p c).recasts = s.recasts := rfl
@[simp] theorem setCore_stubs : (s.setCore p c).stubs = s.stubs := rfl
@[simp] theorem setCore_net : (s.setCore p c).net = s.net := rfl
@[simp] theorem setCore_sent : (s.setCore p c).sent = s.sent := rfl
@[simp] theorem setCore_links : (s.setCore p c).links = s.links := rfl
@[simp] theorem setCore_ports : (s.setCore p c).ports = s.ports := rfl
@[simp] theorem setCore_codeMarks : (s.setCore p c).codeMarks = s.codeMarks := rfl
@[simp] theorem setCore_mem : (s.setCore p c).mem = s.mem := rfl
@[simp] theorem setCore_tags : (s.setCore p c).tags = s.tags := rfl
@[simp] theorem setCore_lineKeys : (s.setCore p c).lineKeys = s.lineKeys := rfl
@[simp] theorem setCore_keyEpoch : (s.setCore p c).keyEpoch = s.keyEpoch := rfl

end

/-! `State.modCore` changes cores and nothing else. -/

section
variable (s : State) (p : Nat) (f : Core → Core)

@[simp] theorem modCore_schedule : (s.modCore p f).schedule = s.schedule := rfl
@[simp] theorem modCore_cur : (s.modCore p f).cur = s.cur := rfl
@[simp] theorem modCore_free : (s.modCore p f).free = s.free := rfl
@[simp] theorem modCore_phase : (s.modCore p f).phase = s.phase := rfl
@[simp] theorem modCore_powered : (s.modCore p f).powered = s.powered := rfl
@[simp] theorem modCore_clk : (s.modCore p f).clk = s.clk := rfl
@[simp] theorem modCore_time13 : (s.modCore p f).time13 = s.time13 := rfl
@[simp] theorem modCore_timeLocked : (s.modCore p f).timeLocked = s.timeLocked := rfl
@[simp] theorem modCore_slew : (s.modCore p f).slew = s.slew := rfl
@[simp] theorem modCore_mb : (s.modCore p f).mb = s.mb := rfl
@[simp] theorem modCore_out : (s.modCore p f).out = s.out := rfl
@[simp] theorem modCore_cmd : (s.modCore p f).cmd = s.cmd := rfl
@[simp] theorem modCore_w0 : (s.modCore p f).w0 = s.w0 := rfl
@[simp] theorem modCore_queues : (s.modCore p f).queues = s.queues := rfl
@[simp] theorem modCore_tt : (s.modCore p f).tt = s.tt := rfl
@[simp] theorem modCore_records : (s.modCore p f).records = s.records := rfl
@[simp] theorem modCore_msix : (s.modCore p f).msix = s.msix := rfl
@[simp] theorem modCore_hostData : (s.modCore p f).hostData = s.hostData := rfl
@[simp] theorem modCore_peerOut : (s.modCore p f).peerOut = s.peerOut := rfl
@[simp] theorem modCore_w2Base : (s.modCore p f).w2Base = s.w2Base := rfl
@[simp] theorem modCore_w2Err : (s.modCore p f).w2Err = s.w2Err := rfl
@[simp] theorem modCore_stepA : (s.modCore p f).stepA = s.stepA := rfl
@[simp] theorem modCore_alarm : (s.modCore p f).alarm = s.alarm := rfl
@[simp] theorem modCore_groups : (s.modCore p f).groups = s.groups := rfl
@[simp] theorem modCore_throttleEnded : (s.modCore p f).throttleEnded = s.throttleEnded := rfl
@[simp] theorem modCore_launches : (s.modCore p f).launches = s.launches := rfl
@[simp] theorem modCore_columns : (s.modCore p f).columns = s.columns := rfl
@[simp] theorem modCore_edges : (s.modCore p f).edges = s.edges := rfl
@[simp] theorem modCore_halls : (s.modCore p f).halls = s.halls := rfl
@[simp] theorem modCore_recasts : (s.modCore p f).recasts = s.recasts := rfl
@[simp] theorem modCore_stubs : (s.modCore p f).stubs = s.stubs := rfl
@[simp] theorem modCore_net : (s.modCore p f).net = s.net := rfl
@[simp] theorem modCore_sent : (s.modCore p f).sent = s.sent := rfl
@[simp] theorem modCore_links : (s.modCore p f).links = s.links := rfl
@[simp] theorem modCore_ports : (s.modCore p f).ports = s.ports := rfl
@[simp] theorem modCore_codeMarks : (s.modCore p f).codeMarks = s.codeMarks := rfl
@[simp] theorem modCore_mem : (s.modCore p f).mem = s.mem := rfl
@[simp] theorem modCore_tags : (s.modCore p f).tags = s.tags := rfl
@[simp] theorem modCore_lineKeys : (s.modCore p f).lineKeys = s.lineKeys := rfl
@[simp] theorem modCore_keyEpoch : (s.modCore p f).keyEpoch = s.keyEpoch := rfl

end

/-! `State.modCc` changes cores and nothing else. -/

section
variable (s : State) (f : Core → Core)

@[simp] theorem modCc_schedule : (s.modCc f).schedule = s.schedule := rfl
@[simp] theorem modCc_cur : (s.modCc f).cur = s.cur := rfl
@[simp] theorem modCc_free : (s.modCc f).free = s.free := rfl
@[simp] theorem modCc_phase : (s.modCc f).phase = s.phase := rfl
@[simp] theorem modCc_powered : (s.modCc f).powered = s.powered := rfl
@[simp] theorem modCc_clk : (s.modCc f).clk = s.clk := rfl
@[simp] theorem modCc_time13 : (s.modCc f).time13 = s.time13 := rfl
@[simp] theorem modCc_timeLocked : (s.modCc f).timeLocked = s.timeLocked := rfl
@[simp] theorem modCc_slew : (s.modCc f).slew = s.slew := rfl
@[simp] theorem modCc_mb : (s.modCc f).mb = s.mb := rfl
@[simp] theorem modCc_out : (s.modCc f).out = s.out := rfl
@[simp] theorem modCc_cmd : (s.modCc f).cmd = s.cmd := rfl
@[simp] theorem modCc_w0 : (s.modCc f).w0 = s.w0 := rfl
@[simp] theorem modCc_queues : (s.modCc f).queues = s.queues := rfl
@[simp] theorem modCc_tt : (s.modCc f).tt = s.tt := rfl
@[simp] theorem modCc_records : (s.modCc f).records = s.records := rfl
@[simp] theorem modCc_msix : (s.modCc f).msix = s.msix := rfl
@[simp] theorem modCc_hostData : (s.modCc f).hostData = s.hostData := rfl
@[simp] theorem modCc_peerOut : (s.modCc f).peerOut = s.peerOut := rfl
@[simp] theorem modCc_w2Base : (s.modCc f).w2Base = s.w2Base := rfl
@[simp] theorem modCc_w2Err : (s.modCc f).w2Err = s.w2Err := rfl
@[simp] theorem modCc_stepA : (s.modCc f).stepA = s.stepA := rfl
@[simp] theorem modCc_alarm : (s.modCc f).alarm = s.alarm := rfl
@[simp] theorem modCc_groups : (s.modCc f).groups = s.groups := rfl
@[simp] theorem modCc_throttleEnded : (s.modCc f).throttleEnded = s.throttleEnded := rfl
@[simp] theorem modCc_launches : (s.modCc f).launches = s.launches := rfl
@[simp] theorem modCc_columns : (s.modCc f).columns = s.columns := rfl
@[simp] theorem modCc_edges : (s.modCc f).edges = s.edges := rfl
@[simp] theorem modCc_halls : (s.modCc f).halls = s.halls := rfl
@[simp] theorem modCc_recasts : (s.modCc f).recasts = s.recasts := rfl
@[simp] theorem modCc_stubs : (s.modCc f).stubs = s.stubs := rfl
@[simp] theorem modCc_net : (s.modCc f).net = s.net := rfl
@[simp] theorem modCc_sent : (s.modCc f).sent = s.sent := rfl
@[simp] theorem modCc_links : (s.modCc f).links = s.links := rfl
@[simp] theorem modCc_ports : (s.modCc f).ports = s.ports := rfl
@[simp] theorem modCc_codeMarks : (s.modCc f).codeMarks = s.codeMarks := rfl
@[simp] theorem modCc_mem : (s.modCc f).mem = s.mem := rfl
@[simp] theorem modCc_tags : (s.modCc f).tags = s.tags := rfl
@[simp] theorem modCc_lineKeys : (s.modCc f).lineKeys = s.lineKeys := rfl
@[simp] theorem modCc_keyEpoch : (s.modCc f).keyEpoch = s.keyEpoch := rfl

end

/-! `State.modCx` changes cores and nothing else. -/

section
variable (s : State) (f : Ctx → Ctx)

@[simp] theorem modCx_schedule : (s.modCx f).schedule = s.schedule := rfl
@[simp] theorem modCx_cur : (s.modCx f).cur = s.cur := rfl
@[simp] theorem modCx_free : (s.modCx f).free = s.free := rfl
@[simp] theorem modCx_phase : (s.modCx f).phase = s.phase := rfl
@[simp] theorem modCx_powered : (s.modCx f).powered = s.powered := rfl
@[simp] theorem modCx_clk : (s.modCx f).clk = s.clk := rfl
@[simp] theorem modCx_time13 : (s.modCx f).time13 = s.time13 := rfl
@[simp] theorem modCx_timeLocked : (s.modCx f).timeLocked = s.timeLocked := rfl
@[simp] theorem modCx_slew : (s.modCx f).slew = s.slew := rfl
@[simp] theorem modCx_mb : (s.modCx f).mb = s.mb := rfl
@[simp] theorem modCx_out : (s.modCx f).out = s.out := rfl
@[simp] theorem modCx_cmd : (s.modCx f).cmd = s.cmd := rfl
@[simp] theorem modCx_w0 : (s.modCx f).w0 = s.w0 := rfl
@[simp] theorem modCx_queues : (s.modCx f).queues = s.queues := rfl
@[simp] theorem modCx_tt : (s.modCx f).tt = s.tt := rfl
@[simp] theorem modCx_records : (s.modCx f).records = s.records := rfl
@[simp] theorem modCx_msix : (s.modCx f).msix = s.msix := rfl
@[simp] theorem modCx_hostData : (s.modCx f).hostData = s.hostData := rfl
@[simp] theorem modCx_peerOut : (s.modCx f).peerOut = s.peerOut := rfl
@[simp] theorem modCx_w2Base : (s.modCx f).w2Base = s.w2Base := rfl
@[simp] theorem modCx_w2Err : (s.modCx f).w2Err = s.w2Err := rfl
@[simp] theorem modCx_stepA : (s.modCx f).stepA = s.stepA := rfl
@[simp] theorem modCx_alarm : (s.modCx f).alarm = s.alarm := rfl
@[simp] theorem modCx_groups : (s.modCx f).groups = s.groups := rfl
@[simp] theorem modCx_throttleEnded : (s.modCx f).throttleEnded = s.throttleEnded := rfl
@[simp] theorem modCx_launches : (s.modCx f).launches = s.launches := rfl
@[simp] theorem modCx_columns : (s.modCx f).columns = s.columns := rfl
@[simp] theorem modCx_edges : (s.modCx f).edges = s.edges := rfl
@[simp] theorem modCx_halls : (s.modCx f).halls = s.halls := rfl
@[simp] theorem modCx_recasts : (s.modCx f).recasts = s.recasts := rfl
@[simp] theorem modCx_stubs : (s.modCx f).stubs = s.stubs := rfl
@[simp] theorem modCx_net : (s.modCx f).net = s.net := rfl
@[simp] theorem modCx_sent : (s.modCx f).sent = s.sent := rfl
@[simp] theorem modCx_links : (s.modCx f).links = s.links := rfl
@[simp] theorem modCx_ports : (s.modCx f).ports = s.ports := rfl
@[simp] theorem modCx_codeMarks : (s.modCx f).codeMarks = s.codeMarks := rfl
@[simp] theorem modCx_mem : (s.modCx f).mem = s.mem := rfl
@[simp] theorem modCx_tags : (s.modCx f).tags = s.tags := rfl
@[simp] theorem modCx_lineKeys : (s.modCx f).lineKeys = s.lineKeys := rfl
@[simp] theorem modCx_keyEpoch : (s.modCx f).keyEpoch = s.keyEpoch := rfl

end

/-! `State.modColumn` changes columns and nothing else. -/

section
variable (s : State) (k : Nat) (f : Column → Column)

@[simp] theorem modColumn_schedule : (s.modColumn k f).schedule = s.schedule := rfl
@[simp] theorem modColumn_cur : (s.modColumn k f).cur = s.cur := rfl
@[simp] theorem modColumn_free : (s.modColumn k f).free = s.free := rfl
@[simp] theorem modColumn_phase : (s.modColumn k f).phase = s.phase := rfl
@[simp] theorem modColumn_powered : (s.modColumn k f).powered = s.powered := rfl
@[simp] theorem modColumn_clk : (s.modColumn k f).clk = s.clk := rfl
@[simp] theorem modColumn_time13 : (s.modColumn k f).time13 = s.time13 := rfl
@[simp] theorem modColumn_timeLocked : (s.modColumn k f).timeLocked = s.timeLocked := rfl
@[simp] theorem modColumn_slew : (s.modColumn k f).slew = s.slew := rfl
@[simp] theorem modColumn_mb : (s.modColumn k f).mb = s.mb := rfl
@[simp] theorem modColumn_out : (s.modColumn k f).out = s.out := rfl
@[simp] theorem modColumn_cmd : (s.modColumn k f).cmd = s.cmd := rfl
@[simp] theorem modColumn_w0 : (s.modColumn k f).w0 = s.w0 := rfl
@[simp] theorem modColumn_queues : (s.modColumn k f).queues = s.queues := rfl
@[simp] theorem modColumn_tt : (s.modColumn k f).tt = s.tt := rfl
@[simp] theorem modColumn_records : (s.modColumn k f).records = s.records := rfl
@[simp] theorem modColumn_msix : (s.modColumn k f).msix = s.msix := rfl
@[simp] theorem modColumn_hostData : (s.modColumn k f).hostData = s.hostData := rfl
@[simp] theorem modColumn_peerOut : (s.modColumn k f).peerOut = s.peerOut := rfl
@[simp] theorem modColumn_w2Base : (s.modColumn k f).w2Base = s.w2Base := rfl
@[simp] theorem modColumn_w2Err : (s.modColumn k f).w2Err = s.w2Err := rfl
@[simp] theorem modColumn_stepA : (s.modColumn k f).stepA = s.stepA := rfl
@[simp] theorem modColumn_alarm : (s.modColumn k f).alarm = s.alarm := rfl
@[simp] theorem modColumn_groups : (s.modColumn k f).groups = s.groups := rfl
@[simp] theorem modColumn_throttleEnded : (s.modColumn k f).throttleEnded = s.throttleEnded := rfl
@[simp] theorem modColumn_launches : (s.modColumn k f).launches = s.launches := rfl
@[simp] theorem modColumn_cores : (s.modColumn k f).cores = s.cores := rfl
@[simp] theorem modColumn_edges : (s.modColumn k f).edges = s.edges := rfl
@[simp] theorem modColumn_halls : (s.modColumn k f).halls = s.halls := rfl
@[simp] theorem modColumn_recasts : (s.modColumn k f).recasts = s.recasts := rfl
@[simp] theorem modColumn_stubs : (s.modColumn k f).stubs = s.stubs := rfl
@[simp] theorem modColumn_net : (s.modColumn k f).net = s.net := rfl
@[simp] theorem modColumn_sent : (s.modColumn k f).sent = s.sent := rfl
@[simp] theorem modColumn_links : (s.modColumn k f).links = s.links := rfl
@[simp] theorem modColumn_ports : (s.modColumn k f).ports = s.ports := rfl
@[simp] theorem modColumn_codeMarks : (s.modColumn k f).codeMarks = s.codeMarks := rfl
@[simp] theorem modColumn_mem : (s.modColumn k f).mem = s.mem := rfl
@[simp] theorem modColumn_tags : (s.modColumn k f).tags = s.tags := rfl
@[simp] theorem modColumn_lineKeys : (s.modColumn k f).lineKeys = s.lineKeys := rfl
@[simp] theorem modColumn_keyEpoch : (s.modColumn k f).keyEpoch = s.keyEpoch := rfl

end

/-! `State.modEdge` changes edges and nothing else. -/

section
variable (s : State) (k : Nat) (f : EdgeCtl → EdgeCtl)

@[simp] theorem modEdge_schedule : (s.modEdge k f).schedule = s.schedule := rfl
@[simp] theorem modEdge_cur : (s.modEdge k f).cur = s.cur := rfl
@[simp] theorem modEdge_free : (s.modEdge k f).free = s.free := rfl
@[simp] theorem modEdge_phase : (s.modEdge k f).phase = s.phase := rfl
@[simp] theorem modEdge_powered : (s.modEdge k f).powered = s.powered := rfl
@[simp] theorem modEdge_clk : (s.modEdge k f).clk = s.clk := rfl
@[simp] theorem modEdge_time13 : (s.modEdge k f).time13 = s.time13 := rfl
@[simp] theorem modEdge_timeLocked : (s.modEdge k f).timeLocked = s.timeLocked := rfl
@[simp] theorem modEdge_slew : (s.modEdge k f).slew = s.slew := rfl
@[simp] theorem modEdge_mb : (s.modEdge k f).mb = s.mb := rfl
@[simp] theorem modEdge_out : (s.modEdge k f).out = s.out := rfl
@[simp] theorem modEdge_cmd : (s.modEdge k f).cmd = s.cmd := rfl
@[simp] theorem modEdge_w0 : (s.modEdge k f).w0 = s.w0 := rfl
@[simp] theorem modEdge_queues : (s.modEdge k f).queues = s.queues := rfl
@[simp] theorem modEdge_tt : (s.modEdge k f).tt = s.tt := rfl
@[simp] theorem modEdge_records : (s.modEdge k f).records = s.records := rfl
@[simp] theorem modEdge_msix : (s.modEdge k f).msix = s.msix := rfl
@[simp] theorem modEdge_hostData : (s.modEdge k f).hostData = s.hostData := rfl
@[simp] theorem modEdge_peerOut : (s.modEdge k f).peerOut = s.peerOut := rfl
@[simp] theorem modEdge_w2Base : (s.modEdge k f).w2Base = s.w2Base := rfl
@[simp] theorem modEdge_w2Err : (s.modEdge k f).w2Err = s.w2Err := rfl
@[simp] theorem modEdge_stepA : (s.modEdge k f).stepA = s.stepA := rfl
@[simp] theorem modEdge_alarm : (s.modEdge k f).alarm = s.alarm := rfl
@[simp] theorem modEdge_groups : (s.modEdge k f).groups = s.groups := rfl
@[simp] theorem modEdge_throttleEnded : (s.modEdge k f).throttleEnded = s.throttleEnded := rfl
@[simp] theorem modEdge_launches : (s.modEdge k f).launches = s.launches := rfl
@[simp] theorem modEdge_cores : (s.modEdge k f).cores = s.cores := rfl
@[simp] theorem modEdge_columns : (s.modEdge k f).columns = s.columns := rfl
@[simp] theorem modEdge_halls : (s.modEdge k f).halls = s.halls := rfl
@[simp] theorem modEdge_recasts : (s.modEdge k f).recasts = s.recasts := rfl
@[simp] theorem modEdge_stubs : (s.modEdge k f).stubs = s.stubs := rfl
@[simp] theorem modEdge_net : (s.modEdge k f).net = s.net := rfl
@[simp] theorem modEdge_sent : (s.modEdge k f).sent = s.sent := rfl
@[simp] theorem modEdge_links : (s.modEdge k f).links = s.links := rfl
@[simp] theorem modEdge_ports : (s.modEdge k f).ports = s.ports := rfl
@[simp] theorem modEdge_codeMarks : (s.modEdge k f).codeMarks = s.codeMarks := rfl
@[simp] theorem modEdge_mem : (s.modEdge k f).mem = s.mem := rfl
@[simp] theorem modEdge_tags : (s.modEdge k f).tags = s.tags := rfl
@[simp] theorem modEdge_lineKeys : (s.modEdge k f).lineKeys = s.lineKeys := rfl
@[simp] theorem modEdge_keyEpoch : (s.modEdge k f).keyEpoch = s.keyEpoch := rfl

end

/-! `State.modHall` changes halls and nothing else. -/

section
variable (s : State) (h : Nat) (f : Hall → Hall)

@[simp] theorem modHall_schedule : (s.modHall h f).schedule = s.schedule := rfl
@[simp] theorem modHall_cur : (s.modHall h f).cur = s.cur := rfl
@[simp] theorem modHall_free : (s.modHall h f).free = s.free := rfl
@[simp] theorem modHall_phase : (s.modHall h f).phase = s.phase := rfl
@[simp] theorem modHall_powered : (s.modHall h f).powered = s.powered := rfl
@[simp] theorem modHall_clk : (s.modHall h f).clk = s.clk := rfl
@[simp] theorem modHall_time13 : (s.modHall h f).time13 = s.time13 := rfl
@[simp] theorem modHall_timeLocked : (s.modHall h f).timeLocked = s.timeLocked := rfl
@[simp] theorem modHall_slew : (s.modHall h f).slew = s.slew := rfl
@[simp] theorem modHall_mb : (s.modHall h f).mb = s.mb := rfl
@[simp] theorem modHall_out : (s.modHall h f).out = s.out := rfl
@[simp] theorem modHall_cmd : (s.modHall h f).cmd = s.cmd := rfl
@[simp] theorem modHall_w0 : (s.modHall h f).w0 = s.w0 := rfl
@[simp] theorem modHall_queues : (s.modHall h f).queues = s.queues := rfl
@[simp] theorem modHall_tt : (s.modHall h f).tt = s.tt := rfl
@[simp] theorem modHall_records : (s.modHall h f).records = s.records := rfl
@[simp] theorem modHall_msix : (s.modHall h f).msix = s.msix := rfl
@[simp] theorem modHall_hostData : (s.modHall h f).hostData = s.hostData := rfl
@[simp] theorem modHall_peerOut : (s.modHall h f).peerOut = s.peerOut := rfl
@[simp] theorem modHall_w2Base : (s.modHall h f).w2Base = s.w2Base := rfl
@[simp] theorem modHall_w2Err : (s.modHall h f).w2Err = s.w2Err := rfl
@[simp] theorem modHall_stepA : (s.modHall h f).stepA = s.stepA := rfl
@[simp] theorem modHall_alarm : (s.modHall h f).alarm = s.alarm := rfl
@[simp] theorem modHall_groups : (s.modHall h f).groups = s.groups := rfl
@[simp] theorem modHall_throttleEnded : (s.modHall h f).throttleEnded = s.throttleEnded := rfl
@[simp] theorem modHall_launches : (s.modHall h f).launches = s.launches := rfl
@[simp] theorem modHall_cores : (s.modHall h f).cores = s.cores := rfl
@[simp] theorem modHall_columns : (s.modHall h f).columns = s.columns := rfl
@[simp] theorem modHall_edges : (s.modHall h f).edges = s.edges := rfl
@[simp] theorem modHall_recasts : (s.modHall h f).recasts = s.recasts := rfl
@[simp] theorem modHall_stubs : (s.modHall h f).stubs = s.stubs := rfl
@[simp] theorem modHall_net : (s.modHall h f).net = s.net := rfl
@[simp] theorem modHall_sent : (s.modHall h f).sent = s.sent := rfl
@[simp] theorem modHall_links : (s.modHall h f).links = s.links := rfl
@[simp] theorem modHall_ports : (s.modHall h f).ports = s.ports := rfl
@[simp] theorem modHall_codeMarks : (s.modHall h f).codeMarks = s.codeMarks := rfl
@[simp] theorem modHall_mem : (s.modHall h f).mem = s.mem := rfl
@[simp] theorem modHall_tags : (s.modHall h f).tags = s.tags := rfl
@[simp] theorem modHall_lineKeys : (s.modHall h f).lineKeys = s.lineKeys := rfl
@[simp] theorem modHall_keyEpoch : (s.modHall h f).keyEpoch = s.keyEpoch := rfl

end

/-! `State.modTally` changes halls and nothing else. -/

section
variable (s : State) (h lid : Nat) (f : Tally → Tally)

@[simp] theorem modTally_schedule : (s.modTally h lid f).schedule = s.schedule := rfl
@[simp] theorem modTally_cur : (s.modTally h lid f).cur = s.cur := rfl
@[simp] theorem modTally_free : (s.modTally h lid f).free = s.free := rfl
@[simp] theorem modTally_phase : (s.modTally h lid f).phase = s.phase := rfl
@[simp] theorem modTally_powered : (s.modTally h lid f).powered = s.powered := rfl
@[simp] theorem modTally_clk : (s.modTally h lid f).clk = s.clk := rfl
@[simp] theorem modTally_time13 : (s.modTally h lid f).time13 = s.time13 := rfl
@[simp] theorem modTally_timeLocked : (s.modTally h lid f).timeLocked = s.timeLocked := rfl
@[simp] theorem modTally_slew : (s.modTally h lid f).slew = s.slew := rfl
@[simp] theorem modTally_mb : (s.modTally h lid f).mb = s.mb := rfl
@[simp] theorem modTally_out : (s.modTally h lid f).out = s.out := rfl
@[simp] theorem modTally_cmd : (s.modTally h lid f).cmd = s.cmd := rfl
@[simp] theorem modTally_w0 : (s.modTally h lid f).w0 = s.w0 := rfl
@[simp] theorem modTally_queues : (s.modTally h lid f).queues = s.queues := rfl
@[simp] theorem modTally_tt : (s.modTally h lid f).tt = s.tt := rfl
@[simp] theorem modTally_records : (s.modTally h lid f).records = s.records := rfl
@[simp] theorem modTally_msix : (s.modTally h lid f).msix = s.msix := rfl
@[simp] theorem modTally_hostData : (s.modTally h lid f).hostData = s.hostData := rfl
@[simp] theorem modTally_peerOut : (s.modTally h lid f).peerOut = s.peerOut := rfl
@[simp] theorem modTally_w2Base : (s.modTally h lid f).w2Base = s.w2Base := rfl
@[simp] theorem modTally_w2Err : (s.modTally h lid f).w2Err = s.w2Err := rfl
@[simp] theorem modTally_stepA : (s.modTally h lid f).stepA = s.stepA := rfl
@[simp] theorem modTally_alarm : (s.modTally h lid f).alarm = s.alarm := rfl
@[simp] theorem modTally_groups : (s.modTally h lid f).groups = s.groups := rfl
@[simp] theorem modTally_throttleEnded : (s.modTally h lid f).throttleEnded = s.throttleEnded := rfl
@[simp] theorem modTally_launches : (s.modTally h lid f).launches = s.launches := rfl
@[simp] theorem modTally_cores : (s.modTally h lid f).cores = s.cores := rfl
@[simp] theorem modTally_columns : (s.modTally h lid f).columns = s.columns := rfl
@[simp] theorem modTally_edges : (s.modTally h lid f).edges = s.edges := rfl
@[simp] theorem modTally_recasts : (s.modTally h lid f).recasts = s.recasts := rfl
@[simp] theorem modTally_stubs : (s.modTally h lid f).stubs = s.stubs := rfl
@[simp] theorem modTally_net : (s.modTally h lid f).net = s.net := rfl
@[simp] theorem modTally_sent : (s.modTally h lid f).sent = s.sent := rfl
@[simp] theorem modTally_links : (s.modTally h lid f).links = s.links := rfl
@[simp] theorem modTally_ports : (s.modTally h lid f).ports = s.ports := rfl
@[simp] theorem modTally_codeMarks : (s.modTally h lid f).codeMarks = s.codeMarks := rfl
@[simp] theorem modTally_mem : (s.modTally h lid f).mem = s.mem := rfl
@[simp] theorem modTally_tags : (s.modTally h lid f).tags = s.tags := rfl
@[simp] theorem modTally_lineKeys : (s.modTally h lid f).lineKeys = s.lineKeys := rfl
@[simp] theorem modTally_keyEpoch : (s.modTally h lid f).keyEpoch = s.keyEpoch := rfl

end

/-! `State.modQueue` changes queues and nothing else. -/

section
variable (s : State) (q : Nat) (f : Queue → Queue)

@[simp] theorem modQueue_schedule : (s.modQueue q f).schedule = s.schedule := rfl
@[simp] theorem modQueue_cur : (s.modQueue q f).cur = s.cur := rfl
@[simp] theorem modQueue_free : (s.modQueue q f).free = s.free := rfl
@[simp] theorem modQueue_phase : (s.modQueue q f).phase = s.phase := rfl
@[simp] theorem modQueue_powered : (s.modQueue q f).powered = s.powered := rfl
@[simp] theorem modQueue_clk : (s.modQueue q f).clk = s.clk := rfl
@[simp] theorem modQueue_time13 : (s.modQueue q f).time13 = s.time13 := rfl
@[simp] theorem modQueue_timeLocked : (s.modQueue q f).timeLocked = s.timeLocked := rfl
@[simp] theorem modQueue_slew : (s.modQueue q f).slew = s.slew := rfl
@[simp] theorem modQueue_mb : (s.modQueue q f).mb = s.mb := rfl
@[simp] theorem modQueue_out : (s.modQueue q f).out = s.out := rfl
@[simp] theorem modQueue_cmd : (s.modQueue q f).cmd = s.cmd := rfl
@[simp] theorem modQueue_w0 : (s.modQueue q f).w0 = s.w0 := rfl
@[simp] theorem modQueue_tt : (s.modQueue q f).tt = s.tt := rfl
@[simp] theorem modQueue_records : (s.modQueue q f).records = s.records := rfl
@[simp] theorem modQueue_msix : (s.modQueue q f).msix = s.msix := rfl
@[simp] theorem modQueue_hostData : (s.modQueue q f).hostData = s.hostData := rfl
@[simp] theorem modQueue_peerOut : (s.modQueue q f).peerOut = s.peerOut := rfl
@[simp] theorem modQueue_w2Base : (s.modQueue q f).w2Base = s.w2Base := rfl
@[simp] theorem modQueue_w2Err : (s.modQueue q f).w2Err = s.w2Err := rfl
@[simp] theorem modQueue_stepA : (s.modQueue q f).stepA = s.stepA := rfl
@[simp] theorem modQueue_alarm : (s.modQueue q f).alarm = s.alarm := rfl
@[simp] theorem modQueue_groups : (s.modQueue q f).groups = s.groups := rfl
@[simp] theorem modQueue_throttleEnded : (s.modQueue q f).throttleEnded = s.throttleEnded := rfl
@[simp] theorem modQueue_launches : (s.modQueue q f).launches = s.launches := rfl
@[simp] theorem modQueue_cores : (s.modQueue q f).cores = s.cores := rfl
@[simp] theorem modQueue_columns : (s.modQueue q f).columns = s.columns := rfl
@[simp] theorem modQueue_edges : (s.modQueue q f).edges = s.edges := rfl
@[simp] theorem modQueue_halls : (s.modQueue q f).halls = s.halls := rfl
@[simp] theorem modQueue_recasts : (s.modQueue q f).recasts = s.recasts := rfl
@[simp] theorem modQueue_stubs : (s.modQueue q f).stubs = s.stubs := rfl
@[simp] theorem modQueue_net : (s.modQueue q f).net = s.net := rfl
@[simp] theorem modQueue_sent : (s.modQueue q f).sent = s.sent := rfl
@[simp] theorem modQueue_links : (s.modQueue q f).links = s.links := rfl
@[simp] theorem modQueue_ports : (s.modQueue q f).ports = s.ports := rfl
@[simp] theorem modQueue_codeMarks : (s.modQueue q f).codeMarks = s.codeMarks := rfl
@[simp] theorem modQueue_mem : (s.modQueue q f).mem = s.mem := rfl
@[simp] theorem modQueue_tags : (s.modQueue q f).tags = s.tags := rfl
@[simp] theorem modQueue_lineKeys : (s.modQueue q f).lineKeys = s.lineKeys := rfl
@[simp] theorem modQueue_keyEpoch : (s.modQueue q f).keyEpoch = s.keyEpoch := rfl

end

/-! `State.modTt` changes tt and nothing else. -/

section
variable (s : State) (e : Nat) (f : TTEntry → TTEntry)

@[simp] theorem modTt_schedule : (s.modTt e f).schedule = s.schedule := rfl
@[simp] theorem modTt_cur : (s.modTt e f).cur = s.cur := rfl
@[simp] theorem modTt_free : (s.modTt e f).free = s.free := rfl
@[simp] theorem modTt_phase : (s.modTt e f).phase = s.phase := rfl
@[simp] theorem modTt_powered : (s.modTt e f).powered = s.powered := rfl
@[simp] theorem modTt_clk : (s.modTt e f).clk = s.clk := rfl
@[simp] theorem modTt_time13 : (s.modTt e f).time13 = s.time13 := rfl
@[simp] theorem modTt_timeLocked : (s.modTt e f).timeLocked = s.timeLocked := rfl
@[simp] theorem modTt_slew : (s.modTt e f).slew = s.slew := rfl
@[simp] theorem modTt_mb : (s.modTt e f).mb = s.mb := rfl
@[simp] theorem modTt_out : (s.modTt e f).out = s.out := rfl
@[simp] theorem modTt_cmd : (s.modTt e f).cmd = s.cmd := rfl
@[simp] theorem modTt_w0 : (s.modTt e f).w0 = s.w0 := rfl
@[simp] theorem modTt_queues : (s.modTt e f).queues = s.queues := rfl
@[simp] theorem modTt_records : (s.modTt e f).records = s.records := rfl
@[simp] theorem modTt_msix : (s.modTt e f).msix = s.msix := rfl
@[simp] theorem modTt_hostData : (s.modTt e f).hostData = s.hostData := rfl
@[simp] theorem modTt_peerOut : (s.modTt e f).peerOut = s.peerOut := rfl
@[simp] theorem modTt_w2Base : (s.modTt e f).w2Base = s.w2Base := rfl
@[simp] theorem modTt_w2Err : (s.modTt e f).w2Err = s.w2Err := rfl
@[simp] theorem modTt_stepA : (s.modTt e f).stepA = s.stepA := rfl
@[simp] theorem modTt_alarm : (s.modTt e f).alarm = s.alarm := rfl
@[simp] theorem modTt_groups : (s.modTt e f).groups = s.groups := rfl
@[simp] theorem modTt_throttleEnded : (s.modTt e f).throttleEnded = s.throttleEnded := rfl
@[simp] theorem modTt_launches : (s.modTt e f).launches = s.launches := rfl
@[simp] theorem modTt_cores : (s.modTt e f).cores = s.cores := rfl
@[simp] theorem modTt_columns : (s.modTt e f).columns = s.columns := rfl
@[simp] theorem modTt_edges : (s.modTt e f).edges = s.edges := rfl
@[simp] theorem modTt_halls : (s.modTt e f).halls = s.halls := rfl
@[simp] theorem modTt_recasts : (s.modTt e f).recasts = s.recasts := rfl
@[simp] theorem modTt_stubs : (s.modTt e f).stubs = s.stubs := rfl
@[simp] theorem modTt_net : (s.modTt e f).net = s.net := rfl
@[simp] theorem modTt_sent : (s.modTt e f).sent = s.sent := rfl
@[simp] theorem modTt_links : (s.modTt e f).links = s.links := rfl
@[simp] theorem modTt_ports : (s.modTt e f).ports = s.ports := rfl
@[simp] theorem modTt_codeMarks : (s.modTt e f).codeMarks = s.codeMarks := rfl
@[simp] theorem modTt_mem : (s.modTt e f).mem = s.mem := rfl
@[simp] theorem modTt_tags : (s.modTt e f).tags = s.tags := rfl
@[simp] theorem modTt_lineKeys : (s.modTt e f).lineKeys = s.lineKeys := rfl
@[simp] theorem modTt_keyEpoch : (s.modTt e f).keyEpoch = s.keyEpoch := rfl

end

/-! `State.send` changes net and sent and nothing else. -/

section
variable (s : State) (p : Packet)

@[simp] theorem send_schedule : (s.send p).schedule = s.schedule := rfl
@[simp] theorem send_cur : (s.send p).cur = s.cur := rfl
@[simp] theorem send_free : (s.send p).free = s.free := rfl
@[simp] theorem send_phase : (s.send p).phase = s.phase := rfl
@[simp] theorem send_powered : (s.send p).powered = s.powered := rfl
@[simp] theorem send_clk : (s.send p).clk = s.clk := rfl
@[simp] theorem send_time13 : (s.send p).time13 = s.time13 := rfl
@[simp] theorem send_timeLocked : (s.send p).timeLocked = s.timeLocked := rfl
@[simp] theorem send_slew : (s.send p).slew = s.slew := rfl
@[simp] theorem send_mb : (s.send p).mb = s.mb := rfl
@[simp] theorem send_out : (s.send p).out = s.out := rfl
@[simp] theorem send_cmd : (s.send p).cmd = s.cmd := rfl
@[simp] theorem send_w0 : (s.send p).w0 = s.w0 := rfl
@[simp] theorem send_queues : (s.send p).queues = s.queues := rfl
@[simp] theorem send_tt : (s.send p).tt = s.tt := rfl
@[simp] theorem send_records : (s.send p).records = s.records := rfl
@[simp] theorem send_msix : (s.send p).msix = s.msix := rfl
@[simp] theorem send_hostData : (s.send p).hostData = s.hostData := rfl
@[simp] theorem send_peerOut : (s.send p).peerOut = s.peerOut := rfl
@[simp] theorem send_w2Base : (s.send p).w2Base = s.w2Base := rfl
@[simp] theorem send_w2Err : (s.send p).w2Err = s.w2Err := rfl
@[simp] theorem send_stepA : (s.send p).stepA = s.stepA := rfl
@[simp] theorem send_alarm : (s.send p).alarm = s.alarm := rfl
@[simp] theorem send_groups : (s.send p).groups = s.groups := rfl
@[simp] theorem send_throttleEnded : (s.send p).throttleEnded = s.throttleEnded := rfl
@[simp] theorem send_launches : (s.send p).launches = s.launches := rfl
@[simp] theorem send_cores : (s.send p).cores = s.cores := rfl
@[simp] theorem send_columns : (s.send p).columns = s.columns := rfl
@[simp] theorem send_edges : (s.send p).edges = s.edges := rfl
@[simp] theorem send_halls : (s.send p).halls = s.halls := rfl
@[simp] theorem send_recasts : (s.send p).recasts = s.recasts := rfl
@[simp] theorem send_stubs : (s.send p).stubs = s.stubs := rfl
@[simp] theorem send_links : (s.send p).links = s.links := rfl
@[simp] theorem send_ports : (s.send p).ports = s.ports := rfl
@[simp] theorem send_codeMarks : (s.send p).codeMarks = s.codeMarks := rfl
@[simp] theorem send_mem : (s.send p).mem = s.mem := rfl
@[simp] theorem send_tags : (s.send p).tags = s.tags := rfl
@[simp] theorem send_lineKeys : (s.send p).lineKeys = s.lineKeys := rfl
@[simp] theorem send_keyEpoch : (s.send p).keyEpoch = s.keyEpoch := rfl

end

/-! `State.dropPacket` changes net and nothing else. -/

section
variable (s : State) (k : Nat)

@[simp] theorem dropPacket_schedule : (s.dropPacket k).schedule = s.schedule := rfl
@[simp] theorem dropPacket_cur : (s.dropPacket k).cur = s.cur := rfl
@[simp] theorem dropPacket_free : (s.dropPacket k).free = s.free := rfl
@[simp] theorem dropPacket_phase : (s.dropPacket k).phase = s.phase := rfl
@[simp] theorem dropPacket_powered : (s.dropPacket k).powered = s.powered := rfl
@[simp] theorem dropPacket_clk : (s.dropPacket k).clk = s.clk := rfl
@[simp] theorem dropPacket_time13 : (s.dropPacket k).time13 = s.time13 := rfl
@[simp] theorem dropPacket_timeLocked : (s.dropPacket k).timeLocked = s.timeLocked := rfl
@[simp] theorem dropPacket_slew : (s.dropPacket k).slew = s.slew := rfl
@[simp] theorem dropPacket_mb : (s.dropPacket k).mb = s.mb := rfl
@[simp] theorem dropPacket_out : (s.dropPacket k).out = s.out := rfl
@[simp] theorem dropPacket_cmd : (s.dropPacket k).cmd = s.cmd := rfl
@[simp] theorem dropPacket_w0 : (s.dropPacket k).w0 = s.w0 := rfl
@[simp] theorem dropPacket_queues : (s.dropPacket k).queues = s.queues := rfl
@[simp] theorem dropPacket_tt : (s.dropPacket k).tt = s.tt := rfl
@[simp] theorem dropPacket_records : (s.dropPacket k).records = s.records := rfl
@[simp] theorem dropPacket_msix : (s.dropPacket k).msix = s.msix := rfl
@[simp] theorem dropPacket_hostData : (s.dropPacket k).hostData = s.hostData := rfl
@[simp] theorem dropPacket_peerOut : (s.dropPacket k).peerOut = s.peerOut := rfl
@[simp] theorem dropPacket_w2Base : (s.dropPacket k).w2Base = s.w2Base := rfl
@[simp] theorem dropPacket_w2Err : (s.dropPacket k).w2Err = s.w2Err := rfl
@[simp] theorem dropPacket_stepA : (s.dropPacket k).stepA = s.stepA := rfl
@[simp] theorem dropPacket_alarm : (s.dropPacket k).alarm = s.alarm := rfl
@[simp] theorem dropPacket_groups : (s.dropPacket k).groups = s.groups := rfl
@[simp] theorem dropPacket_throttleEnded : (s.dropPacket k).throttleEnded = s.throttleEnded := rfl
@[simp] theorem dropPacket_launches : (s.dropPacket k).launches = s.launches := rfl
@[simp] theorem dropPacket_cores : (s.dropPacket k).cores = s.cores := rfl
@[simp] theorem dropPacket_columns : (s.dropPacket k).columns = s.columns := rfl
@[simp] theorem dropPacket_edges : (s.dropPacket k).edges = s.edges := rfl
@[simp] theorem dropPacket_halls : (s.dropPacket k).halls = s.halls := rfl
@[simp] theorem dropPacket_recasts : (s.dropPacket k).recasts = s.recasts := rfl
@[simp] theorem dropPacket_stubs : (s.dropPacket k).stubs = s.stubs := rfl
@[simp] theorem dropPacket_sent : (s.dropPacket k).sent = s.sent := rfl
@[simp] theorem dropPacket_links : (s.dropPacket k).links = s.links := rfl
@[simp] theorem dropPacket_ports : (s.dropPacket k).ports = s.ports := rfl
@[simp] theorem dropPacket_codeMarks : (s.dropPacket k).codeMarks = s.codeMarks := rfl
@[simp] theorem dropPacket_mem : (s.dropPacket k).mem = s.mem := rfl
@[simp] theorem dropPacket_tags : (s.dropPacket k).tags = s.tags := rfl
@[simp] theorem dropPacket_lineKeys : (s.dropPacket k).lineKeys = s.lineKeys := rfl
@[simp] theorem dropPacket_keyEpoch : (s.dropPacket k).keyEpoch = s.keyEpoch := rfl

end

/-! `State.storeTagged` changes mem and tags and nothing else. -/

section
variable (s : State) (pa : Nat) (bs : List Byte) (mask : List (BitVec 2)) (set : List Nat)

@[simp] theorem storeTagged_schedule : (s.storeTagged pa bs mask set).schedule = s.schedule := rfl
@[simp] theorem storeTagged_cur : (s.storeTagged pa bs mask set).cur = s.cur := rfl
@[simp] theorem storeTagged_free : (s.storeTagged pa bs mask set).free = s.free := rfl
@[simp] theorem storeTagged_phase : (s.storeTagged pa bs mask set).phase = s.phase := rfl
@[simp] theorem storeTagged_powered : (s.storeTagged pa bs mask set).powered = s.powered := rfl
@[simp] theorem storeTagged_clk : (s.storeTagged pa bs mask set).clk = s.clk := rfl
@[simp] theorem storeTagged_time13 : (s.storeTagged pa bs mask set).time13 = s.time13 := rfl
@[simp] theorem storeTagged_timeLocked : (s.storeTagged pa bs mask set).timeLocked = s.timeLocked := rfl
@[simp] theorem storeTagged_slew : (s.storeTagged pa bs mask set).slew = s.slew := rfl
@[simp] theorem storeTagged_mb : (s.storeTagged pa bs mask set).mb = s.mb := rfl
@[simp] theorem storeTagged_out : (s.storeTagged pa bs mask set).out = s.out := rfl
@[simp] theorem storeTagged_cmd : (s.storeTagged pa bs mask set).cmd = s.cmd := rfl
@[simp] theorem storeTagged_w0 : (s.storeTagged pa bs mask set).w0 = s.w0 := rfl
@[simp] theorem storeTagged_queues : (s.storeTagged pa bs mask set).queues = s.queues := rfl
@[simp] theorem storeTagged_tt : (s.storeTagged pa bs mask set).tt = s.tt := rfl
@[simp] theorem storeTagged_records : (s.storeTagged pa bs mask set).records = s.records := rfl
@[simp] theorem storeTagged_msix : (s.storeTagged pa bs mask set).msix = s.msix := rfl
@[simp] theorem storeTagged_hostData : (s.storeTagged pa bs mask set).hostData = s.hostData := rfl
@[simp] theorem storeTagged_peerOut : (s.storeTagged pa bs mask set).peerOut = s.peerOut := rfl
@[simp] theorem storeTagged_w2Base : (s.storeTagged pa bs mask set).w2Base = s.w2Base := rfl
@[simp] theorem storeTagged_w2Err : (s.storeTagged pa bs mask set).w2Err = s.w2Err := rfl
@[simp] theorem storeTagged_stepA : (s.storeTagged pa bs mask set).stepA = s.stepA := rfl
@[simp] theorem storeTagged_alarm : (s.storeTagged pa bs mask set).alarm = s.alarm := rfl
@[simp] theorem storeTagged_groups : (s.storeTagged pa bs mask set).groups = s.groups := rfl
@[simp] theorem storeTagged_throttleEnded : (s.storeTagged pa bs mask set).throttleEnded = s.throttleEnded := rfl
@[simp] theorem storeTagged_launches : (s.storeTagged pa bs mask set).launches = s.launches := rfl
@[simp] theorem storeTagged_cores : (s.storeTagged pa bs mask set).cores = s.cores := rfl
@[simp] theorem storeTagged_columns : (s.storeTagged pa bs mask set).columns = s.columns := rfl
@[simp] theorem storeTagged_edges : (s.storeTagged pa bs mask set).edges = s.edges := rfl
@[simp] theorem storeTagged_halls : (s.storeTagged pa bs mask set).halls = s.halls := rfl
@[simp] theorem storeTagged_recasts : (s.storeTagged pa bs mask set).recasts = s.recasts := rfl
@[simp] theorem storeTagged_stubs : (s.storeTagged pa bs mask set).stubs = s.stubs := rfl
@[simp] theorem storeTagged_net : (s.storeTagged pa bs mask set).net = s.net := rfl
@[simp] theorem storeTagged_sent : (s.storeTagged pa bs mask set).sent = s.sent := rfl
@[simp] theorem storeTagged_links : (s.storeTagged pa bs mask set).links = s.links := rfl
@[simp] theorem storeTagged_ports : (s.storeTagged pa bs mask set).ports = s.ports := rfl
@[simp] theorem storeTagged_codeMarks : (s.storeTagged pa bs mask set).codeMarks = s.codeMarks := rfl
@[simp] theorem storeTagged_lineKeys : (s.storeTagged pa bs mask set).lineKeys = s.lineKeys := rfl
@[simp] theorem storeTagged_keyEpoch : (s.storeTagged pa bs mask set).keyEpoch = s.keyEpoch := rfl

end

/-! `State.modLaunch` changes launches and nothing else. -/

section
variable (s : State) (lid : Nat) (f : Launch → Launch)

@[simp] theorem modLaunch_schedule : (s.modLaunch lid f).schedule = s.schedule := by unfold State.modLaunch; split <;> rfl
@[simp] theorem modLaunch_cur : (s.modLaunch lid f).cur = s.cur := by unfold State.modLaunch; split <;> rfl
@[simp] theorem modLaunch_free : (s.modLaunch lid f).free = s.free := by unfold State.modLaunch; split <;> rfl
@[simp] theorem modLaunch_phase : (s.modLaunch lid f).phase = s.phase := by unfold State.modLaunch; split <;> rfl
@[simp] theorem modLaunch_powered : (s.modLaunch lid f).powered = s.powered := by unfold State.modLaunch; split <;> rfl
@[simp] theorem modLaunch_clk : (s.modLaunch lid f).clk = s.clk := by unfold State.modLaunch; split <;> rfl
@[simp] theorem modLaunch_time13 : (s.modLaunch lid f).time13 = s.time13 := by unfold State.modLaunch; split <;> rfl
@[simp] theorem modLaunch_timeLocked : (s.modLaunch lid f).timeLocked = s.timeLocked := by unfold State.modLaunch; split <;> rfl
@[simp] theorem modLaunch_slew : (s.modLaunch lid f).slew = s.slew := by unfold State.modLaunch; split <;> rfl
@[simp] theorem modLaunch_mb : (s.modLaunch lid f).mb = s.mb := by unfold State.modLaunch; split <;> rfl
@[simp] theorem modLaunch_out : (s.modLaunch lid f).out = s.out := by unfold State.modLaunch; split <;> rfl
@[simp] theorem modLaunch_cmd : (s.modLaunch lid f).cmd = s.cmd := by unfold State.modLaunch; split <;> rfl
@[simp] theorem modLaunch_w0 : (s.modLaunch lid f).w0 = s.w0 := by unfold State.modLaunch; split <;> rfl
@[simp] theorem modLaunch_queues : (s.modLaunch lid f).queues = s.queues := by unfold State.modLaunch; split <;> rfl
@[simp] theorem modLaunch_tt : (s.modLaunch lid f).tt = s.tt := by unfold State.modLaunch; split <;> rfl
@[simp] theorem modLaunch_records : (s.modLaunch lid f).records = s.records := by unfold State.modLaunch; split <;> rfl
@[simp] theorem modLaunch_msix : (s.modLaunch lid f).msix = s.msix := by unfold State.modLaunch; split <;> rfl
@[simp] theorem modLaunch_hostData : (s.modLaunch lid f).hostData = s.hostData := by unfold State.modLaunch; split <;> rfl
@[simp] theorem modLaunch_peerOut : (s.modLaunch lid f).peerOut = s.peerOut := by unfold State.modLaunch; split <;> rfl
@[simp] theorem modLaunch_w2Base : (s.modLaunch lid f).w2Base = s.w2Base := by unfold State.modLaunch; split <;> rfl
@[simp] theorem modLaunch_w2Err : (s.modLaunch lid f).w2Err = s.w2Err := by unfold State.modLaunch; split <;> rfl
@[simp] theorem modLaunch_stepA : (s.modLaunch lid f).stepA = s.stepA := by unfold State.modLaunch; split <;> rfl
@[simp] theorem modLaunch_alarm : (s.modLaunch lid f).alarm = s.alarm := by unfold State.modLaunch; split <;> rfl
@[simp] theorem modLaunch_groups : (s.modLaunch lid f).groups = s.groups := by unfold State.modLaunch; split <;> rfl
@[simp] theorem modLaunch_throttleEnded : (s.modLaunch lid f).throttleEnded = s.throttleEnded := by unfold State.modLaunch; split <;> rfl
@[simp] theorem modLaunch_cores : (s.modLaunch lid f).cores = s.cores := by unfold State.modLaunch; split <;> rfl
@[simp] theorem modLaunch_columns : (s.modLaunch lid f).columns = s.columns := by unfold State.modLaunch; split <;> rfl
@[simp] theorem modLaunch_edges : (s.modLaunch lid f).edges = s.edges := by unfold State.modLaunch; split <;> rfl
@[simp] theorem modLaunch_halls : (s.modLaunch lid f).halls = s.halls := by unfold State.modLaunch; split <;> rfl
@[simp] theorem modLaunch_recasts : (s.modLaunch lid f).recasts = s.recasts := by unfold State.modLaunch; split <;> rfl
@[simp] theorem modLaunch_stubs : (s.modLaunch lid f).stubs = s.stubs := by unfold State.modLaunch; split <;> rfl
@[simp] theorem modLaunch_net : (s.modLaunch lid f).net = s.net := by unfold State.modLaunch; split <;> rfl
@[simp] theorem modLaunch_sent : (s.modLaunch lid f).sent = s.sent := by unfold State.modLaunch; split <;> rfl
@[simp] theorem modLaunch_links : (s.modLaunch lid f).links = s.links := by unfold State.modLaunch; split <;> rfl
@[simp] theorem modLaunch_ports : (s.modLaunch lid f).ports = s.ports := by unfold State.modLaunch; split <;> rfl
@[simp] theorem modLaunch_codeMarks : (s.modLaunch lid f).codeMarks = s.codeMarks := by unfold State.modLaunch; split <;> rfl
@[simp] theorem modLaunch_mem : (s.modLaunch lid f).mem = s.mem := by unfold State.modLaunch; split <;> rfl
@[simp] theorem modLaunch_tags : (s.modLaunch lid f).tags = s.tags := by unfold State.modLaunch; split <;> rfl
@[simp] theorem modLaunch_lineKeys : (s.modLaunch lid f).lineKeys = s.lineKeys := by unfold State.modLaunch; split <;> rfl
@[simp] theorem modLaunch_keyEpoch : (s.modLaunch lid f).keyEpoch = s.keyEpoch := by unfold State.modLaunch; split <;> rfl

end

/-! `State.recordFault` changes launches and nothing else. -/

section
variable (s : State) (lid : Nat) (i : FaultInfo)

@[simp] theorem recordFault_schedule : (s.recordFault lid i).schedule = s.schedule := by simp only [State.recordFault, modLaunch_schedule]
@[simp] theorem recordFault_cur : (s.recordFault lid i).cur = s.cur := by simp only [State.recordFault, modLaunch_cur]
@[simp] theorem recordFault_free : (s.recordFault lid i).free = s.free := by simp only [State.recordFault, modLaunch_free]
@[simp] theorem recordFault_phase : (s.recordFault lid i).phase = s.phase := by simp only [State.recordFault, modLaunch_phase]
@[simp] theorem recordFault_powered : (s.recordFault lid i).powered = s.powered := by simp only [State.recordFault, modLaunch_powered]
@[simp] theorem recordFault_clk : (s.recordFault lid i).clk = s.clk := by simp only [State.recordFault, modLaunch_clk]
@[simp] theorem recordFault_time13 : (s.recordFault lid i).time13 = s.time13 := by simp only [State.recordFault, modLaunch_time13]
@[simp] theorem recordFault_timeLocked : (s.recordFault lid i).timeLocked = s.timeLocked := by simp only [State.recordFault, modLaunch_timeLocked]
@[simp] theorem recordFault_slew : (s.recordFault lid i).slew = s.slew := by simp only [State.recordFault, modLaunch_slew]
@[simp] theorem recordFault_mb : (s.recordFault lid i).mb = s.mb := by simp only [State.recordFault, modLaunch_mb]
@[simp] theorem recordFault_out : (s.recordFault lid i).out = s.out := by simp only [State.recordFault, modLaunch_out]
@[simp] theorem recordFault_cmd : (s.recordFault lid i).cmd = s.cmd := by simp only [State.recordFault, modLaunch_cmd]
@[simp] theorem recordFault_w0 : (s.recordFault lid i).w0 = s.w0 := by simp only [State.recordFault, modLaunch_w0]
@[simp] theorem recordFault_queues : (s.recordFault lid i).queues = s.queues := by simp only [State.recordFault, modLaunch_queues]
@[simp] theorem recordFault_tt : (s.recordFault lid i).tt = s.tt := by simp only [State.recordFault, modLaunch_tt]
@[simp] theorem recordFault_records : (s.recordFault lid i).records = s.records := by simp only [State.recordFault, modLaunch_records]
@[simp] theorem recordFault_msix : (s.recordFault lid i).msix = s.msix := by simp only [State.recordFault, modLaunch_msix]
@[simp] theorem recordFault_hostData : (s.recordFault lid i).hostData = s.hostData := by simp only [State.recordFault, modLaunch_hostData]
@[simp] theorem recordFault_peerOut : (s.recordFault lid i).peerOut = s.peerOut := by simp only [State.recordFault, modLaunch_peerOut]
@[simp] theorem recordFault_w2Base : (s.recordFault lid i).w2Base = s.w2Base := by simp only [State.recordFault, modLaunch_w2Base]
@[simp] theorem recordFault_w2Err : (s.recordFault lid i).w2Err = s.w2Err := by simp only [State.recordFault, modLaunch_w2Err]
@[simp] theorem recordFault_stepA : (s.recordFault lid i).stepA = s.stepA := by simp only [State.recordFault, modLaunch_stepA]
@[simp] theorem recordFault_alarm : (s.recordFault lid i).alarm = s.alarm := by simp only [State.recordFault, modLaunch_alarm]
@[simp] theorem recordFault_groups : (s.recordFault lid i).groups = s.groups := by simp only [State.recordFault, modLaunch_groups]
@[simp] theorem recordFault_throttleEnded : (s.recordFault lid i).throttleEnded = s.throttleEnded := by simp only [State.recordFault, modLaunch_throttleEnded]
@[simp] theorem recordFault_cores : (s.recordFault lid i).cores = s.cores := by simp only [State.recordFault, modLaunch_cores]
@[simp] theorem recordFault_columns : (s.recordFault lid i).columns = s.columns := by simp only [State.recordFault, modLaunch_columns]
@[simp] theorem recordFault_edges : (s.recordFault lid i).edges = s.edges := by simp only [State.recordFault, modLaunch_edges]
@[simp] theorem recordFault_halls : (s.recordFault lid i).halls = s.halls := by simp only [State.recordFault, modLaunch_halls]
@[simp] theorem recordFault_recasts : (s.recordFault lid i).recasts = s.recasts := by simp only [State.recordFault, modLaunch_recasts]
@[simp] theorem recordFault_stubs : (s.recordFault lid i).stubs = s.stubs := by simp only [State.recordFault, modLaunch_stubs]
@[simp] theorem recordFault_net : (s.recordFault lid i).net = s.net := by simp only [State.recordFault, modLaunch_net]
@[simp] theorem recordFault_sent : (s.recordFault lid i).sent = s.sent := by simp only [State.recordFault, modLaunch_sent]
@[simp] theorem recordFault_links : (s.recordFault lid i).links = s.links := by simp only [State.recordFault, modLaunch_links]
@[simp] theorem recordFault_ports : (s.recordFault lid i).ports = s.ports := by simp only [State.recordFault, modLaunch_ports]
@[simp] theorem recordFault_codeMarks : (s.recordFault lid i).codeMarks = s.codeMarks := by simp only [State.recordFault, modLaunch_codeMarks]
@[simp] theorem recordFault_mem : (s.recordFault lid i).mem = s.mem := by simp only [State.recordFault, modLaunch_mem]
@[simp] theorem recordFault_tags : (s.recordFault lid i).tags = s.tags := by simp only [State.recordFault, modLaunch_tags]
@[simp] theorem recordFault_lineKeys : (s.recordFault lid i).lineKeys = s.lineKeys := by simp only [State.recordFault, modLaunch_lineKeys]
@[simp] theorem recordFault_keyEpoch : (s.recordFault lid i).keyEpoch = s.keyEpoch := by simp only [State.recordFault, modLaunch_keyEpoch]

end

/-! `State.parkCur` changes cores and halls and launches and nothing else. -/

section
variable (s : State) (p : Park)

@[simp] theorem parkCur_schedule : (s.parkCur p).schedule = s.schedule := by unfold State.parkCur State.parkAt; dsimp only; split <;> simp only [modHall_schedule, modLaunch_schedule, modCore_schedule]
@[simp] theorem parkCur_cur : (s.parkCur p).cur = s.cur := by unfold State.parkCur State.parkAt; dsimp only; split <;> simp only [modHall_cur, modLaunch_cur, modCore_cur]
@[simp] theorem parkCur_free : (s.parkCur p).free = s.free := by unfold State.parkCur State.parkAt; dsimp only; split <;> simp only [modHall_free, modLaunch_free, modCore_free]
@[simp] theorem parkCur_phase : (s.parkCur p).phase = s.phase := by unfold State.parkCur State.parkAt; dsimp only; split <;> simp only [modHall_phase, modLaunch_phase, modCore_phase]
@[simp] theorem parkCur_powered : (s.parkCur p).powered = s.powered := by unfold State.parkCur State.parkAt; dsimp only; split <;> simp only [modHall_powered, modLaunch_powered, modCore_powered]
@[simp] theorem parkCur_clk : (s.parkCur p).clk = s.clk := by unfold State.parkCur State.parkAt; dsimp only; split <;> simp only [modHall_clk, modLaunch_clk, modCore_clk]
@[simp] theorem parkCur_time13 : (s.parkCur p).time13 = s.time13 := by unfold State.parkCur State.parkAt; dsimp only; split <;> simp only [modHall_time13, modLaunch_time13, modCore_time13]
@[simp] theorem parkCur_timeLocked : (s.parkCur p).timeLocked = s.timeLocked := by unfold State.parkCur State.parkAt; dsimp only; split <;> simp only [modHall_timeLocked, modLaunch_timeLocked, modCore_timeLocked]
@[simp] theorem parkCur_slew : (s.parkCur p).slew = s.slew := by unfold State.parkCur State.parkAt; dsimp only; split <;> simp only [modHall_slew, modLaunch_slew, modCore_slew]
@[simp] theorem parkCur_mb : (s.parkCur p).mb = s.mb := by unfold State.parkCur State.parkAt; dsimp only; split <;> simp only [modHall_mb, modLaunch_mb, modCore_mb]
@[simp] theorem parkCur_out : (s.parkCur p).out = s.out := by unfold State.parkCur State.parkAt; dsimp only; split <;> simp only [modHall_out, modLaunch_out, modCore_out]
@[simp] theorem parkCur_cmd : (s.parkCur p).cmd = s.cmd := by unfold State.parkCur State.parkAt; dsimp only; split <;> simp only [modHall_cmd, modLaunch_cmd, modCore_cmd]
@[simp] theorem parkCur_w0 : (s.parkCur p).w0 = s.w0 := by unfold State.parkCur State.parkAt; dsimp only; split <;> simp only [modHall_w0, modLaunch_w0, modCore_w0]
@[simp] theorem parkCur_queues : (s.parkCur p).queues = s.queues := by unfold State.parkCur State.parkAt; dsimp only; split <;> simp only [modHall_queues, modLaunch_queues, modCore_queues]
@[simp] theorem parkCur_tt : (s.parkCur p).tt = s.tt := by unfold State.parkCur State.parkAt; dsimp only; split <;> simp only [modHall_tt, modLaunch_tt, modCore_tt]
@[simp] theorem parkCur_records : (s.parkCur p).records = s.records := by unfold State.parkCur State.parkAt; dsimp only; split <;> simp only [modHall_records, modLaunch_records, modCore_records]
@[simp] theorem parkCur_msix : (s.parkCur p).msix = s.msix := by unfold State.parkCur State.parkAt; dsimp only; split <;> simp only [modHall_msix, modLaunch_msix, modCore_msix]
@[simp] theorem parkCur_hostData : (s.parkCur p).hostData = s.hostData := by unfold State.parkCur State.parkAt; dsimp only; split <;> simp only [modHall_hostData, modLaunch_hostData, modCore_hostData]
@[simp] theorem parkCur_peerOut : (s.parkCur p).peerOut = s.peerOut := by unfold State.parkCur State.parkAt; dsimp only; split <;> simp only [modHall_peerOut, modLaunch_peerOut, modCore_peerOut]
@[simp] theorem parkCur_w2Base : (s.parkCur p).w2Base = s.w2Base := by unfold State.parkCur State.parkAt; dsimp only; split <;> simp only [modHall_w2Base, modLaunch_w2Base, modCore_w2Base]
@[simp] theorem parkCur_w2Err : (s.parkCur p).w2Err = s.w2Err := by unfold State.parkCur State.parkAt; dsimp only; split <;> simp only [modHall_w2Err, modLaunch_w2Err, modCore_w2Err]
@[simp] theorem parkCur_stepA : (s.parkCur p).stepA = s.stepA := by unfold State.parkCur State.parkAt; dsimp only; split <;> simp only [modHall_stepA, modLaunch_stepA, modCore_stepA]
@[simp] theorem parkCur_alarm : (s.parkCur p).alarm = s.alarm := by unfold State.parkCur State.parkAt; dsimp only; split <;> simp only [modHall_alarm, modLaunch_alarm, modCore_alarm]
@[simp] theorem parkCur_groups : (s.parkCur p).groups = s.groups := by unfold State.parkCur State.parkAt; dsimp only; split <;> simp only [modHall_groups, modLaunch_groups, modCore_groups]
@[simp] theorem parkCur_throttleEnded : (s.parkCur p).throttleEnded = s.throttleEnded := by unfold State.parkCur State.parkAt; dsimp only; split <;> simp only [modHall_throttleEnded, modLaunch_throttleEnded, modCore_throttleEnded]
@[simp] theorem parkCur_columns : (s.parkCur p).columns = s.columns := by unfold State.parkCur State.parkAt; dsimp only; split <;> simp only [modHall_columns, modLaunch_columns, modCore_columns]
@[simp] theorem parkCur_edges : (s.parkCur p).edges = s.edges := by unfold State.parkCur State.parkAt; dsimp only; split <;> simp only [modHall_edges, modLaunch_edges, modCore_edges]
@[simp] theorem parkCur_recasts : (s.parkCur p).recasts = s.recasts := by unfold State.parkCur State.parkAt; dsimp only; split <;> simp only [modHall_recasts, modLaunch_recasts, modCore_recasts]
@[simp] theorem parkCur_stubs : (s.parkCur p).stubs = s.stubs := by unfold State.parkCur State.parkAt; dsimp only; split <;> simp only [modHall_stubs, modLaunch_stubs, modCore_stubs]
@[simp] theorem parkCur_net : (s.parkCur p).net = s.net := by unfold State.parkCur State.parkAt; dsimp only; split <;> simp only [modHall_net, modLaunch_net, modCore_net]
@[simp] theorem parkCur_sent : (s.parkCur p).sent = s.sent := by unfold State.parkCur State.parkAt; dsimp only; split <;> simp only [modHall_sent, modLaunch_sent, modCore_sent]
@[simp] theorem parkCur_links : (s.parkCur p).links = s.links := by unfold State.parkCur State.parkAt; dsimp only; split <;> simp only [modHall_links, modLaunch_links, modCore_links]
@[simp] theorem parkCur_ports : (s.parkCur p).ports = s.ports := by unfold State.parkCur State.parkAt; dsimp only; split <;> simp only [modHall_ports, modLaunch_ports, modCore_ports]
@[simp] theorem parkCur_codeMarks : (s.parkCur p).codeMarks = s.codeMarks := by unfold State.parkCur State.parkAt; dsimp only; split <;> simp only [modHall_codeMarks, modLaunch_codeMarks, modCore_codeMarks]
@[simp] theorem parkCur_mem : (s.parkCur p).mem = s.mem := by unfold State.parkCur State.parkAt; dsimp only; split <;> simp only [modHall_mem, modLaunch_mem, modCore_mem]
@[simp] theorem parkCur_tags : (s.parkCur p).tags = s.tags := by unfold State.parkCur State.parkAt; dsimp only; split <;> simp only [modHall_tags, modLaunch_tags, modCore_tags]
@[simp] theorem parkCur_lineKeys : (s.parkCur p).lineKeys = s.lineKeys := by unfold State.parkCur State.parkAt; dsimp only; split <;> simp only [modHall_lineKeys, modLaunch_lineKeys, modCore_lineKeys]
@[simp] theorem parkCur_keyEpoch : (s.parkCur p).keyEpoch = s.keyEpoch := by unfold State.parkCur State.parkAt; dsimp only; split <;> simp only [modHall_keyEpoch, modLaunch_keyEpoch, modCore_keyEpoch]

end

/-! `State.setRegAt` changes cores and columns and nothing else. -/

section
variable (s : State) (core ctx code : Nat) (r : Reg)

@[simp] theorem setRegAt_schedule : (s.setRegAt core ctx code r).schedule = s.schedule := by unfold State.setRegAt; split <;> first | rfl | (split <;> rfl)
@[simp] theorem setRegAt_cur : (s.setRegAt core ctx code r).cur = s.cur := by unfold State.setRegAt; split <;> first | rfl | (split <;> rfl)
@[simp] theorem setRegAt_free : (s.setRegAt core ctx code r).free = s.free := by unfold State.setRegAt; split <;> first | rfl | (split <;> rfl)
@[simp] theorem setRegAt_phase : (s.setRegAt core ctx code r).phase = s.phase := by unfold State.setRegAt; split <;> first | rfl | (split <;> rfl)
@[simp] theorem setRegAt_powered : (s.setRegAt core ctx code r).powered = s.powered := by unfold State.setRegAt; split <;> first | rfl | (split <;> rfl)
@[simp] theorem setRegAt_clk : (s.setRegAt core ctx code r).clk = s.clk := by unfold State.setRegAt; split <;> first | rfl | (split <;> rfl)
@[simp] theorem setRegAt_time13 : (s.setRegAt core ctx code r).time13 = s.time13 := by unfold State.setRegAt; split <;> first | rfl | (split <;> rfl)
@[simp] theorem setRegAt_timeLocked : (s.setRegAt core ctx code r).timeLocked = s.timeLocked := by unfold State.setRegAt; split <;> first | rfl | (split <;> rfl)
@[simp] theorem setRegAt_slew : (s.setRegAt core ctx code r).slew = s.slew := by unfold State.setRegAt; split <;> first | rfl | (split <;> rfl)
@[simp] theorem setRegAt_mb : (s.setRegAt core ctx code r).mb = s.mb := by unfold State.setRegAt; split <;> first | rfl | (split <;> rfl)
@[simp] theorem setRegAt_out : (s.setRegAt core ctx code r).out = s.out := by unfold State.setRegAt; split <;> first | rfl | (split <;> rfl)
@[simp] theorem setRegAt_cmd : (s.setRegAt core ctx code r).cmd = s.cmd := by unfold State.setRegAt; split <;> first | rfl | (split <;> rfl)
@[simp] theorem setRegAt_w0 : (s.setRegAt core ctx code r).w0 = s.w0 := by unfold State.setRegAt; split <;> first | rfl | (split <;> rfl)
@[simp] theorem setRegAt_queues : (s.setRegAt core ctx code r).queues = s.queues := by unfold State.setRegAt; split <;> first | rfl | (split <;> rfl)
@[simp] theorem setRegAt_tt : (s.setRegAt core ctx code r).tt = s.tt := by unfold State.setRegAt; split <;> first | rfl | (split <;> rfl)
@[simp] theorem setRegAt_records : (s.setRegAt core ctx code r).records = s.records := by unfold State.setRegAt; split <;> first | rfl | (split <;> rfl)
@[simp] theorem setRegAt_msix : (s.setRegAt core ctx code r).msix = s.msix := by unfold State.setRegAt; split <;> first | rfl | (split <;> rfl)
@[simp] theorem setRegAt_hostData : (s.setRegAt core ctx code r).hostData = s.hostData := by unfold State.setRegAt; split <;> first | rfl | (split <;> rfl)
@[simp] theorem setRegAt_peerOut : (s.setRegAt core ctx code r).peerOut = s.peerOut := by unfold State.setRegAt; split <;> first | rfl | (split <;> rfl)
@[simp] theorem setRegAt_w2Base : (s.setRegAt core ctx code r).w2Base = s.w2Base := by unfold State.setRegAt; split <;> first | rfl | (split <;> rfl)
@[simp] theorem setRegAt_w2Err : (s.setRegAt core ctx code r).w2Err = s.w2Err := by unfold State.setRegAt; split <;> first | rfl | (split <;> rfl)
@[simp] theorem setRegAt_stepA : (s.setRegAt core ctx code r).stepA = s.stepA := by unfold State.setRegAt; split <;> first | rfl | (split <;> rfl)
@[simp] theorem setRegAt_alarm : (s.setRegAt core ctx code r).alarm = s.alarm := by unfold State.setRegAt; split <;> first | rfl | (split <;> rfl)
@[simp] theorem setRegAt_groups : (s.setRegAt core ctx code r).groups = s.groups := by unfold State.setRegAt; split <;> first | rfl | (split <;> rfl)
@[simp] theorem setRegAt_throttleEnded : (s.setRegAt core ctx code r).throttleEnded = s.throttleEnded := by unfold State.setRegAt; split <;> first | rfl | (split <;> rfl)
@[simp] theorem setRegAt_launches : (s.setRegAt core ctx code r).launches = s.launches := by unfold State.setRegAt; split <;> first | rfl | (split <;> rfl)
@[simp] theorem setRegAt_edges : (s.setRegAt core ctx code r).edges = s.edges := by unfold State.setRegAt; split <;> first | rfl | (split <;> rfl)
@[simp] theorem setRegAt_halls : (s.setRegAt core ctx code r).halls = s.halls := by unfold State.setRegAt; split <;> first | rfl | (split <;> rfl)
@[simp] theorem setRegAt_recasts : (s.setRegAt core ctx code r).recasts = s.recasts := by unfold State.setRegAt; split <;> first | rfl | (split <;> rfl)
@[simp] theorem setRegAt_stubs : (s.setRegAt core ctx code r).stubs = s.stubs := by unfold State.setRegAt; split <;> first | rfl | (split <;> rfl)
@[simp] theorem setRegAt_net : (s.setRegAt core ctx code r).net = s.net := by unfold State.setRegAt; split <;> first | rfl | (split <;> rfl)
@[simp] theorem setRegAt_sent : (s.setRegAt core ctx code r).sent = s.sent := by unfold State.setRegAt; split <;> first | rfl | (split <;> rfl)
@[simp] theorem setRegAt_links : (s.setRegAt core ctx code r).links = s.links := by unfold State.setRegAt; split <;> first | rfl | (split <;> rfl)
@[simp] theorem setRegAt_ports : (s.setRegAt core ctx code r).ports = s.ports := by unfold State.setRegAt; split <;> first | rfl | (split <;> rfl)
@[simp] theorem setRegAt_codeMarks : (s.setRegAt core ctx code r).codeMarks = s.codeMarks := by unfold State.setRegAt; split <;> first | rfl | (split <;> rfl)
@[simp] theorem setRegAt_mem : (s.setRegAt core ctx code r).mem = s.mem := by unfold State.setRegAt; split <;> first | rfl | (split <;> rfl)
@[simp] theorem setRegAt_tags : (s.setRegAt core ctx code r).tags = s.tags := by unfold State.setRegAt; split <;> first | rfl | (split <;> rfl)
@[simp] theorem setRegAt_lineKeys : (s.setRegAt core ctx code r).lineKeys = s.lineKeys := by unfold State.setRegAt; split <;> first | rfl | (split <;> rfl)
@[simp] theorem setRegAt_keyEpoch : (s.setRegAt core ctx code r).keyEpoch = s.keyEpoch := by unfold State.setRegAt; split <;> first | rfl | (split <;> rfl)

end

/-! `State.trapAt` changes cores and launches and nothing else. -/

section
variable (s : State) (core ctx : Nat) (cls code : BitVec 8) (d : W64)

@[simp] theorem trapAt_schedule : (s.trapAt core ctx cls code d).schedule = s.schedule := by simp only [State.trapAt, modCore_schedule, recordFault_schedule]
@[simp] theorem trapAt_cur : (s.trapAt core ctx cls code d).cur = s.cur := by simp only [State.trapAt, modCore_cur, recordFault_cur]
@[simp] theorem trapAt_free : (s.trapAt core ctx cls code d).free = s.free := by simp only [State.trapAt, modCore_free, recordFault_free]
@[simp] theorem trapAt_phase : (s.trapAt core ctx cls code d).phase = s.phase := by simp only [State.trapAt, modCore_phase, recordFault_phase]
@[simp] theorem trapAt_powered : (s.trapAt core ctx cls code d).powered = s.powered := by simp only [State.trapAt, modCore_powered, recordFault_powered]
@[simp] theorem trapAt_clk : (s.trapAt core ctx cls code d).clk = s.clk := by simp only [State.trapAt, modCore_clk, recordFault_clk]
@[simp] theorem trapAt_time13 : (s.trapAt core ctx cls code d).time13 = s.time13 := by simp only [State.trapAt, modCore_time13, recordFault_time13]
@[simp] theorem trapAt_timeLocked : (s.trapAt core ctx cls code d).timeLocked = s.timeLocked := by simp only [State.trapAt, modCore_timeLocked, recordFault_timeLocked]
@[simp] theorem trapAt_slew : (s.trapAt core ctx cls code d).slew = s.slew := by simp only [State.trapAt, modCore_slew, recordFault_slew]
@[simp] theorem trapAt_mb : (s.trapAt core ctx cls code d).mb = s.mb := by simp only [State.trapAt, modCore_mb, recordFault_mb]
@[simp] theorem trapAt_out : (s.trapAt core ctx cls code d).out = s.out := by simp only [State.trapAt, modCore_out, recordFault_out]
@[simp] theorem trapAt_cmd : (s.trapAt core ctx cls code d).cmd = s.cmd := by simp only [State.trapAt, modCore_cmd, recordFault_cmd]
@[simp] theorem trapAt_w0 : (s.trapAt core ctx cls code d).w0 = s.w0 := by simp only [State.trapAt, modCore_w0, recordFault_w0]
@[simp] theorem trapAt_queues : (s.trapAt core ctx cls code d).queues = s.queues := by simp only [State.trapAt, modCore_queues, recordFault_queues]
@[simp] theorem trapAt_tt : (s.trapAt core ctx cls code d).tt = s.tt := by simp only [State.trapAt, modCore_tt, recordFault_tt]
@[simp] theorem trapAt_records : (s.trapAt core ctx cls code d).records = s.records := by simp only [State.trapAt, modCore_records, recordFault_records]
@[simp] theorem trapAt_msix : (s.trapAt core ctx cls code d).msix = s.msix := by simp only [State.trapAt, modCore_msix, recordFault_msix]
@[simp] theorem trapAt_hostData : (s.trapAt core ctx cls code d).hostData = s.hostData := by simp only [State.trapAt, modCore_hostData, recordFault_hostData]
@[simp] theorem trapAt_peerOut : (s.trapAt core ctx cls code d).peerOut = s.peerOut := by simp only [State.trapAt, modCore_peerOut, recordFault_peerOut]
@[simp] theorem trapAt_w2Base : (s.trapAt core ctx cls code d).w2Base = s.w2Base := by simp only [State.trapAt, modCore_w2Base, recordFault_w2Base]
@[simp] theorem trapAt_w2Err : (s.trapAt core ctx cls code d).w2Err = s.w2Err := by simp only [State.trapAt, modCore_w2Err, recordFault_w2Err]
@[simp] theorem trapAt_stepA : (s.trapAt core ctx cls code d).stepA = s.stepA := by simp only [State.trapAt, modCore_stepA, recordFault_stepA]
@[simp] theorem trapAt_alarm : (s.trapAt core ctx cls code d).alarm = s.alarm := by simp only [State.trapAt, modCore_alarm, recordFault_alarm]
@[simp] theorem trapAt_groups : (s.trapAt core ctx cls code d).groups = s.groups := by simp only [State.trapAt, modCore_groups, recordFault_groups]
@[simp] theorem trapAt_throttleEnded : (s.trapAt core ctx cls code d).throttleEnded = s.throttleEnded := by simp only [State.trapAt, modCore_throttleEnded, recordFault_throttleEnded]
@[simp] theorem trapAt_columns : (s.trapAt core ctx cls code d).columns = s.columns := by simp only [State.trapAt, modCore_columns, recordFault_columns]
@[simp] theorem trapAt_edges : (s.trapAt core ctx cls code d).edges = s.edges := by simp only [State.trapAt, modCore_edges, recordFault_edges]
@[simp] theorem trapAt_halls : (s.trapAt core ctx cls code d).halls = s.halls := by simp only [State.trapAt, modCore_halls, recordFault_halls]
@[simp] theorem trapAt_recasts : (s.trapAt core ctx cls code d).recasts = s.recasts := by simp only [State.trapAt, modCore_recasts, recordFault_recasts]
@[simp] theorem trapAt_stubs : (s.trapAt core ctx cls code d).stubs = s.stubs := by simp only [State.trapAt, modCore_stubs, recordFault_stubs]
@[simp] theorem trapAt_net : (s.trapAt core ctx cls code d).net = s.net := by simp only [State.trapAt, modCore_net, recordFault_net]
@[simp] theorem trapAt_sent : (s.trapAt core ctx cls code d).sent = s.sent := by simp only [State.trapAt, modCore_sent, recordFault_sent]
@[simp] theorem trapAt_links : (s.trapAt core ctx cls code d).links = s.links := by simp only [State.trapAt, modCore_links, recordFault_links]
@[simp] theorem trapAt_ports : (s.trapAt core ctx cls code d).ports = s.ports := by simp only [State.trapAt, modCore_ports, recordFault_ports]
@[simp] theorem trapAt_codeMarks : (s.trapAt core ctx cls code d).codeMarks = s.codeMarks := by simp only [State.trapAt, modCore_codeMarks, recordFault_codeMarks]
@[simp] theorem trapAt_mem : (s.trapAt core ctx cls code d).mem = s.mem := by simp only [State.trapAt, modCore_mem, recordFault_mem]
@[simp] theorem trapAt_tags : (s.trapAt core ctx cls code d).tags = s.tags := by simp only [State.trapAt, modCore_tags, recordFault_tags]
@[simp] theorem trapAt_lineKeys : (s.trapAt core ctx cls code d).lineKeys = s.lineKeys := by simp only [State.trapAt, modCore_lineKeys, recordFault_lineKeys]
@[simp] theorem trapAt_keyEpoch : (s.trapAt core ctx cls code d).keyEpoch = s.keyEpoch := by simp only [State.trapAt, modCore_keyEpoch, recordFault_keyEpoch]

end

/-! ## Sparse lists by key -/

@[simp] theorem getAt_nil {α : Type} (d : α) (k : Nat) : getAt d k [] = d := rfl

@[simp] theorem findAt_nil {α : Type} (k : Nat) : findAt k ([] : List (Nat × α)) = none := rfl

/-- A value put at a key is what that key reads, and no other key changes. -/
theorem getAt_putAt {α : Type} (d v : α) (j k : Nat) (l : List (Nat × α)) :
    getAt d j (putAt k v l) = if j = k then v else getAt d j l := by
  induction l with
  | nil => simp only [putAt, getAt, eq_comm (a := k)]
  | cons e r ih =>
    obtain ⟨i, w⟩ := e
    simp only [putAt]
    split
    · subst i; simp only [getAt, eq_comm (a := k)]
      by_cases h : j = k <;> simp [h]
    · split
      · simp only [getAt]; by_cases h : j = k
        · subst h; simp
        · simp [h, Ne.symm h]
      · simp only [getAt, ih]
        by_cases h : j = k
        · subst h; simp_all
        · simp [h]

@[simp] theorem getAt_putAt_self {α : Type} (d v : α) (k : Nat) (l : List (Nat × α)) : getAt d k (putAt k v l) = v := by
  simp [getAt_putAt]

theorem getAt_putAt_ne {α : Type} (d v : α) {j k : Nat} (h : j ≠ k) (l : List (Nat × α)) :
    getAt d j (putAt k v l) = getAt d j l := by simp [getAt_putAt, h]

/-- `findAt` after `putAt`. -/
theorem findAt_putAt {α : Type} (v : α) (j k : Nat) (l : List (Nat × α)) :
    findAt j (putAt k v l) = if j = k then some v else findAt j l := by
  induction l with
  | nil => simp only [putAt, findAt, eq_comm (a := k)]
  | cons e r ih =>
    obtain ⟨i, w⟩ := e
    simp only [putAt]
    split
    · subst i; simp only [findAt, eq_comm (a := k)]
      by_cases h : j = k <;> simp [h]
    · split
      · simp only [findAt]; by_cases h : j = k
        · subst h; simp
        · simp [h, Ne.symm h]
      · simp only [findAt, ih]
        by_cases h : j = k
        · subst h; simp_all
        · simp [h]

@[simp] theorem findAt_putAt_self {α : Type} (v : α) (k : Nat) (l : List (Nat × α)) : findAt k (putAt k v l) = some v := by
  simp [findAt_putAt]

theorem findAt_putAt_ne {α : Type} (v : α) {j k : Nat} (h : j ≠ k) (l : List (Nat × α)) :
    findAt j (putAt k v l) = findAt j l := by simp [findAt_putAt, h]

/-- A key that is found reads as what was found. -/
theorem getAt_of_findAt {α : Type} {d v : α} {k : Nat} {l : List (Nat × α)} (h : findAt k l = some v) : getAt d k l = v := by
  induction l with
  | nil => cases h
  | cons e r ih =>
    obtain ⟨i, w⟩ := e
    simp only [findAt] at h
    simp only [getAt]
    split at h
    · simp_all
    · simp_all

/-! ## Parts of the state by key after an update -/

section
variable (s : State) (p q : Nat)

theorem core_setCore (c : Core) : (s.setCore p c).core q = if q = p then c else s.core q := getAt_putAt ..
@[simp] theorem core_setCore_self (c : Core) : (s.setCore p c).core p = c := getAt_putAt_self ..
theorem core_modCore (f : Core → Core) : (s.modCore p f).core q = if q = p then f (s.core p) else s.core q := getAt_putAt ..
@[simp] theorem core_modCore_self (f : Core → Core) : (s.modCore p f).core p = f (s.core p) := getAt_putAt_self ..
theorem column_modColumn (f : Column → Column) :
    (s.modColumn p f).column q = if q = p then f (s.column p) else s.column q := getAt_putAt ..
@[simp] theorem column_modColumn_self (f : Column → Column) : (s.modColumn p f).column p = f (s.column p) := getAt_putAt_self ..
theorem edge_modEdge (f : EdgeCtl → EdgeCtl) : (s.modEdge p f).edge q = if q = p then f (s.edge p) else s.edge q := getAt_putAt ..
theorem hall_modHall (f : Hall → Hall) : (s.modHall p f).hall q = if q = p then f (s.hall p) else s.hall q := getAt_putAt ..
@[simp] theorem hall_modHall_self (f : Hall → Hall) : (s.modHall p f).hall p = f (s.hall p) := getAt_putAt_self ..
theorem queue_modQueue (f : Queue → Queue) : (s.modQueue p f).queue q = if q = p then f (s.queue p) else s.queue q := getAt_putAt ..
@[simp] theorem queue_modQueue_self (f : Queue → Queue) : (s.modQueue p f).queue p = f (s.queue p) := getAt_putAt_self ..
theorem ttEntry_modTt (f : TTEntry → TTEntry) : (s.modTt p f).ttEntry q = if q = p then f (s.ttEntry p) else s.ttEntry q := getAt_putAt ..
@[simp] theorem ttEntry_modTt_self (f : TTEntry → TTEntry) : (s.modTt p f).ttEntry p = f (s.ttEntry p) := getAt_putAt_self ..

/-- A launch after an update: the one named, if it exists, changes; no LID is taken or freed. -/
theorem launch?_modLaunch (f : Launch → Launch) :
    (s.modLaunch p f).launch? q = if q = p then (s.launch? p).map f else s.launch? q := by
  unfold State.modLaunch
  split
  · next h => split <;> simp_all
  · next l h =>
    show findAt q (putAt p (f l) s.launches) = _
    rw [findAt_putAt, h]; rfl

/-- A context of a core after an update. -/
theorem ctx_modCtx (c : Core) (f : Ctx → Ctx) : (c.modCtx p f).ctx q = if q = p then f (c.ctx p) else c.ctx q := getAt_putAt ..
@[simp] theorem ctx_modCtx_self (c : Core) (f : Ctx → Ctx) : (c.modCtx p f).ctx p = f (c.ctx p) := getAt_putAt_self ..

/-- A register of a context after a write. -/
theorem reg_setReg (x : Ctx) (r : Reg) : (x.setReg p r).reg q = if q = p then r else x.reg q := getAt_putAt ..
@[simp] theorem reg_setReg_self (x : Ctx) (r : Reg) : (x.setReg p r).reg p = r := getAt_putAt_self ..

/-- The executing core and context after an update of either. -/
@[simp] theorem cc_modCc (f : Core → Core) : (s.modCc f).cc = f s.cc := getAt_putAt_self ..
@[simp] theorem cx_modCx (f : Ctx → Ctx) : (s.modCx f).cx = f s.cx := by simp [State.cx, State.modCx]

end

/-- A general register after a write of an operand code below 32: that register, of that context of that core. -/
theorem regAt_setRegAt_general (s : State) (core ctx code : Nat) (r : Reg) (h : code < 32) (core' ctx' code' : Nat) (h' : code' < 32) :
    (s.setRegAt core ctx code r).regAt core' ctx' code' =
      if core' = core ∧ ctx' = ctx ∧ code' = code then r else s.regAt core' ctx' code' := by
  simp only [State.setRegAt, State.regAt, h, h', if_true, core_modCore]
  by_cases a : core' = core
  · subst a
    by_cases b : ctx' = ctx
    · subst b
      simp [reg_setReg]
    · simp [b, ctx_modCtx]
  · simp [a]

/-- z and the codes that are no registers discard what is written (R172). -/
theorem setRegAt_discards (s : State) (core ctx code : Nat) (r : Reg) (h : 48 ≤ code) : s.setRegAt core ctx code r = s := by
  have a : ¬code < 32 := by omega
  have b : ¬(decide (40 ≤ code) && decide (code < 48)) = true := by simp; omega
  simp [State.setRegAt, a, b]

/-- A trap of the executing context leaves memory, tags, columns and the network alone, and never sets the machine to stop. -/
theorem conclude_next (s : State) (r : Res State) : ∃ t, conclude s r = .next t := by
  unfold conclude; split <;> exact ⟨_, rfl⟩

/-- What `conclude` answers, said once: the completed state, the context parked, or the trap taken. -/
theorem conclude_cases {s t : State} {r : Res State} (h : conclude s r = .next t) :
    r = .ok t ∨ (∃ u p, r = .error (.park u p) ∧ t = u.parkCur p) ∨
      (∃ cls code d, r = .error (.trap cls code d) ∧ t = s.trapAt s.cur.core s.cur.ctx cls code d) := by
  unfold conclude at h
  split at h
  · injection h with h; subst h; exact .inl rfl
  · injection h with h; subst h; exact .inr (.inl ⟨_, _, rfl, rfl⟩)
  · injection h with h; subst h; exact .inr (.inr ⟨_, _, _, rfl, rfl⟩)

/-- The first recorded fault of a launch stays unless one of the same clk comes before it in the order of R266. -/
theorem recordFault_keeps (s : State) (lid : Nat) (f : FaultInfo) (l : Launch) (c : Nat) (g : FaultInfo)
    (h : s.launch? lid = some l) (hg : l.fault = some (c, g)) (hn : c ≠ s.clk ∨ f.before g = false) :
    ∃ l', (s.recordFault lid f).launch? lid = some l' ∧ l'.fault = l.fault := by
  rw [State.recordFault, launch?_modLaunch, if_pos rfl, h]
  refine ⟨_, rfl, ?_⟩
  rcases hn with hn | hn <;> simp only [hg, hn] <;> (repeat' split) <;> simp_all

end Sys2Proof.Machine
end

