-- ==== Sys2Proof/Laws/Memory.lean ====
section
/-! SUPPORT. Memory and tags: their canonical form is kept by every operation over them, and what each byte reads as after. -/

namespace Sys2Proof.Machine
open Sys2Proof

set_option Elab.async false

/-! ## The canonical form -/

theorem wfAbove_cons {lo : Option Nat} {j : Nat} {b : Byte} {r : List Host.Cell} :
    Memory.wfAbove lo ((j, b) :: r) = true ↔ (∀ l, lo = some l → l < j) ∧ b ≠ 0 ∧ Memory.wfAbove (some j) r = true := by
  cases lo <;> simp [Memory.wfAbove, and_assoc]

/-- A list above a bound is above every lower bound, and above none. -/
theorem wfAbove_weaken {m : List Host.Cell} {l : Nat} (h : Memory.wfAbove (some l) m = true) :
    Memory.wfAbove none m = true ∧ ∀ k, k ≤ l → Memory.wfAbove (some k) m = true := by
  cases m with
  | nil => exact ⟨rfl, fun _ _ => rfl⟩
  | cons e r =>
    obtain ⟨j, b⟩ := e
    rw [wfAbove_cons] at h
    have a := h.1 l rfl
    exact ⟨wfAbove_cons.mpr ⟨by simp, h.2⟩, fun k hk => wfAbove_cons.mpr ⟨by intro x hx; injection hx; omega, h.2⟩⟩

/-- Nothing at or below a bound is listed above it. -/
theorem read_of_wfAbove {m : List Host.Cell} {l a : Nat} (h : Memory.wfAbove (some l) m = true) (ha : a ≤ l) :
    Memory.read m a = 0 := by
  induction m generalizing l with
  | nil => rfl
  | cons e r ih =>
    obtain ⟨j, b⟩ := e
    rw [wfAbove_cons] at h
    have := h.1 l rfl
    simp only [Memory.read]
    rw [if_neg (by omega)]
    exact ih h.2.2 (by omega)

theorem wfAbove_write {m : List Host.Cell} {lo : Option Nat} (a : Nat) (b : Byte) (h : Memory.wfAbove lo m = true)
    (hl : ∀ l, lo = some l → l < a) : Memory.wfAbove lo (Memory.write m a b) = true := by
  induction m generalizing lo with
  | nil =>
    simp only [Memory.write]
    split
    · rfl
    · next hb => exact wfAbove_cons.mpr ⟨hl, hb, rfl⟩
  | cons e r ih =>
    obtain ⟨j, c⟩ := e
    rw [wfAbove_cons] at h
    simp only [Memory.write]
    split
    · next hj =>
      subst hj
      split
      · cases lo with
        | none => exact (wfAbove_weaken h.2.2).1
        | some l => exact (wfAbove_weaken h.2.2).2 l (Nat.le_of_lt (h.1 l rfl))
      · next hb => exact wfAbove_cons.mpr ⟨hl, hb, h.2.2⟩
    · split
      · next hlt =>
        split
        · exact wfAbove_cons.mpr h
        · next hb =>
          exact wfAbove_cons.mpr ⟨hl, hb, wfAbove_cons.mpr ⟨by intro x hx; injection hx; omega, h.2⟩⟩
      · next hne hlt =>
        exact wfAbove_cons.mpr ⟨h.1, h.2.1, ih h.2.2 (by intro x hx; injection hx; omega)⟩

/-- A write of one byte keeps the canonical form. -/
theorem wf_write {m : List Host.Cell} (a : Nat) (b : Byte) (h : Memory.wf m = true) : Memory.wf (Memory.write m a b) = true :=
  wfAbove_write a b h (by simp)

theorem wf_writeN {m : List Host.Cell} (a : Nat) (bs : List Byte) (h : Memory.wf m = true) :
    Memory.wf (Memory.writeN m a bs) = true := by
  induction bs generalizing m a with
  | nil => exact h
  | cons b r ih => exact ih _ (wf_write a b h)

theorem wf_writeMasked {m : List Host.Cell} (a : Nat) (bs : List Byte) (mask : List (BitVec 2)) (h : Memory.wf m = true) :
    Memory.wf (Memory.writeMasked m a bs mask) = true := by
  induction bs generalizing m a mask with
  | nil => exact h
  | cons b r ih => cases mask <;> exact ih _ _ (wf_write _ _ h)

theorem wfAbove_filter {m : List Host.Cell} {lo : Option Nat} (p : Host.Cell → Bool) (h : Memory.wfAbove lo m = true) :
    Memory.wfAbove lo (m.filter p) = true := by
  induction m generalizing lo with
  | nil => exact h
  | cons e r ih =>
    obtain ⟨j, b⟩ := e
    rw [wfAbove_cons] at h
    have below : Memory.wfAbove lo (r.filter p) = true := by
      refine ih ?_
      cases lo with
      | none => exact (wfAbove_weaken h.2.2).1
      | some l => exact (wfAbove_weaken h.2.2).2 l (Nat.le_of_lt (h.1 l rfl))
    rw [List.filter_cons]
    split
    · exact wfAbove_cons.mpr ⟨h.1, h.2.1, ih h.2.2⟩
    · exact below

/-- Leaving cells out keeps the canonical form. -/
theorem wf_filter {m : List Host.Cell} (p : Host.Cell → Bool) (h : Memory.wf m = true) : Memory.wf (m.filter p) = true :=
  wfAbove_filter p h

/-- The memory after reset lists nothing and has the canonical form. -/
theorem wf_reset : Memory.wf State.reset.mem = true := rfl

/-! ## What a byte reads as after a write -/

theorem read_nil (a : Nat) : Memory.read [] a = 0 := rfl

theorem read_write_above {m : List Host.Cell} {lo : Option Nat} (a x : Nat) (b : Byte) (h : Memory.wfAbove lo m = true) :
    Memory.read (Memory.write m a b) x = if x = a then b else Memory.read m x := by
  induction m generalizing lo with
  | nil =>
    simp only [Memory.write]
    split
    · next hb => subst hb; simp [Memory.read]
    · simp only [Memory.read, eq_comm (a := a)]
  | cons e r ih =>
    obtain ⟨j, c⟩ := e
    rw [wfAbove_cons] at h
    simp only [Memory.write]
    split
    · next hj =>
      subst hj
      split
      · next hb =>
        subst hb
        by_cases hx : x = j
        · subst hx; simp [read_of_wfAbove h.2.2 (Nat.le_refl x)]
        · simp [Memory.read, hx, Ne.symm hx]
      · by_cases hx : x = j
        · subst hx; simp [Memory.read]
        · simp [Memory.read, hx, Ne.symm hx]
    · next hj =>
      split
      · next hlt =>
        split
        · next hb =>
          subst hb
          by_cases hx : x = a
          · subst hx
            simp only [Memory.read, if_neg hj, if_pos]
            exact read_of_wfAbove h.2.2 (by omega)
          · simp [hx]
        · by_cases hx : x = a
          · subst hx; simp [Memory.read]
          · simp [Memory.read, hx, Ne.symm hx]
      · simp only [Memory.read, ih h.2.2]
        by_cases hx : x = a
        · subst hx; simp [hj]
        · simp [hx]

/-- The bytes before an address are unchanged by a write from it, and those behind it. -/
theorem read_writeN_outside {m : List Host.Cell} (a x : Nat) (bs : List Byte) (h : Memory.wf m = true)
    (hx : x < a ∨ a + bs.length ≤ x) : Memory.read (Memory.writeN m a bs) x = Memory.read m x := by
  induction bs generalizing m a with
  | nil => rfl
  | cons b r ih =>
    simp only [List.length_cons] at hx
    simp only [Memory.writeN]
    rw [ih (a + 1) (wf_write a b h) (by omega), read_write_above (lo := none) a x b h, if_neg (by omega)]

/-- Bytes written read back. -/
theorem read_writeN {m : List Host.Cell} (a i : Nat) (bs : List Byte) (h : Memory.wf m = true) (hi : i < bs.length) :
    Memory.read (Memory.writeN m a bs) (a + i) = bs[i] := by
  induction bs generalizing m a i with
  | nil => simp at hi
  | cons b r ih =>
    simp only [Memory.writeN]
    cases i with
    | zero =>
      rw [read_writeN_outside (a + 1) (a + 0) r (wf_write a b h) (by omega), read_write_above (lo := none) a _ b h]
      simp
    | succ i =>
      have := ih (a + 1) i (wf_write a b h) (by simpa using hi)
      simpa [Nat.add_assoc, Nat.add_comm 1] using this

/-- A masked write leaves every byte outside it as it was. -/
theorem read_writeMasked_outside {m : List Host.Cell} (a x : Nat) (bs : List Byte) (mask : List (BitVec 2)) (h : Memory.wf m = true)
    (hx : x < a ∨ a + bs.length ≤ x) : Memory.read (Memory.writeMasked m a bs mask) x = Memory.read m x := by
  induction bs generalizing m a mask with
  | nil => rfl
  | cons b r ih =>
    simp only [List.length_cons] at hx
    cases mask <;> simp only [Memory.writeMasked] <;>
      rw [ih (a + 1) _ (wf_write _ _ h) (by omega), read_write_above (lo := none) _ x _ h, if_neg (by omega)]

theorem length_readN (m : List Host.Cell) (a n : Nat) : (Memory.readN m a n).length = n := by
  induction n generalizing a with
  | zero => rfl
  | succ n ih => simp [Memory.readN, ih]

theorem getElem_readN (m : List Host.Cell) (a n i : Nat) (h : i < (Memory.readN m a n).length) :
    (Memory.readN m a n)[i] = Memory.read m (a + i) := by
  induction n generalizing a i with
  | zero => simp [Memory.readN] at h
  | succ n ih =>
    cases i with
    | zero => rfl
    | succ i => simp only [Memory.readN, List.getElem_cons_succ]; rw [ih]; congr 1; omega

/-- Bytes that agree one by one are the same run of bytes. -/
theorem readN_congr {m n : List Host.Cell} (a k : Nat) (h : ∀ i < k, Memory.read m (a + i) = Memory.read n (a + i)) :
    Memory.readN m a k = Memory.readN n a k := by
  apply List.ext_getElem
  · simp [length_readN]
  · intro i hi _; rw [length_readN] at hi; simp [getElem_readN, h i hi]

/-! ## Bytes and numbers (R4) -/

theorem length_natBytes (n v : Nat) : (natBytes n v).length = n := by
  induction n generalizing v with
  | zero => rfl
  | succ n ih => simp [natBytes, ih]

theorem bytesNat_natBytes (n v : Nat) : bytesNat (natBytes n v) = v % 256 ^ n := by
  induction n generalizing v with
  | zero => simp [natBytes, bytesNat, Nat.mod_one]
  | succ n ih =>
    simp only [natBytes, bytesNat, ih, BitVec.toNat_ofNat]
    rw [show 256 ^ (n + 1) = 256 * 256 ^ n from Nat.pow_succ', Nat.mod_mul]

theorem bytesNat_lt (bs : List Byte) : bytesNat bs < 256 ^ bs.length := by
  induction bs with
  | nil => simp [bytesNat]
  | cons b r ih =>
    have := b.isLt
    simp only [bytesNat, List.length_cons, Nat.pow_succ]
    omega

/-! ## Tags (R199) -/

theorem mem_tagPut (g x : Nat) (l : List Nat) : x ∈ tagPut g l ↔ x = g ∨ x ∈ l := by
  induction l with
  | nil => simp [tagPut]
  | cons h r ih =>
    simp only [tagPut]
    split
    · next e => subst e; simp
    · split
      · simp
      · simp only [List.mem_cons, ih]; exact or_left_comm

theorem rising_tagPut (g : Nat) (l : List Nat) (h : l.Pairwise (· < ·)) : (tagPut g l).Pairwise (· < ·) := by
  induction l with
  | nil => simp [tagPut]
  | cons y r ih =>
    rw [List.pairwise_cons] at h
    simp only [tagPut]
    split
    · exact List.pairwise_cons.mpr h
    · split
      · next hlt =>
        refine List.pairwise_cons.mpr ⟨?_, List.pairwise_cons.mpr h⟩
        intro x hx
        rcases List.mem_cons.mp hx with rfl | hx
        · exact hlt
        · exact Nat.lt_trans hlt (h.1 x hx)
      · next hne hlt =>
        refine List.pairwise_cons.mpr ⟨?_, ih h.2⟩
        intro x hx
        rcases (mem_tagPut g x r).mp hx with rfl | hx
        · omega
        · exact h.1 x hx

theorem rising_foldl_tagPut (gs l : List Nat) (h : l.Pairwise (· < ·)) :
    (gs.foldl (fun l g => tagPut g l) l).Pairwise (· < ·) := by
  induction gs generalizing l with
  | nil => exact h
  | cons g r ih => exact ih _ (rising_tagPut g l h)

/-! ## The state's canonical form -/

/-- A store keeps memory, W0 and tags canonical. -/
theorem memOk_storeTagged {s : State} (pa : Nat) (bs : List Byte) (mask : List (BitVec 2)) (set : List Nat) (h : s.memOk) :
    (s.storeTagged pa bs mask set).memOk :=
  ⟨wf_writeMasked pa bs mask h.1, h.2.1, rising_foldl_tagPut _ _ (h.2.2.filter _)⟩

theorem memOk_store {s : State} (pa : Nat) (bs : List Byte) (mask : List (BitVec 2)) (tag : Option Bool) (h : s.memOk) :
    (s.store pa bs mask tag).memOk := memOk_storeTagged _ _ _ _ h

/-- An update that leaves memory, W0 and tags as they are keeps their canonical form. -/
theorem memOk_of_same {s t : State} (h : s.memOk) (hm : t.mem = s.mem) (hw : t.w0 = s.w0) (ht : t.tags = s.tags) : t.memOk := by
  unfold State.memOk; rw [hm, hw, ht]; exact h

section
variable {s : State} (h : s.memOk)
include h

theorem memOk_setCore (p : Nat) (c : Core) : (s.setCore p c).memOk := h
theorem memOk_modCore (p : Nat) (f : Core → Core) : (s.modCore p f).memOk := h
theorem memOk_modCx (f : Ctx → Ctx) : (s.modCx f).memOk := h
theorem memOk_modColumn (k : Nat) (f : Column → Column) : (s.modColumn k f).memOk := h
theorem memOk_modHall (k : Nat) (f : Hall → Hall) : (s.modHall k f).memOk := h
theorem memOk_send (p : Packet) : (s.send p).memOk := h
theorem memOk_modLaunch (lid : Nat) (f : Launch → Launch) : (s.modLaunch lid f).memOk :=
  memOk_of_same h (by simp) (by simp) (by simp)
theorem memOk_recordFault (lid : Nat) (f : FaultInfo) : (s.recordFault lid f).memOk :=
  memOk_of_same h (by simp) (by simp) (by simp)
theorem memOk_trapAt (core ctx : Nat) (cls code : BitVec 8) (d : W64) : (s.trapAt core ctx cls code d).memOk :=
  memOk_of_same h (by simp) (by simp) (by simp)
theorem memOk_parkCur (p : Park) : (s.parkCur p).memOk := memOk_of_same h (by simp) (by simp) (by simp)
theorem memOk_setRegAt (core ctx code : Nat) (r : Reg) : (s.setRegAt core ctx code r).memOk :=
  memOk_of_same h (by simp) (by simp) (by simp)

end

/-- An instruction that concludes keeps the canonical form, if the states in its result have it. -/
theorem memOk_conclude {s t : State} {r : Res State} (h : conclude s r = .next t) (hs : s.memOk) (ho : ∀ u, r = .ok u → u.memOk)
    (hp : ∀ u p, r = .error (.park u p) → u.memOk) : t.memOk := by
  rcases conclude_cases h with e | ⟨u, p, e, rfl⟩ | ⟨cls, code, d, e, rfl⟩
  · exact ho _ e
  · exact memOk_parkCur (hp _ _ e) _
  · exact memOk_trapAt hs ..

end Sys2Proof.Machine
end

