-- ==== Sys2Proof/Laws/Operands.lean ====
section
/-! SUPPORT. What meeting, taking and writing operands can do, said once for each shared operation: the state changes in cores
and columns only, and an instruction that stops parks in the state it met or traps. -/

namespace Sys2Proof.Machine
open Sys2Proof

set_option Elab.async false

/-! ## Changes confined to cores and columns -/

/-- `t` is `s` but for the registers, contexts and other parts that cores and columns hold. -/
def SameOutsideCores (s t : State) : Prop := t = { s with cores := t.cores, columns := t.columns }

namespace SameOutsideCores

theorem refl (s : State) : SameOutsideCores s s := rfl

theorem trans {s t u : State} (h : SameOutsideCores s t) (k : SameOutsideCores t u) : SameOutsideCores s u := by
  unfold SameOutsideCores at *; rw [k]; simp only; rw [h]

variable {s t : State} (h : SameOutsideCores s t)
include h

theorem mem : t.mem = s.mem := by rw [h]
theorem w0 : t.w0 = s.w0 := by rw [h]
theorem tags : t.tags = s.tags := by rw [h]
theorem cur : t.cur = s.cur := by rw [h]
theorem clk : t.clk = s.clk := by rw [h]
theorem net : t.net = s.net := by rw [h]
theorem launches : t.launches = s.launches := by rw [h]
theorem free : t.free = s.free := by rw [h]
theorem memOk (k : s.memOk) : t.memOk := memOk_of_same k h.mem h.w0 h.tags

end SameOutsideCores

section
variable (s : State)

theorem same_modCore (p : Nat) (f : Core → Core) : SameOutsideCores s (s.modCore p f) := rfl
theorem same_modCc (f : Core → Core) : SameOutsideCores s (s.modCc f) := rfl
theorem same_modCx (f : Ctx → Ctx) : SameOutsideCores s (s.modCx f) := rfl
theorem same_modColumn (k : Nat) (f : Column → Column) : SameOutsideCores s (s.modColumn k f) := rfl
theorem same_setRegAt (core ctx code : Nat) (r : Reg) : SameOutsideCores s (s.setRegAt core ctx code r) := by
  unfold State.setRegAt; split
  · rfl
  · split <;> rfl
theorem same_popChan (core n : Nat) : SameOutsideCores s (s.popChan core n).2 := rfl
theorem same_popStream (core ctx n : Nat) : SameOutsideCores s (s.popStream core ctx n).2 := by
  unfold State.popStream; split <;> rfl
theorem same_takeCode (c : BitVec 6) : SameOutsideCores s (s.takeCode c).2 := by
  unfold State.takeCode
  simp only
  split
  · exact same_popStream ..
  · split
    · rfl
    · split <;> rfl
theorem same_takeSrc (t : Ty) (x : Src) : SameOutsideCores s (s.takeSrc t x).2 := by
  cases x
  · exact same_takeCode s _
  · rfl
  · rfl
theorem same_writeD (d : BitVec 6) (v : TagVal) : SameOutsideCores s (s.writeD d v) := by
  unfold State.writeD; split
  · rfl
  · exact same_setRegAt ..
theorem same_goto (a : VAddr) : SameOutsideCores s (s.goto a) := rfl
theorem same_advanceWith (b : Bool) : SameOutsideCores s (s.advanceWith b) := rfl
theorem same_advance : SameOutsideCores s s.advance := rfl
theorem same_issueShadow (n : Nat) (k : BitVec 4) (h : Shadow) : SameOutsideCores s (s.issueShadow n k h) := rfl
theorem same_shadowD (n : Nat) (a : Args) (v : TagVal) : SameOutsideCores s (s.shadowD n a v) := rfl
theorem same_abandon (core ctx code : Nat) (t : BitVec 16) : SameOutsideCores s (s.abandon core ctx code t) := rfl
theorem same_displace (core ctx code : Nat) : SameOutsideCores s (s.displace core ctx code) := by
  unfold State.displace; split <;> rfl
theorem same_takeTicket (cls : BitVec 4) (d : BitVec 6) : SameOutsideCores s (s.takeTicket cls d).2 :=
  ((same_displace s ..).trans (same_modCc _ _)).trans (same_setRegAt ..)
theorem same_rehome (core c : Nat) (t : BitVec 16) (l : Loc) : SameOutsideCores s (s.rehome core c t l) := rfl
theorem same_deliver (core : Nat) (t : BitVec 16) (r : Reg) : SameOutsideCores s (s.deliver core t r) := by
  unfold State.deliver
  simp only
  split
  · rfl
  · split <;> rfl
  · rfl

end

/-! ## Meeting operands (R174, R175, R187, R188, R226): what can hold an instruction -/

theorem checkAll_error {f : Meet → Res Unit} {ms : List Meet} {e : Stop} (h : checkAll f ms = .error e) :
    ∃ m ∈ ms, f m = .error e := by
  induction ms with
  | nil => cases h
  | cons m r ih =>
    simp only [checkAll, bind, Except.bind] at h
    split at h
    · next x hx => injection h with h; subst h; exact ⟨m, List.mem_cons_self .., hx⟩
    · obtain ⟨k, hk, e'⟩ := ih h; exact ⟨k, List.mem_cons_of_mem _ hk, e'⟩

theorem checkAll_ok {f : Meet → Res Unit} {ms : List Meet} (h : checkAll f ms = .ok ()) : ∀ m ∈ ms, f m = .ok () := by
  induction ms with
  | nil => intro m hm; cases hm
  | cons m r ih =>
    simp only [checkAll, bind, Except.bind] at h
    split at h
    · cases h
    · next u hu =>
      intro k hk
      rcases List.mem_cons.mp hk with rfl | hk
      · exact hu
      · exact ih h k hk

theorem checkAll_ok_iff {f : Meet → Res Unit} {ms : List Meet} : checkAll f ms = .ok () ↔ ∀ m ∈ ms, f m = .ok () := by
  refine ⟨checkAll_ok, fun h => ?_⟩
  induction ms with
  | nil => rfl
  | cons m r ih =>
    simp only [checkAll, h m (List.mem_cons_self ..), bind, Except.bind]
    exact ih fun k hk => h k (List.mem_cons_of_mem _ hk)

/-- An operand's state parks the instruction where it stands, or is a POISON use. -/
theorem meetState_error {s : State} {ms : List Meet} {m : Meet} {e : Stop} (h : s.meetState ms m = .error e) :
    (∃ p, e = .park s p) ∨ ∃ code, e = .trap clsPoisonUse code (BitVec.ofNat 64 m.code.toNat) ∧ m.isSrc = true := by
  unfold State.meetState at h
  simp only at h
  split at h
  · cases h
  · split at h
    · injection h with h; exact .inl ⟨_, h.symm⟩
    · split at h
      · split at h
        · injection h with h; exact .inl ⟨_, h.symm⟩
        · split at h
          · next hs =>
            simp only [Bool.and_eq_true] at hs
            split at h
            · injection h with h; exact .inr ⟨_, h.symm, hs.1.1⟩
            · split at h
              · injection h with h; exact .inr ⟨_, h.symm, hs.1.1⟩
              · cases h
          · cases h
      · split at h
        · cases h
        · injection h with h; exact .inl ⟨_, h.symm⟩
        · split at h
          · next hs => injection h with h; exact .inr ⟨_, h.symm, hs⟩
          · cases h

theorem trapIf_error {b : Bool} {cls : BitVec 8} {d : Nat} {e : Stop} (h : trapIf b cls d = .error e) :
    b = true ∧ e = .trap cls 0 (BitVec.ofNat 64 d) := by
  unfold trapIf trap at h
  split at h
  · next hb => injection h with h; exact ⟨hb, h.symm⟩
  · cases h

/-- An operand used against its channel or its binding is a CHANNEL or a STREAM trap. -/
theorem meetUse_error {s : State} {m : Meet} {e : Stop} (h : s.meetUse m = .error e) :
    ∃ n, e = .trap clsChannel 0 n ∨ e = .trap clsStream 0 n := by
  unfold State.meetUse at h
  split at h
  · split at h
    · exact ⟨_, .inl (trapIf_error h).2⟩
    · split at h
      · exact ⟨_, .inr (trapIf_error h).2⟩
      · cases h
  · split at h
    · exact ⟨_, .inr (trapIf_error h).2⟩
    · cases h

/-- Waiting for entries, elements, places or acknowledgements parks the instruction where it stands. -/
theorem meetWait_error {s : State} {ms : List Meet} {e : Stop} (h : s.meetWait ms = .error e) : ∃ p, e = .park s p := by
  unfold State.meetWait at h
  simp only at h
  split at h
  · injection h with h; exact ⟨_, h.symm⟩
  · split at h
    · injection h with h; exact ⟨_, h.symm⟩
    · split at h
      · split at h
        · injection h with h; exact ⟨_, h.symm⟩
        · cases h
      · cases h

/-- MEETING OPERANDS, said once: it goes through, or parks the instruction with the state untouched, or traps with POISON_USE,
CHANNEL or STREAM. -/
theorem meet_error {s : State} {ms : List Meet} {e : Stop} (h : s.meet ms = .error e) :
    (∃ p, e = .park s p) ∨ ∃ cls code d, e = .trap cls code d ∧ (cls = clsPoisonUse ∨ cls = clsChannel ∨ cls = clsStream) := by
  unfold State.meet at h
  simp only [bind, Except.bind] at h
  split at h
  · next e' h1 =>
    injection h with h; subst h
    obtain ⟨m, _, hm⟩ := checkAll_error h1
    rcases meetState_error hm with ⟨p, rfl⟩ | ⟨code, rfl, _⟩
    · exact .inl ⟨p, rfl⟩
    · exact .inr ⟨_, _, _, rfl, .inl rfl⟩
  · split at h
    · next e' h1 =>
      injection h with h; subst h
      obtain ⟨m, _, hm⟩ := checkAll_error h1
      obtain ⟨n, rfl | rfl⟩ := meetUse_error hm
      · exact .inr ⟨_, _, _, rfl, .inr (.inl rfl)⟩
      · exact .inr ⟨_, _, _, rfl, .inr (.inr rfl)⟩
    · exact .inl (meetWait_error h)

/-- Operands are met when each one's state and use allow it and none has to wait. -/
theorem meet_ok_iff {s : State} {ms : List Meet} :
    s.meet ms = .ok () ↔ (∀ m ∈ ms, s.meetState ms m = .ok ()) ∧ (∀ m ∈ ms, s.meetUse m = .ok ()) ∧ s.meetWait ms = .ok () := by
  constructor
  · intro h
    unfold State.meet at h
    simp only [bind, Except.bind] at h
    split at h
    · cases h
    · next u h1 =>
      split at h
      · cases h
      · next u' h2 => exact ⟨checkAll_ok h1, checkAll_ok h2, h⟩
  · rintro ⟨h1, h2, h3⟩
    unfold State.meet
    rw [checkAll_ok_iff.mpr h1, checkAll_ok_iff.mpr h2]
    exact h3

/-! ## Instructions of one, two and three sources -/

/-- What can hold an instruction at its operands: it parks with the state untouched, or traps. -/
def HeldAtOperands (s t : State) : Prop :=
  (∃ p, t = s.parkCur p) ∨
    ∃ cls code d, t = s.trapAt s.cur.core s.cur.ctx cls code d ∧ (cls = clsPoisonUse ∨ cls = clsChannel ∨ cls = clsStream)

theorem heldAtOperands_of_meet {s t : State} {ms : List Meet} {e : Stop} (h : s.meet ms = .error e)
    (c : conclude s (.error e : Res State) = .next t) : HeldAtOperands s t := by
  rcases meet_error h with ⟨p, rfl⟩ | ⟨cls, code, d, rfl, hc⟩ <;> (unfold conclude at c; injection c with c; subst c)
  · exact .inl ⟨p, rfl⟩
  · exact .inr ⟨cls, code, d, rfl, hc⟩

theorem operand1_ok {s : State} {t : Ty} {x : Src} {ms : List Meet} (h : s.meet (srcMeet x ++ ms) = .ok ()) :
    s.operand1 t x ms = .ok (s.takeSrc t x) := by
  simp [State.operand1, h, bind, Except.bind]

theorem operands2_ok {s : State} {t : Ty} {x y : Src} {ms : List Meet} (h : s.meet (srcMeet x ++ srcMeet y ++ ms) = .ok ()) :
    s.operands2 t x y ms =
      .ok ((s.takeSrc t x).1, ((s.takeSrc t x).2.takeSrc t y).1, ((s.takeSrc t x).2.takeSrc t y).2) := by
  unfold State.operands2; rw [h]; rfl

theorem operands3_ok {s : State} {t : Ty} {x y : Src} {d : BitVec 6}
    (h : s.meet (srcMeet x ++ srcMeet y ++ [.src d, .dst d]) = .ok ()) :
    s.operands3 t x y d =
      .ok ((s.takeSrc t x).1, ((s.takeSrc t x).2.takeSrc t y).1, (((s.takeSrc t x).2.takeSrc t y).2.takeCode d).1,
        (((s.takeSrc t x).2.takeSrc t y).2.takeCode d).2) := by
  unfold State.operands3; rw [h]; rfl

/-- AN INSTRUCTION OF ONE SOURCE, said once. -/
theorem unary_cases {a : Args} {s t : State} {f : W128 → W128} (h : unary a s f = .next t) :
    (s.meet (srcMeet a.s1 ++ [.dst a.d]) = .ok () ∧
      t = ((s.takeSrc a.ty a.s1).2.writeD a.d ⟨f (s.takeSrc a.ty a.s1).1.v, false⟩).advance) ∨ HeldAtOperands s t := by
  unfold unary at h
  cases hm : s.meet (srcMeet a.s1 ++ [.dst a.d]) with
  | error e =>
    refine .inr (heldAtOperands_of_meet hm ?_)
    simpa [State.operand1, hm, bind, Except.bind] using h
  | ok u =>
    refine .inl ⟨rfl, ?_⟩
    rw [operand1_ok hm] at h
    simp only [bind, Except.bind, conclude] at h
    injection h with h; exact h.symm

/-- AN INSTRUCTION OF TWO SOURCES, said once. -/
theorem binary_cases {a : Args} {s t : State} {f : W128 → W128 → W128} (h : binary a s f = .next t) :
    (s.meet (srcMeet a.s1 ++ srcMeet a.s2 ++ [.dst a.d]) = .ok () ∧
      t = (((s.takeSrc a.ty a.s1).2.takeSrc a.ty a.s2).2.writeD a.d
        ⟨f (s.takeSrc a.ty a.s1).1.v ((s.takeSrc a.ty a.s1).2.takeSrc a.ty a.s2).1.v, false⟩).advance) ∨ HeldAtOperands s t := by
  unfold binary at h
  cases hm : s.meet (srcMeet a.s1 ++ srcMeet a.s2 ++ [.dst a.d]) with
  | error e =>
    refine .inr (heldAtOperands_of_meet hm ?_)
    unfold State.operands2 at h; rw [hm] at h; exact h
  | ok u =>
    refine .inl ⟨rfl, ?_⟩
    rw [operands2_ok hm] at h
    simp only [bind, Except.bind, conclude] at h
    injection h with h; exact h.symm

/-- AN INSTRUCTION THAT ALSO READS ITS OLD DESTINATION, said once. -/
theorem ternary_cases {a : Args} {s t : State} {f : W128 → W128 → W128 → W128} (h : ternary a s f = .next t) :
    (s.meet (srcMeet a.s1 ++ srcMeet a.s2 ++ [.src a.d, .dst a.d]) = .ok () ∧
      t = ((((s.takeSrc a.ty a.s1).2.takeSrc a.ty a.s2).2.takeCode a.d).2.writeD a.d
        ⟨f (s.takeSrc a.ty a.s1).1.v ((s.takeSrc a.ty a.s1).2.takeSrc a.ty a.s2).1.v
          (((s.takeSrc a.ty a.s1).2.takeSrc a.ty a.s2).2.takeCode a.d).1.v, false⟩).advance) ∨ HeldAtOperands s t := by
  unfold ternary at h
  cases hm : s.meet (srcMeet a.s1 ++ srcMeet a.s2 ++ [.src a.d, .dst a.d]) with
  | error e =>
    refine .inr (heldAtOperands_of_meet hm ?_)
    unfold State.operands3 at h; rw [hm] at h; exact h
  | ok u =>
    refine .inl ⟨rfl, ?_⟩
    rw [operands3_ok hm] at h
    simp only [bind, Except.bind, conclude] at h
    injection h with h; exact h.symm

/-- Whatever holds an instruction at its operands leaves memory, tags, network, clock and columns as they were. -/
theorem heldAtOperands_frame {s t : State} (h : HeldAtOperands s t) :
    t.mem = s.mem ∧ t.w0 = s.w0 ∧ t.tags = s.tags ∧ t.net = s.net ∧ t.clk = s.clk ∧ t.columns = s.columns ∧ t.free = s.free := by
  rcases h with ⟨p, rfl⟩ | ⟨cls, code, d, rfl, _⟩ <;> simp

/-- A two-source instruction changes nothing outside cores and columns but the fault a trap records. -/
theorem binary_frame {a : Args} {s t : State} {f : W128 → W128 → W128} (h : binary a s f = .next t) :
    t.mem = s.mem ∧ t.w0 = s.w0 ∧ t.tags = s.tags ∧ t.net = s.net ∧ t.clk = s.clk ∧ t.free = s.free := by
  rcases binary_cases h with ⟨_, k⟩ | h
  · have e : SameOutsideCores s t := by
      rw [k]; exact (((same_takeSrc s a.ty a.s1).trans (same_takeSrc _ a.ty a.s2)).trans (same_writeD _ a.d _)).trans (same_advance _)
    exact ⟨e.mem, e.w0, e.tags, e.net, e.clk, e.free⟩
  · have e := heldAtOperands_frame h; exact ⟨e.1, e.2.1, e.2.2.1, e.2.2.2.1, e.2.2.2.2.1, e.2.2.2.2.2.2⟩

end Sys2Proof.Machine
end

