-- ==== Sys2Proof/Laws/Access.lean ====
section
/-! SUPPORT. What the traffic of a core can do to memory: messages, write-backs, fills and registers leave every byte, the bytes
of W0 and every tag as they were; a store at its home keeps their canonical form. -/

namespace Sys2Proof.Machine
open Sys2Proof

set_option Elab.async false

/-- `t` has the bytes, the bytes of W0 and the tags of `s`. -/
def KeepsBytes (s t : State) : Prop := t.mem = s.mem ∧ t.w0 = s.w0 ∧ t.tags = s.tags

namespace KeepsBytes

theorem refl (s : State) : KeepsBytes s s := ⟨rfl, rfl, rfl⟩

theorem trans {s t u : State} (h : KeepsBytes s t) (k : KeepsBytes t u) : KeepsBytes s u :=
  ⟨k.1.trans h.1, k.2.1.trans h.2.1, k.2.2.trans h.2.2⟩

theorem memOk {s t : State} (h : KeepsBytes s t) (k : s.memOk) : t.memOk := memOk_of_same k h.1 h.2.1 h.2.2

theorem of_same {s t : State} (h : SameOutsideCores s t) : KeepsBytes s t := ⟨h.mem, h.w0, h.tags⟩

/-- A fold of steps that each keep the bytes keeps them. -/
theorem foldl {α : Type} {f : State → α → State} (h : ∀ s x, KeepsBytes s (f s x)) (l : List α) (s : State) :
    KeepsBytes s (l.foldl f s) := by
  induction l generalizing s with
  | nil => exact refl s
  | cons x r ih => exact (h s x).trans (ih (f s x))

end KeepsBytes

section
variable (s : State)

theorem keeps_modCore (p : Nat) (f : Core → Core) : KeepsBytes s (s.modCore p f) := ⟨rfl, rfl, rfl⟩
theorem keeps_modCx (f : Ctx → Ctx) : KeepsBytes s (s.modCx f) := ⟨rfl, rfl, rfl⟩
theorem keeps_modColumn (k : Nat) (f : Column → Column) : KeepsBytes s (s.modColumn k f) := ⟨rfl, rfl, rfl⟩
theorem keeps_modEdge (k : Nat) (f : EdgeCtl → EdgeCtl) : KeepsBytes s (s.modEdge k f) := ⟨rfl, rfl, rfl⟩
theorem keeps_modHall (h : Nat) (f : Hall → Hall) : KeepsBytes s (s.modHall h f) := ⟨rfl, rfl, rfl⟩
theorem keeps_modLaunch (lid : Nat) (f : Launch → Launch) : KeepsBytes s (s.modLaunch lid f) := ⟨by simp, by simp, by simp⟩
theorem keeps_send (p : Packet) : KeepsBytes s (s.send p) := ⟨rfl, rfl, rfl⟩
theorem keeps_dropPacket (k : Nat) : KeepsBytes s (s.dropPacket k) := ⟨rfl, rfl, rfl⟩
theorem keeps_recordFault (lid : Nat) (f : FaultInfo) : KeepsBytes s (s.recordFault lid f) := ⟨by simp, by simp, by simp⟩
theorem keeps_trapAt (core ctx : Nat) (cls code : BitVec 8) (d : W64) : KeepsBytes s (s.trapAt core ctx cls code d) :=
  ⟨by simp, by simp, by simp⟩
theorem keeps_parkCur (p : Park) : KeepsBytes s (s.parkCur p) := ⟨by simp, by simp, by simp⟩
theorem keeps_deliver (core : Nat) (t : BitVec 16) (r : Reg) : KeepsBytes s (s.deliver core t r) := .of_same (same_deliver ..)
theorem keeps_takeTicket (cls : BitVec 4) (d : BitVec 6) : KeepsBytes s (s.takeTicket cls d).2 := .of_same (same_takeTicket ..)
theorem keeps_writeD (d : BitVec 6) (v : TagVal) : KeepsBytes s (s.writeD d v) := .of_same (same_writeD ..)
theorem keeps_takeSrc (t : Ty) (x : Src) : KeepsBytes s (s.takeSrc t x).2 := .of_same (same_takeSrc ..)
theorem keeps_advance : KeepsBytes s s.advance := .of_same (same_advance s)
theorem keeps_goto (a : VAddr) : KeepsBytes s (s.goto a) := .of_same (same_goto s a)

theorem keeps_post (vn : VN) (kind lid src dest : Nat) (port : Port) (g : Option (Kind × Nat)) (b : Body) :
    KeepsBytes s (s.post vn kind lid src dest port g b) := ⟨rfl, rfl, rfl⟩
theorem keeps_inject (p : Packet) : KeepsBytes s (s.inject p) := ⟨rfl, rfl, rfl⟩
theorem keeps_postTile (vn : VN) (kind l : Nat) (b : Body) : KeepsBytes s (s.postTile vn kind l b) := keeps_inject ..
theorem keeps_postHall (h : Nat) (b : Body) : KeepsBytes s (s.postHall h b) := keeps_inject ..
theorem keeps_sendFrom (pa : Nat) (p : Packet) : KeepsBytes s (s.sendFrom pa p) := by
  unfold State.sendFrom
  split <;> exact ⟨rfl, rfl, rfl⟩
theorem keeps_sendEvent (pa dest lid : Nat) (c : Option Nat) : KeepsBytes s (s.sendEvent pa dest lid c) := by
  unfold State.sendEvent
  simp only
  split
  · exact ⟨rfl, rfl, rfl⟩
  · exact keeps_sendFrom ..
theorem keeps_selfRespond (core n : Nat) (r : Rsp) : KeepsBytes s (s.selfRespond core n r) := ⟨rfl, rfl, rfl⟩
theorem keeps_deliverLater (core n : Nat) (t : BitVec 16) (v : TagVal) (p : Option (BitVec 8)) (g : Option Sig) :
    KeepsBytes s (s.deliverLater core n t v p g) := ⟨rfl, rfl, rfl⟩

theorem keeps_sendReq (r : Req) (g : Option (Kind × Nat)) (later : Nat) : KeepsBytes s (s.sendReq r g later) := by
  unfold State.sendReq
  simp only
  first
  | exact ⟨rfl, rfl, rfl⟩
  | (split <;> exact ⟨rfl, rfl, rfl⟩)

theorem keeps_sendTracked (r : Req) (d : Bool) (g : Option (Kind × Nat)) (later : Nat) : KeepsBytes s (s.sendTracked r d g later) :=
  (keeps_modCore s _ _).trans (keeps_sendReq _ _ _ _)

theorem keeps_sendWriteBack (r : Req) : KeepsBytes s (s.sendWriteBack r) := (keeps_modCore s _ _).trans (keeps_sendTracked _ _ _ _ _)

theorem keeps_cleanParts (core la : Nat) (m : BitVec 256) : KeepsBytes s (s.cleanParts core la m) := by
  unfold State.cleanParts
  split
  · exact .refl s
  · split
    · exact .refl s
    · exact (keeps_modCore s _ _).trans (.foldl (fun t r => keeps_sendWriteBack t r) _ _)

theorem keeps_cleanLine (core la : Nat) : KeepsBytes s (s.cleanLine core la) := keeps_cleanParts s core la _

theorem keeps_flushLine (core la : Nat) : KeepsBytes s (s.flushLine core la) := (keeps_cleanLine s core la).trans (keeps_modCore _ _ _)

theorem keeps_flushLines (core : Nat) (p : Nat → Bool) : KeepsBytes s (s.flushLines core p) :=
  .foldl (fun t la => keeps_flushLine t core la) _ _

theorem keeps_cleanLines (core : Nat) (p : Nat → Bool) : KeepsBytes s (s.cleanLines core p) :=
  .foldl (fun t la => keeps_cleanLine t core la) _ _

theorem keeps_flushSector (core pa : Nat) : KeepsBytes s (s.flushSector core pa) := by
  unfold State.flushSector
  split
  · exact .refl s
  · simp only
    split
    · exact .refl s
    · exact (keeps_cleanParts s _ _ _).trans (keeps_modCore _ _ _)

theorem keeps_applySig (core : Nat) (g : Sig) : KeepsBytes s (s.applySig core g) := (keeps_flushLines s _ _).trans (keeps_modCore _ _ _)

theorem keeps_invalidateL1 (core : Nat) : KeepsBytes s (s.invalidateL1 core) := keeps_flushLines s _ _

theorem keeps_homeSigOr (core lid : Nat) (g : Option Sig) : KeepsBytes s (s.homeSigOr core lid g) := by
  cases g
  · exact .refl s
  · exact keeps_modCore ..

theorem keeps_askFill (core ctx la key : Nat) (g : Option (Kind × Nat)) : KeepsBytes s (s.askFill core ctx la key g) :=
  .foldl (fun t _ => keeps_sendReq t _ g 0) _ _

theorem keeps_setWatches (pa : Nat) (ws : List Watch) : KeepsBytes s (s.setWatches pa ws) := by
  unfold State.setWatches; split <;> exact ⟨rfl, rfl, rfl⟩

theorem keeps_fireAt (pa n : Nat) : KeepsBytes s (s.fireAt pa n) := by
  unfold State.fireAt
  simp only
  split
  · exact .refl s
  · exact (keeps_setWatches s _ _).trans (.foldl (fun t w => keeps_sendEvent t _ _ _ _) _ _)

theorem keeps_noteWrite (pa n : Nat) : KeepsBytes s (s.noteWrite pa n) := by
  unfold State.noteWrite; split
  · exact keeps_modCore ..
  · exact .refl s

/-- Making room for a line leaves the bytes as they were. -/
theorem keeps_makeRoom {t : State} (core la : Nat) (h : s.makeRoom core la = some t) : KeepsBytes s t := by
  unfold State.makeRoom at h
  simp only at h
  split at h
  · injection h with h; subst h; exact .refl s
  · split at h
    · cases h
    · split at h
      · cases h
      · injection h with h; subst h; exact (keeps_cleanLine s _ _).trans (keeps_modCore _ _ _)

theorem keeps_allocLine {t : State} (core la key : Nat) (h : s.allocLine core la key = some t) : KeepsBytes s t := by
  unfold State.allocLine at h
  split at h
  · injection h with h; subst h; exact .refl s
  · split at h
    · cases h
    · next u hu => injection h with h; subst h; exact (keeps_makeRoom s core la hu).trans (keeps_modCore _ _ _)

/-- A store into the L1 leaves memory as it was: its bytes reach their home with the write-back (R205, R207). -/
theorem keeps_storeL1 {t : State} (core pa key : Nat) (bs : List Byte) (mask : List (BitVec 2)) (tag : Option Bool)
    (h : s.storeL1 core pa key bs mask tag = some t) : KeepsBytes s t := by
  unfold State.storeL1 at h
  split at h
  · cases h
  · next u hu => injection h with h; subst h; exact (keeps_allocLine s _ _ _ hu).trans (keeps_modCore _ _ _)

/-- A store performed at its home keeps the canonical form (R199, R201, R219). -/
theorem memOk_storeHome {s : State} (pa : Nat) (bs : List Byte) (mask : List (BitVec 2)) (tag : Option Bool) (h : s.memOk) :
    (s.storeHome pa bs mask tag).memOk := 
  (keeps_fireAt _ pa bs.length).memOk (memOk_store pa bs mask tag ((keeps_noteWrite s pa bs.length).memOk h))

/-- The bytes after a store performed at its home are those of the masked write (R207, R219). -/
theorem mem_storeHome (pa : Nat) (bs : List Byte) (mask : List (BitVec 2)) (tag : Option Bool) :
    (s.storeHome pa bs mask tag).mem = Memory.writeMasked s.mem pa bs mask := by
  have k := (keeps_noteWrite s pa bs.length).1
  exact (keeps_fireAt _ pa bs.length).1.trans (congrArg (fun m => Memory.writeMasked m pa bs mask) k)

/-- Every byte outside a store performed at its home reads as before. -/
theorem read_storeHome_outside {s : State} (pa x : Nat) (bs : List Byte) (mask : List (BitVec 2)) (tag : Option Bool) (h : s.memOk)
    (hx : x < pa ∨ pa + bs.length ≤ x) : Memory.read (s.storeHome pa bs mask tag).mem x = Memory.read s.mem x := by
  rw [mem_storeHome]; exact read_writeMasked_outside pa x bs mask h.1 hx

end

/-- The first step of a release waits where it stands, or parks after sending the write-backs; it never traps (R224). -/
theorem release_error {s : State} {sc : Scope} {e : Stop} (h : s.release sc = .error e) :
    ∃ t p, e = .park t p ∧ KeepsBytes s t := by
  unfold State.release at h
  simp only at h
  split at h
  · split at h
    · injection h with h; exact ⟨s, _, h.symm, .refl s⟩
    · split at h
      · injection h with h; exact ⟨_, _, h.symm, (keeps_cleanLines s _ _).trans (keeps_modCx _ _)⟩
      · cases h
  · split at h
    · injection h with h; exact ⟨s, _, h.symm, .refl s⟩
    · cases h

theorem keeps_release {s t : State} {sc : Scope} (h : s.release sc = .ok t) : KeepsBytes s t := by
  unfold State.release at h
  simp only at h
  split at h
  · split at h
    · cases h
    · split at h
      · cases h
      · injection h with h; subst h; exact .refl s
  · split at h
    · cases h
    · injection h with h; subst h; exact keeps_modCx ..

end Sys2Proof.Machine
end

