-- ==== Sys2Proof/Laws/Lanes.lean ====
section
/-! SUPPORT. Lanes: what a lane of a value built from lanes is (R238, R311). -/

namespace Sys2Proof.Machine
open Sys2Proof

theorem length_span (a n : Nat) : (span a n).length = n := by
  induction n generalizing a with
  | zero => rfl
  | succ n ih => simp [span, ih]

theorem getElem_span (a n i : Nat) (h : i < (span a n).length) : (span a n)[i] = a + i := by
  induction n generalizing a i with
  | zero => simp [span] at h
  | succ n ih =>
    cases i with
    | zero => rfl
    | succ i => simp only [span, List.getElem_cons_succ]; rw [ih]; omega

theorem mem_span {a n x : Nat} : x ∈ span a n ↔ a ≤ x ∧ x < a + n := by
  induction n generalizing a with
  | zero => simp only [span, List.not_mem_nil, false_iff]; omega
  | succ n ih => simp [span, ih]; omega

theorem length_lanesOf (w n : Nat) (v : W128) : (lanesOf w n v).length = n := by simp [lanesOf, length_span]

theorem getElem_lanesOf (w n i : Nat) (v : W128) (h : i < (lanesOf w n v).length) : (lanesOf w n v)[i] = laneAt w i v := by
  simp [lanesOf, getElem_span]

/-- The lane at a position of joined lanes. -/
theorem joinLanes_lane (w i : Nat) (ls : List Nat) :
    joinLanes w ls / 2 ^ (w * i) % 2 ^ w = ls.getD i 0 % 2 ^ w := by
  induction ls generalizing i with
  | nil => simp [joinLanes]
  | cons x r ih =>
    have hp : 0 < 2 ^ w := Nat.two_pow_pos w
    cases i with
    | zero => simp [joinLanes, Nat.add_mod]
    | succ i =>
      have e : 2 ^ (w * (i + 1)) = 2 ^ w * 2 ^ (w * i) := by rw [Nat.mul_succ, Nat.pow_add, Nat.mul_comm]
      have d : (x % 2 ^ w + 2 ^ w * joinLanes w r) / 2 ^ w = joinLanes w r := by
        rw [Nat.add_mul_div_left _ _ hp, Nat.div_eq_of_lt (Nat.mod_lt _ hp), Nat.zero_add]
      simp only [joinLanes, List.getD_cons_succ]
      rw [e, ← Nat.div_div_eq_div_mul, d, ih]

/-- Joined lanes stay below their total width. -/
theorem joinLanes_lt (w : Nat) (ls : List Nat) : joinLanes w ls < 2 ^ (w * ls.length) := by
  induction ls with
  | nil => simp [joinLanes]
  | cons x r ih =>
    have hx : x % 2 ^ w < 2 ^ w := Nat.mod_lt _ (Nat.two_pow_pos w)
    have e : 2 ^ (w * (r.length + 1)) = 2 ^ w * 2 ^ (w * r.length) := by rw [Nat.mul_succ, Nat.pow_add, Nat.mul_comm]
    simp only [joinLanes, List.length_cons]
    rw [e]
    calc x % 2 ^ w + 2 ^ w * joinLanes w r < 2 ^ w + 2 ^ w * joinLanes w r := by omega
      _ = 2 ^ w * (joinLanes w r + 1) := by rw [Nat.mul_succ, Nat.add_comm]
      _ ≤ 2 ^ w * 2 ^ (w * r.length) := Nat.mul_le_mul_left _ ih

/-- The lane of a value, as bits. -/
theorem extract_ofLanes (w i : Nat) (ls : List Nat) (h : w * (i + 1) ≤ 128) :
    (ofLanes w ls).extractLsb' (w * i) w = BitVec.ofNat w (ls.getD i 0) := by
  apply BitVec.eq_of_toNat_eq
  have hw : w * i + w ≤ 128 := by rw [Nat.mul_succ] at h; exact h
  simp only [ofLanes, BitVec.extractLsb'_toNat, BitVec.toNat_ofNat, Nat.shiftRight_eq_div_pow]
  rw [← joinLanes_lane w i ls]
  have e : (2 : Nat) ^ 128 = 2 ^ (w * i) * (2 ^ w * 2 ^ (128 - w * i - w)) := by
    rw [← Nat.pow_add, ← Nat.pow_add]; congr 1; omega
  rw [e, Nat.mod_mul_right_div_self, Nat.mod_mul_right_mod]

theorem toNat_extract (w i : Nat) (v : W128) : (v.extractLsb' (w * i) w).toNat = laneAt w i v := by
  simp [laneAt, BitVec.extractLsb'_toNat, Nat.shiftRight_eq_div_pow]

/-- Each lane of a two-source operation. -/
theorem extract_intLanes (t : Ty) (f : Nat → Nat → Nat) (x y : W128) (i : Nat) (h : i < t.lanes) :
    (intLanes t f x y).extractLsb' (t.bits * i) t.bits = BitVec.ofNat t.bits (f (laneAt t.bits i x) (laneAt t.bits i y)) := by
  have hb : t.bits * (i + 1) ≤ 128 := by
    have : t.bits * t.lanes ≤ 128 := by cases t <;> decide
    exact Nat.le_trans (Nat.mul_le_mul_left _ h) this
  unfold intLanes
  rw [extract_ofLanes _ _ _ hb]
  congr 1
  have hl : i < (((lanesOf t.bits t.lanes x).zipWith f (lanesOf t.bits t.lanes y))).length := by simp [length_lanesOf, h]
  rw [List.getD_eq_getElem?_getD, List.getElem?_eq_getElem hl, Option.getD_some, List.getElem_zipWith, getElem_lanesOf, getElem_lanesOf]

/-- Each lane of a one-source operation. -/
theorem extract_intLanes1 (t : Ty) (f : Nat → Nat) (x : W128) (i : Nat) (h : i < t.lanes) :
    (intLanes1 t f x).extractLsb' (t.bits * i) t.bits = BitVec.ofNat t.bits (f (laneAt t.bits i x)) := by
  have hb : t.bits * (i + 1) ≤ 128 := by
    have : t.bits * t.lanes ≤ 128 := by cases t <;> decide
    exact Nat.le_trans (Nat.mul_le_mul_left _ h) this
  unfold intLanes1
  rw [extract_ofLanes _ _ _ hb]
  congr 1
  have hl : i < ((lanesOf t.bits t.lanes x).map f).length := by simp [length_lanesOf, h]
  rw [List.getD_eq_getElem?_getD, List.getElem?_eq_getElem hl, Option.getD_some, List.getElem_map, getElem_lanesOf]

/-- Under .x the upper half of a lane-wise result is zero. -/
theorem intLanes_x_high (f : Nat → Nat → Nat) (x y : W128) : (intLanes .x f x y).extractLsb' 64 64 = 0 := by
  apply BitVec.eq_of_toNat_eq
  have h : joinLanes 64 ((lanesOf 64 1 x).zipWith f (lanesOf 64 1 y)) < 2 ^ 64 := by
    have := joinLanes_lt 64 ((lanesOf 64 1 x).zipWith f (lanesOf 64 1 y))
    simpa [length_lanesOf] using this
  change (joinLanes 64 ((lanesOf 64 1 x).zipWith f (lanesOf 64 1 y)) % 2 ^ 128) >>> 64 % 2 ^ 64 = 0
  rw [Nat.mod_eq_of_lt (Nat.lt_trans h (by decide)), Nat.shiftRight_eq_div_pow, Nat.div_eq_of_lt h]

end Sys2Proof.Machine
end

