-- ==== Sys2Proof/Tests/Slice0.lean ====
section
/-! SUPPORT. Tests of the model: words written out from the spec's encodings, a term that each well-formedness check refuses, one step of
each instruction with values from the spec's examples or worked by hand, and witnesses that the hypotheses of the statements can be
met. -/

namespace Sys2Proof.Tests
set_option Elab.async false
open Sys2Proof Sys2Proof.Machine
/-- Words decode to the instruction beside them, which takes them all. -/
abbrev allRead (l : List (List Half × Instr)) : Prop :=
  (l.all fun p => decide ((decode p.1).toOption = some (p.2, p.1.length))) = true

/-- Page 0, integer, capability and control: words put together from the fields of Tables 15-2 and 15-3 and the chapter's opcode table. -/
theorem test_decode_page0a : allRead [
  ([0x0000], .nop {}),
  ([0x0485], .mov { d := 4, s1 := .reg 5 }),
  ([0x0885], .fmov { d := 4, s1 := .reg 5 }),
  ([0x0C85], .li { d := 4, s1 := .imm 5 }),
  ([0x1085], .add { d := 4, s1 := .reg 4, s2 := .reg 5 }),
  ([0x1485], .sub { d := 4, s1 := .reg 4, s2 := .reg 5 }),
  ([0x1885], .and { d := 4, s1 := .reg 4, s2 := .reg 5 }),
  ([0x1C85], .or { d := 4, s1 := .reg 4, s2 := .reg 5 }),
  ([0xCA8F, 0x2085], .xor { xr := true, ty := .b, d := 4, s1 := .reg 5, s2 := .reg 42 }),
  ([0x2485], .andn { d := 4, s1 := .reg 4, s2 := .reg 5 }),
  ([0x2885], .shl { d := 4, s1 := .reg 4, s2 := .reg 5 }),
  ([0x2C85], .shr { d := 4, s1 := .reg 4, s2 := .reg 5 })] := by
  decide +kernel

/-- Page 0, integer, capability and control: words put together from the fields of Tables 15-2 and 15-3 and the chapter's opcode table. -/
theorem test_decode_page0b : allRead [
  ([0x3085], .sar { d := 4, s1 := .reg 4, s2 := .reg 5 }),
  ([0x3485], .mul { d := 4, s1 := .reg 4, s2 := .reg 5 }),
  ([0xC188, 0x3885], .min { xr := true, ty := .n8, d := 4, s1 := .reg 5, s2 := .reg 6 }),
  ([0xC185, 0x3C85], .max { xr := true, ty := .s16, d := 4, s1 := .reg 5, s2 := .reg 6 }),
  ([0x4085], .seq { d := 4, s1 := .reg 4, s2 := .reg 5 }),
  ([0x4485], .sne { d := 4, s1 := .reg 4, s2 := .reg 5 }),
  ([0xC188, 0x4885], .slt { xr := true, ty := .n8, d := 4, s1 := .reg 5, s2 := .reg 6 }),
  ([0xC185, 0x4C85], .sle { xr := true, ty := .s16, d := 4, s1 := .reg 5, s2 := .reg 6 }),
  ([0x5085], .sel { d := 4, s1 := .reg 4, s2 := .reg 5 }),
  ([0x5485], .clz { d := 4, s1 := .reg 5 }),
  ([0x5885], .popc { d := 4, s1 := .reg 5 }),
  ([0x5C85], .bext { d := 4, s1 := .reg 4, s2 := .reg 5 })] := by
  decide +kernel

/-- Page 0, integer, capability and control: words put together from the fields of Tables 15-2 and 15-3 and the chapter's opcode table. -/
theorem test_decode_page0c : allRead [
  ([0xC180, 0x6085], .bins { xr := true, d := 4, s1 := .reg 5, s2 := .reg 6 }),
  ([0x6485], .cadd { d := 4, s1 := .reg 4, s2 := .reg 5 }),
  ([0x6805], .b { s1 := .imm 5 }),
  ([0x6C85], .bz { s1 := .reg 4, s2 := .imm 5 }),
  ([0x7085], .bnz { s1 := .reg 4, s2 := .imm 5 }),
  ([0xC002, 0xD009, 0x7485], .blt { xr := true, nxi := 1, ty := .n64, s1 := .reg 4, s2 := .reg 5, s3 := .imm 9 }),
  ([0xC001, 0xD009, 0x7885], .bge { xr := true, nxi := 1, ty := .s64, s1 := .reg 4, s2 := .reg 5, s3 := .imm 9 }),
  ([0x7C85], .call { d := 4, s1 := .imm 5 }),
  ([0x8085], .callr { d := 4, s1 := .reg 5 }),
  ([0x8480], .jr { s1 := .reg 4 }),
  ([0x8885], .loopN { s1 := .reg 4, s2 := .imm 5 }),
  ([0x8C00], .endTask {})] := by
  decide +kernel

/-- Page 0, integer, capability and control: words put together from the fields of Tables 15-2 and 15-3 and the chapter's opcode table. -/
theorem test_decode_page0d : allRead [
  ([0x9089], .sget { d := 4, s1 := .imm 9 }),
  ([0x9481], .sset { s1 := .reg 4, s2 := .imm 1 }),
  ([0x9800], .brk {})] := by
  decide +kernel

/-- Page 1, division, rotation and capabilities: words put together from the fields of Tables 15-2 and 15-3 and the chapter's opcode table. -/
theorem test_decode_page1 : allRead [
  ([0xE100, 0x0085], .div { d := 4, s1 := .reg 4, s2 := .reg 5 }),
  ([0xE130, 0xC183, 0x0485], .rem { xr := true, look := 3, ty := .s32, d := 4, s1 := .reg 5, s2 := .reg 6 }),
  ([0xE100, 0xC186, 0x0885], .mulh { xr := true, ty := .n16, d := 4, s1 := .reg 5, s2 := .reg 6 }),
  ([0xE100, 0x0C85], .rot { d := 4, s1 := .reg 4, s2 := .reg 5 }),
  ([0xE100, 0x1085], .cbnd { d := 4, s1 := .reg 4, s2 := .reg 5 }),
  ([0xE100, 0x1485], .cprm { d := 4, s1 := .reg 4, s2 := .reg 5 }),
  ([0xE100, 0x1885], .cfmt { d := 4, s1 := .reg 4, s2 := .reg 5 }),
  ([0xE100, 0x1C85], .cget { d := 4, s1 := .reg 4, s2 := .reg 5 }),
  ([0xE100, 0x2085], .ctest { d := 4, s1 := .reg 4, s2 := .reg 5 }),
  ([0xE100, 0x2485], .cclr { d := 4, s1 := .reg 5 }),
  ([0xE100, 0x2885], .topo { d := 4, s1 := .imm 5 })] := by
  decide +kernel

/-- Page 2, vector: words put together from the fields of Tables 15-2 and 15-3 and the chapter's opcode table. -/
theorem test_decode_page2a : allRead [
  ([0xE200, 0x0085], .vadd { ty := .f32, d := 4, s1 := .reg 4, s2 := .reg 5 }),
  ([0xE200, 0xC18D, 0x0485], .vsub { xr := true, ty := .f4, d := 4, s1 := .reg 5, s2 := .reg 6 }),
  ([0xE200, 0x0885], .vmul { ty := .f32, d := 4, s1 := .reg 4, s2 := .reg 5 }),
  ([0xE200, 0xC189, 0x0C85], .vfma { xr := true, ty := .f32, d := 4, s1 := .reg 5, s2 := .reg 6 }),
  ([0xE200, 0xC189, 0x1085], .vfms { xr := true, ty := .f32, d := 4, s1 := .reg 5, s2 := .reg 6 }),
  ([0xE200, 0x1485], .vmin { ty := .f32, d := 4, s1 := .reg 4, s2 := .reg 5 }),
  ([0xE200, 0x1885], .vmax { ty := .f32, d := 4, s1 := .reg 4, s2 := .reg 5 }),
  ([0xE200, 0x1C85], .vabs { ty := .f32, d := 4, s1 := .reg 5 }),
  ([0xE200, 0x2085], .vneg { ty := .f32, d := 4, s1 := .reg 5 }),
  ([0xE206, 0x2485], .vcmp .un { ty := .f32, d := 4, s1 := .reg 4, s2 := .reg 5 }),
  ([0xE200, 0x2885], .vsel { ty := .f32, d := 4, s1 := .reg 4, s2 := .reg 5 }),
  ([0xE200, 0x2C85], .vrcp { ty := .f32, d := 4, s1 := .reg 5 })] := by
  decide +kernel

/-- Page 2, vector: words put together from the fields of Tables 15-2 and 15-3 and the chapter's opcode table. -/
theorem test_decode_page2b : allRead [
  ([0xE200, 0x3085], .vrsq { ty := .f32, d := 4, s1 := .reg 5 }),
  ([0xE200, 0x3485], .vexp2 { ty := .f32, d := 4, s1 := .reg 5 }),
  ([0xE200, 0x3885], .vlog2 { ty := .f32, d := 4, s1 := .reg 5 }),
  ([0xE2F0, 0xC18C, 0x3C85], .vdot { xr := true, look := 15, ty := .f8, d := 4, s1 := .reg 5, s2 := .reg 6 }),
  ([0xE212, 0x4085], .vred .min { look := 1, ty := .f32, d := 4, s1 := .reg 5 }),
  ([0xE200, 0x4485], .vamax { ty := .f32, d := 4, s1 := .reg 4, s2 := .reg 5 }),
  ([0xE200, 0x4885], .vshuf { ty := .f32, d := 4, s1 := .reg 4, s2 := .reg 5 }),
  ([0xE200, 0xF003, 0x4C85], .vbcast 3 { ty := .f32, d := 4, s1 := .reg 5 }),
  ([0xE200, 0xF003, 0x5085], .vins 3 { ty := .f32, d := 4, s1 := .reg 5 }),
  ([0xE200, 0xF003, 0x5485], .vext 3 { ty := .f32, d := 4, s1 := .reg 5 }),
  ([0xE200, 0x5885], .vdiv { ty := .f32, d := 4, s1 := .reg 4, s2 := .reg 5 }),
  ([0xE200, 0x5C85], .vsqrt { ty := .f32, d := 4, s1 := .reg 5 })] := by
  decide +kernel

/-- Page 3, conversion: words put together from the fields of Tables 15-2 and 15-3 and the chapter's opcode table. -/
theorem test_decode_page3 : allRead [
  ([0xE300, 0xF009, 0xC00A, 0x0085], .vcvt .f32 0 { xr := true, ty := .bf16, d := 4, s1 := .reg 5 }),
  ([0xE300, 0xF004, 0xC186, 0x0485], .vpack .n32 { xr := true, ty := .n16, d := 4, s1 := .reg 5, s2 := .reg 6 }),
  ([0xE301, 0xF007, 0xC005, 0x0885], .vunpk .s8 true { xr := true, ty := .s16, d := 4, s1 := .reg 5 }),
  ([0xE301, 0x0C85], .vscl true { ty := .f32, d := 4, s1 := .reg 4, s2 := .reg 5 }),
  ([0xE300, 0xC00D, 0x1085], .vqnt { xr := true, ty := .f4, d := 4, s1 := .reg 5 }),
  ([0xE300, 0x1485], .fclass { ty := .f32, d := 4, s1 := .reg 5 })] := by
  decide +kernel

/-- Page 4, memory: words put together from the fields of Tables 15-2 and 15-3 and the chapter's opcode table. -/
theorem test_decode_page4 : allRead [
  ([0xE420, 0xC007, 0x0085], .ld .plain .launch { xr := true, look := 2, ty := .s8, d := 4, s1 := .reg 5 }),
  ([0xE406, 0x0485], .st .rel .sys { s1 := .reg 4, s2 := .reg 5 }),
  ([0xE400, 0xF005, 0xC18C, 0x0885], .ldf 5 { xr := true, ty := .f8, d := 4, s1 := .reg 5, s2 := .reg 6 }),
  ([0xE40A, 0xF002, 0xC189, 0x0C85], .stf .rel .core 2 { xr := true, ty := .f32, d := 4, s1 := .reg 5, s2 := .reg 6 }),
  ([0xE400, 0xC184, 0x1085], .ldg { xr := true, ty := .n32, d := 4, s1 := .reg 5, s2 := .reg 6 }),
  ([0xE400, 0xC181, 0x1485], .stg { xr := true, ty := .s64, d := 4, s1 := .reg 5, s2 := .reg 6 }),
  ([0xE400, 0x1880], .pref { s1 := .reg 4 }),
  ([0xE400, 0x1C80], .cwb { s1 := .reg 4 }),
  ([0xE400, 0x2080], .cinv { s1 := .reg 4 }),
  ([0xE400, 0x2405], .lmways { s1 := .imm 5 })] := by
  decide +kernel

/-- Page 5, atomic and synchronisation: words put together from the fields of Tables 15-2 and 15-3 and the chapter's opcode table. -/
theorem test_decode_page5a : allRead [
  ([0xE500, 0xC180, 0x0085], .amoadd .plain .launch { xr := true, d := 4, s1 := .reg 5, s2 := .reg 6 }),
  ([0xE501, 0xC180, 0x0485], .amoand .acq .launch { xr := true, d := 4, s1 := .reg 5, s2 := .reg 6 }),
  ([0xE502, 0xC180, 0x0885], .amoor .rel .launch { xr := true, d := 4, s1 := .reg 5, s2 := .reg 6 }),
  ([0xE503, 0xC180, 0x0C85], .amoxor .ar .launch { xr := true, d := 4, s1 := .reg 5, s2 := .reg 6 }),
  ([0xE505, 0xC180, 0x1085], .amomin .acq .sys { xr := true, d := 4, s1 := .reg 5, s2 := .reg 6 }),
  ([0xE50A, 0xC180, 0x1485], .amomax .rel .core { xr := true, d := 4, s1 := .reg 5, s2 := .reg 6 }),
  ([0xE50F, 0xC180, 0x1885], .amoswp .ar .hall { xr := true, d := 4, s1 := .reg 5, s2 := .reg 6 }),
  ([0xE500, 0xC180, 0x1C85], .amocas .plain .launch { xr := true, d := 4, s1 := .reg 5, s2 := .reg 6 }),
  ([0xE500, 0xC189, 0x2085], .amofadd .plain .launch { xr := true, ty := .f32, d := 4, s1 := .reg 5, s2 := .reg 6 }),
  ([0xE50D, 0x2400], .fence .acq .hall {}),
  ([0xE500, 0xF01F, 0x2885], .barr 31 { s1 := .reg 4, s2 := .reg 5 }),
  ([0xE500, 0xF002, 0xC180, 0x2C85], .bwait 2 { xr := true, d := 4, s1 := .reg 5, s2 := .reg 6 })] := by
  decide +kernel

/-- Page 5, atomic and synchronisation: words put together from the fields of Tables 15-2 and 15-3 and the chapter's opcode table. -/
theorem test_decode_page5b : allRead [
  ([0xE500, 0xF001, 0x3080], .bcfg 1 { s1 := .reg 4 }),
  ([0xE500, 0x3480], .wfe { s1 := .reg 4 }),
  ([0xE500, 0x3880], .sev { s1 := .reg 4 }),
  ([0xE500, 0x3C80], .watch { s1 := .reg 4 }),
  ([0xE500, 0x4080], .wpend { s1 := .reg 4 }),
  ([0xE500, 0x4485], .wany { d := 4, s1 := .reg 5 }),
  ([0xE500, 0x4885], .pchk { d := 4, s1 := .reg 5 }),
  ([0xE500, 0xF03F, 0x4C80], .dcset 63 { s1 := .reg 4 }),
  ([0xE500, 0xF007, 0x5080], .dcdec 7 { s1 := .reg 4 })] := by
  decide +kernel

/-- Page 6, engine: words put together from the fields of Tables 15-2 and 15-3 and the chapter's opcode table. -/
theorem test_decode_page6 : allRead [
  ([0xE605, 0xF920, 0xC18F, 0x0085], .copy .sys true (some 9) { xr := true, ty := .b, d := 4, s1 := .reg 5, s2 := .reg 6 }),
  ([0xE601, 0x0785], .sbind .launch true { ty := .b, d := 28, s1 := .reg 5 }),
  ([0xE600, 0x089F], .sunb { ty := .b, d := 4, s1 := .reg 31 }),
  ([0xE600, 0x0C80], .mcfg { ty := .b, s1 := .reg 4 }),
  ([0xE60C, 0xF003, 0x1085], .mbld .hall 3 none { ty := .b, d := 4, s1 := .reg 5 }),
  ([0xE600, 0xF800, 0xC18F, 0x1485], .mmac .launch (some 0) { xr := true, ty := .b, d := 4, s1 := .reg 5, s2 := .reg 6 }),
  ([0xE600, 0xC18F, 0x1885], .mrmt .launch none { xr := true, ty := .b, d := 4, s1 := .reg 5, s2 := .reg 6 }),
  ([0xE600, 0x1C80], .licTake { ty := .b, d := 4 }),
  ([0xE601, 0x1C80], .licGive { ty := .b, d := 4 }),
  ([0xE600, 0xC18F, 0x2085], .fill .launch none { xr := true, ty := .b, d := 4, s1 := .reg 5, s2 := .reg 6 })] := by
  decide +kernel

/-- Page 7, naming and messages: words put together from the fields of Tables 15-2 and 15-3 and the chapter's opcode table. -/
theorem test_decode_page7 : allRead [
  ([0xE700, 0xC18F, 0x0085], .want { xr := true, ty := .b, d := 4, s1 := .reg 5, s2 := .reg 6 }),
  ([0xE700, 0xC18F, 0x0485], .offer { xr := true, ty := .b, d := 4, s1 := .reg 5, s2 := .reg 6 }),
  ([0xE700, 0x0885], .seal { ty := .b, d := 4, s1 := .reg 5 }),
  ([0xE703, 0xF802, 0x0C88], .send true true .launch 2 true { ty := .b, s1 := .reg 4, s2 := .reg 8 }),
  ([0xE700, 0xF058, 0x1088], .sendc false .launch 8 5 { ty := .b, s1 := .reg 4, s2 := .reg 8 }),
  ([0xE700, 0xF791, 0x1488], .sendr false .launch 1 1 15 { ty := .b, s1 := .reg 4, s2 := .reg 8 }),
  ([0xE700, 0x1888], .fork { ty := .b, s1 := .reg 4, s2 := .reg 8 }),
  ([0xE700, 0xF00F, 0x1C85], .chcfg 15 { ty := .b, d := 4, s1 := .reg 5 }),
  ([0xE701, 0xF00E, 0x1C85], .chcfgName 14 { ty := .b, d := 4, s1 := .reg 5 }),
  ([0xE700, 0x2085], .lease { ty := .b, d := 4, s1 := .reg 5 }),
  ([0xE700, 0x2485], .role { ty := .b, d := 4, s1 := .reg 5 }),
  ([0xE700, 0xF021, 0x2888], .join 33 { ty := .b, s1 := .reg 4, s2 := .reg 8 })] := by
  decide +kernel

/-- Page 8, system: words put together from the fields of Tables 15-2 and 15-3 and the chapter's opcode table. -/
theorem test_decode_page8 : allRead [
  ([0xE800, 0xF007, 0x0080], .trap 7 { s1 := .reg 4 }),
  ([0xE800, 0x0480], .idle { s1 := .reg 4 }),
  ([0xE800, 0xF005, 0x0885], .sysc 5 { d := 4, s1 := .reg 5 }),
  ([0xE801, 0x0C80], .ctxsv true { s1 := .reg 4 }),
  ([0xE800, 0x1080], .ctxld { s1 := .reg 4 }),
  ([0xE802, 0x1480], .tlbi .hall { s1 := .reg 4 }),
  ([0xE800, 0x1885], .rolew { s1 := .reg 4, s2 := .reg 5 }),
  ([0xE800, 0xF001, 0x1C85], .pwrc true { d := 4, s1 := .reg 5 })] := by
  decide +kernel

/-! ## The checks of well-formedness (Table 15-4) -/

/-- An ill-formed instruction for each check, refused by name. -/
theorem test_wellFormed_refuses :
    (Instr.add { nxi := 3, d := 4, s1 := .reg 4, s2 := .imm 1 }).check = some .chain ∧
    (Instr.vbcast 4 { xr := true, ty := .f32, d := 4, s1 := .reg 5 }).check = some .modifiers ∧
    (Instr.add { xr := true, ty := .f32, d := 4, s1 := .reg 5, s2 := .reg 6 }).check = some .type ∧
    (Instr.add { ty := .n8, d := 4, s1 := .reg 4, s2 := .reg 5 }).check = some .type ∧
    (Instr.bins { d := 4, s1 := .reg 5, s2 := .reg 6 }).check = some .operandFields ∧
    (Instr.callr { xr := true, d := 4, s1 := .reg 32 }).check = some .operandFields ∧
    (Instr.add { look := 2, d := 4, s1 := .reg 4, s2 := .reg 5 }).check = some .lookahead ∧
    (Instr.add { d := 4, s1 := .reg 4, s2 := .reg 5 }).wellFormed = true := by decide +kernel

/-- Words that form no instruction, refused by name: no base word, two prefixes of a kind, an unassigned page, an XM of zero, an
unassigned slot, a modifier without meaning, a nonzero spare field and an XI where none may stand. -/
theorem test_decode_refuses :
    let r (ws : List Half) : Option Reject := match decode ws with | .error e => some e | .ok _ => none
    r [0xE100] = some .endOfChain ∧ r [0xC000, 0xC000, 0x1085] = some .chain ∧ r [0xE900, 0x1085] = some .page ∧
    r [0xE100, 0xF000, 0x1085] = some .modifiers ∧ r [0xA000] = some .slot ∧ r [0xE101, 0x0085] = some .modifiers ∧
    r [0x0001] = some .operandFields ∧ r [0xD001, 0x5485] = some .immediate := by decide +kernel
/-! ## States for the tests -/

/-- A result is there: `r = .ok v`, in the form that `decide` can evaluate. -/
abbrev gives {α : Type} (r : Res α) (v : α) : Prop := r.toOption = some v

/-- `gives` says that the result is `.ok`. -/
theorem gives_iff {α : Type} (r : Res α) (v : α) : gives r v ↔ r = .ok v := by cases r <;> simp [gives, Except.toOption]


/-- Launch 0 on the core (8, 0, 0), its context 1 about to execute an instruction of one halfword at 0x4_0000. -/
def calm : State := (State.reset.readyToFetch (placeOf 8 0 0)).modCx (fun x => { x with npc := 0x40002 })

/-- A general register of the current context holds a value. -/
def withReg (s : State) (n : Nat) (v : W128) (tag : Bool := false) : State := s.setRegAt s.cur.core s.cur.ctx n (Reg.full ⟨v, tag⟩)

/-- The state after an instruction, or the state before it where it stops. -/
def after (i : Instr) (s : State) : State := match exec i s with | .next t => t | _ => s

/-- A register of the current context after an instruction. -/
def resultIn (n : Nat) (i : Instr) (s : State) : Reg := (after i s).regAt s.cur.core s.cur.ctx n

/-- The value of the youngest shadowed result after an instruction. -/
def landingIn (i : Instr) (s : State) : Option TagVal := ((after i s).cc.shadows.getLast?).map (fun h => h.val)

/-- The class and detail of the fault that an instruction leaves. -/
def faultIn (i : Instr) (s : State) : Option (BitVec 8 × W64) := (((after i s).launch 0).fault).map (fun f => (f.2.cls, f.2.detail))

/-- The pieces that the checks of an access give. -/
def pieces (r : Res Access) : List (Piece × Target) := match r with | .ok (.ok ps) => ps | _ => []

/-- A result, or the default. -/
def got {α : Type} [Inhabited α] (r : Res α) : α := match r with | .ok v => v | _ => default

/-- A second tile of launch 0, L 1, on the core (9, 0, 0). -/
def pair : State :=
  (calm.modLaunch 0 (fun l => { l with compute := [placeOf 8 0 0, placeOf 9 0 0] })).setCore (placeOf 9 0 0) { role := .host 0 .compute 1 }

/-- A virtual address of byte `off` of the local SRAM of tile `l`. -/
def tileVa (l off : Nat) : W128 := BitVec.ofNat 128 (0xF * 2 ^ 44 + l * 2 ^ 24 + off)

/-- Operands of the witnesses: d is g6, the sources g4 and g5. -/
def ops : Args := { xr := true, d := 6, s1 := .reg 4, s2 := .reg 5 }

/-! ## Witnesses: states and operands that meet the hypotheses of the statements -/

/-- IntegerArithmetic. -/
theorem witness_IntegerArithmetic :
    gives (calm.operands2 .x (.reg 4) (.reg 5) [.dst 6]) ({}, {}, calm) ∧ gives (calm.operand1 .x (.reg 4) [.dst 6]) ({}, calm) := by
  decide +kernel

/-- MovesAndFields: sources and old destination FULL; fmov between two general registers, and of z. -/
theorem witness_MovesAndFields :
    gives (calm.operands2 .x (.reg 4) (.reg 5) [.dst 6]) ({}, {}, calm) ∧
    gives (calm.meet ([.src 6] ++ srcMeet (.reg 4) ++ srcMeet (.reg 5) ++ [.dst 6])) () ∧
    gives (calm.operand1 .x (.reg 4) [.dst 6]) ({}, calm) ∧ gives (calm.operand1 .x (.reg 62) [.dst 6]) ({}, calm) ∧
    (calm.inShadow 4 = false ∧ calm.curStream? 4 = none ∧ calm.curStream? 6 = none ∧ gives (calm.meet [.dst 6]) ()) := by
  decide +kernel

/-- A capability of 64 bytes from 0x4_0000, readable, writable and executable. -/
def codeCap : W128 := BitVec.ofNat 128 0x40000 ||| BitVec.ofNat 128 0x400 <<< 48 ||| BitVec.ofNat 128 1 <<< 88 ||| BitVec.ofNat 128 31 <<< 123

/-- CapabilityOperations: a tagged source and one without a tag; a length that fits 256-byte granules and one that fits none. -/
theorem witness_CapabilityOperations :
    gives ((withReg calm 4 codeCap true).operands2 .x (.reg 4) (.reg 5) [.dst 6]) (⟨codeCap, true⟩, {}, withReg calm 4 codeCap true) ∧
    gives (calm.operands2 .x (.reg 4) (.reg 5) [.dst 6]) ({}, {}, calm) ∧
    gives ((withReg calm 5 (BitVec.ofNat 128 (2 ^ 60))).operands2 .x (.reg 4) (.reg 5) [.dst 6]) ({}, ⟨BitVec.ofNat 128 (2 ^ 60), false⟩, withReg calm 5 (BitVec.ofNat 128 (2 ^ 60))) := by
  decide +kernel

/-- CapabilitiesOnlyNarrow. -/
theorem witness_CapabilitiesOnlyNarrow :
    gives ((withReg calm 4 codeCap true).operands2 .x (.reg 4) (.reg 5) [.dst 6]) (⟨codeCap, true⟩, {}, withReg calm 4 codeCap true) := by
  decide +kernel

/-- ControlTransfers: a displacement inside the unit; an indirect target without X, one out of bounds, and one that the fetch
checks accept. -/
theorem witness_ControlTransfers :
    let near (s : State) (d : BitVec 32) : Prop := (s.cx.pc + d.signExtend 48 * 2).toNat / 65536 = s.cx.pc.toNat / 65536
    near calm 0x7FFF ∧ gives (calm.meet [.dst 6]) () ∧ gives (calm.operand1 .x (.reg 4) []) ({}, calm) ∧
    gives (calm.operands2 .x (.reg 4) (.reg 5) []) ({}, {}, calm) ∧
    (capX (codeCap &&& BitVec.ofNat 128 (2 ^ 123 - 1)) = false ∧ capX codeCap = true ∧
      capBase codeCap ≤ 0x40000 ∧ 0x40000 + 2 ≤ capTop codeCap ∧ capTop codeCap < capCursor (codeCap + 0xFF) + 2) ∧
    gives ((withReg calm 4 codeCap true).operand1 .x (.reg 4) []) (⟨codeCap, true⟩, withReg calm 4 codeCap true) ∧
    gives ((withReg calm 4 codeCap true).operand1 .x (.reg 4) [.dst 6]) (⟨codeCap, true⟩, withReg calm 4 codeCap true) ∧
    gives (calm.checkFetch calm.cur.core calm.lid 0x40000) placedPa := by
  decide +kernel

/-- A state whose loop stack ends at the current instruction. -/
def atLast (n : W64) : State := calm.modCx (fun x => { x with loops := [⟨0x3FFF0, 0x40000, n⟩] })

/-- CountedLoopRules: each of loop's clauses, and LAST of a loop with a count of 2 and of 1. -/
theorem witness_CountedLoopRules :
    let last (s : State) (d : BitVec 32) : VAddr := s.cx.pc + d.signExtend 48 * 2
    (last calm 0).toNat < calm.cx.npc.toNat ∧ (calm.cx.npc.toNat ≤ (last calm 1).toNat ∧ (last calm 1).toNat / 4096 = calm.cx.pc.toNat / 4096) ∧
    gives (calm.operand1 .x (.reg 4) []) ({}, calm) ∧ gives ((withReg calm 4 3).operand1 .x (.reg 4) []) (⟨3, false⟩, withReg calm 4 3) ∧
    calm.cx.loops.length < 4 ∧ calm.cx.pc.toNat < calm.cx.npc.toNat ∧
    (atLast 2).cx.loops = [⟨0x3FFF0, (atLast 2).cx.pc, 2⟩] ∧ (atLast 1).cx.loops = [⟨0x3FFF0, (atLast 1).cx.pc, 1⟩] := by
  decide +kernel

/-- SystemRegisters. -/
theorem witness_SystemRegisters : gives (calm.meet [.dst 6]) () ∧ gives (calm.operand1 .x (.reg 4) []) ({}, calm) := by
  decide +kernel

/-- MemoryWrites. -/
theorem witness_MemoryWrites : Memory.wf [(5, 1), (9, 255)] = true ∧ [1#2, 3#2].length = [7#8, 0#8].length := by decide +kernel

/-- g4 holds the address of byte 0x9000 of the tile's own local SRAM, g5 a value. -/
def near : State := withReg (withReg calm 4 (tileVa 0 0x9000)) 5 0x1122334455667788
/-- g4 holds an address of the other tile. -/
def far : State := withReg (withReg pair 4 (tileVa 1 0x9000)) 5 0x1122334455667788
/-- The capability of 64 bytes at an address of local SRAM, of .f32 elements, readable and writable. -/
def dataCap (va : W128) : W128 :=
  va ||| BitVec.ofNat 128 (va.toNat / 256) <<< 48 ||| BitVec.ofNat 128 1 <<< 88 ||| BitVec.ofNat 128 9 <<< 114 ||| BitVec.ofNat 128 31 <<< 123
/-- As `near`, with a tagged capability in g4, the index 0 in g5, and one in g6. -/
def nearCap : State := withReg (withReg calm 4 (dataCap (tileVa 0 0x9000)) true) 6 (dataCap (tileVa 0 0x9000)) true
/-- As `far`, with a tagged capability in g4. -/
def farCap : State := withReg pair 4 (dataCap (tileVa 1 0x9000)) true

/-- The value of g4. -/
abbrev a4 (s : State) : TagVal := (s.takeSrc .x (.reg 4)).1
/-- The value of g5. -/
abbrev a5 (s : State) : TagVal := (s.takeSrc .x (.reg 5)).1

/-- Loads: ld, ldf and ldg of the issuing core's local SRAM, and ld and ldg of another core's. -/
theorem witness_Loads :
    (near.cx.acquires = [] ∧ gives (near.operand1 .x (.reg 4) [.dst 6]) (a4 near, near) ∧
      gives (near.checkAccess (a4 near) (capCursor (a4 near).v) 8 true false) (.ok (pieces (near.checkAccess (a4 near) (capCursor (a4 near).v) 8 true false))) ∧
      allOwn (pieces (near.checkAccess (a4 near) (capCursor (a4 near).v) 8 true false)) = true) ∧
    (gives (nearCap.operands2 .x (.reg 4) (.reg 5) [.dst 6]) (a4 nearCap, a5 nearCap, nearCap) ∧
      (pieces (nearCap.checkElems (a4 nearCap) true false (elemOffsets (a4 nearCap).v true (span 0 4)))).length = 1 ∧
      allOwn (pieces (nearCap.checkElems (a4 nearCap) true false (elemOffsets (a4 nearCap).v true (span 0 4)))) = true) ∧
    ((pieces (nearCap.checkLanes .n32 (a4 nearCap) 0 true false)).length = 4 ∧ allOwn (pieces (nearCap.checkLanes .n32 (a4 nearCap) 0 true false)) = true) ∧
    (far.cx.acquires = [] ∧ far.cc.holds = [] ∧ far.cc.l1Ways = 0 ∧ far.cc.l1 = [] ∧ far.cc.ticketsFull = false ∧ far.curStream? 6 = none ∧
      gives (far.operand1 .x (.reg 4) [.dst 6]) (a4 far, far) ∧
      (pieces (far.checkAccess (a4 far) (capCursor (a4 far).v) 8 true false)).map (fun p => (p.2.own, p.2.device)) = [(false, false)]) ∧
    (gives (farCap.operands2 .n32 (.reg 4) (.reg 5) [.dst 6]) (a4 farCap, a5 farCap, farCap) ∧
      (pieces (farCap.checkLanes .n32 (a4 farCap) 0 true false)).map (fun p => (p.2.own, p.2.device)) = List.replicate 4 (false, false)) := by
  decide +kernel

/-- Stores: out of bounds of a capability; local st, stf and stg; a shadowed one; and one that leaves the core. -/
theorem witness_Stores :
    (gives ((withReg calm 4 (dataCap 0x40000 + 63) true).checkAccess ⟨dataCap 0x40000 + 255, true⟩ 0x400FF 8 true false) .oob ∧
      gives ((withReg calm 4 (dataCap 0x40000 + 63) true).checkAccess ⟨dataCap 0x40000 + 255, true⟩ 0x400FF 8 false true) .oob ∧
      gives ((withReg calm 4 (dataCap 0x40000 + 63) true).checkAccess ⟨dataCap 0x40000 + 255, true⟩ 0x400FF 8 true true) .oob ∧
      gives (calm.operands2 .x (.reg 4) (.reg 5) [.dst 6]) ({}, {}, calm) ∧ gives (calm.operands2 .x (.reg 4) (.reg 5) []) ({}, {}, calm)) ∧
    (gives (near.operands2 .x (.reg 4) (.reg 5) []) (a4 near, a5 near, near) ∧ gives (near.beforeStore false .launch) (near, none) ∧
      (pieces (near.checkAccess (a4 near) (capCursor (a4 near).v) 8 false true)).map (fun p => (p.2.own, p.2.device)) = [(true, false)]) ∧
    (gives (nearCap.meet ([.src 6] ++ srcMeet (.reg 4) ++ srcMeet (.reg 5))) () ∧ nearCap.fenceHolds = none ∧
      (pieces (nearCap.checkLanes .n32 ⟨dataCap (tileVa 0 0x9000), true⟩ 0 false true)).map (fun p => (p.2.own, p.2.device)) = List.replicate 4 (true, false) ∧
      (pieces (nearCap.checkElems ⟨dataCap (tileVa 0 0x9000), true⟩ false true (elemOffsets (dataCap (tileVa 0 0x9000)) false (span 0 4)))).length = 1) ∧
    (far.fenceHolds = none ∧ gives (far.operands2 .x (.reg 4) (.reg 5) []) (a4 far, a5 far, far) ∧
      (pieces (far.checkAccess (a4 far) (capCursor (a4 far).v) 8 false true)).map (fun p => (p.2.own, p.2.device)) = [(false, false)]) := by
  decide +kernel

/-- Two lines of the L1, one dirty, both without a fill pending. -/
def cached : State := near.modCc (fun c => { c with l1Ways := 2, l1 := [{ la := 0x4000, valid := 3, dirty := 1 }, { la := 0x4001, valid := 3 }] })

/-- CachedLines: an address that would not be cached, the lines of `cached`, and a fill that arrives for a missing line. -/
theorem witness_CachedLines :
    (gives (near.operand1 .x (.reg 4) []) (a4 near, near) ∧ near.xlateCur (capCursor (a4 near).v) false =
      .ok { pa := sramPa near.cur.core 0x9000, own := true, target := some (.compute, 0) }) ∧
    ((cached.cc.l1.map (fun l => l.la)).Nodup ∧ ∀ l ∈ cached.cc.leaving (Nat.min 1 8), l.fill = false) := by
  decide +kernel

/-- AtomicOperations: an aligned item of local SRAM, and the request at its home. -/
theorem witness_AtomicOperations :
    gives (near.meet (srcMeet (.reg 4) ++ srcMeet (.reg 5) ++ [.src 6] ++ [.dst 6])) () ∧ gives (near.meet (srcMeet (.reg 4) ++ srcMeet (.reg 5) ++ [.dst 6])) () ∧
    (pieces (near.checkAccess (a4 near) (capCursor (a4 near).v) 8 true true)).map (fun p => (p.2.own, p.2.device, paRegion p.2.pa)) = [(true, false, 0)] ∧
    (pieces (near.checkAccess (a4 near) (capCursor (a4 near).v) 4 true true)).map (fun p => (p.2.own, p.2.device, paRegion p.2.pa)) = [(true, false, 0)] ∧
    capCursor (a4 near).v % 8 = 0 ∧ gives (near.beforeStore false .launch) (near, none) ∧ near.cx.acquires = [] ∧ near.cc.ticketsFull = false ∧
    (near.isCode placedPa = false ∧ near.damaged placedPa = false ∧ paRegion placedPa = 1) := by
  decide +kernel

/-- FencesAndBarriers: no acquire, no load outstanding; a tile of the launch, one outside it; a quiet barrier and a busy one. -/
theorem witness_FencesAndBarriers :
    (calm.cx.acquires = [] ∧ calm.cc.outs.all (fun o => !(o.ctx == calm.cur.ctx && o.load && decide (o.id < calm.cc.nextId))) = true ∧
      calm.cc.localInFlight calm.cur.ctx = false ∧ gives (calm.release .launch) calm ∧ calm.cx.relWait = [] ∧
      calm.cc.waiting calm.cur.ctx (hallOf calm.cur.core) .launch calm.cc.nextId = false ∧
      (let t := calm.modCc (fun c => { c with outs := [{ id := 0, ctx := 1, hall := none }], nextId := 1 })
       t.cx.relWait = [] ∧ t.cc.waiting t.cur.ctx (hallOf t.cur.core) .launch t.cc.nextId = true)) ∧
    (gives (calm.operand1 .x (.reg 4) []) ({}, calm) ∧ (calm.cc.barrier 0).arr = 0 ∧
      ((calm.modCc (fun c => { c with barriers := [(0, { arr := 1 })] })).cc.barrier 0).arr ≠ 0 ∧ (0x70000 : W128).extractLsb' 16 3 = 7) ∧
    (gives (calm.operands2 .x (.reg 4) (.reg 5) []) ({}, {}, calm) ∧ 0 < calm.curC ∧ calm.curC ≤ ((1 : W128).extractLsb' 0 20).toNat ∧ calm.fenceHolds = none) ∧
    (gives (calm.operands2 .x (.reg 4) (.reg 5) [.dst 6]) ({}, {}, calm) ∧ gives (calm.operands2 .x (.reg 4) (.reg 5) [.dst 62]) ({}, {}, calm) ∧
      calm.curStream? 6 = none ∧ calm.cc.ticketsFull = false) := by
  decide +kernel

/-- A state with one message that has reached its core. -/
def arrived (b : Body) (port : Port := .core) : State :=
  let q : Packet := { dest := placeOf 8 0 0, final := placeOf 8 0 0, pos := placeOf 8 0 0, port := port, body := b }
  { pair with net := [q], clk := 100 }

/-- The packet that `accept` takes out, if it takes one. -/
def taken (s : State) : Option Body := (s.accept 0).map (fun r => r.1.body)

/-- BarriersAtHome: an arrival below the count of two and one that reaches it; a wait that is answered, one held, and an answer. -/
theorem witness_BarriersAtHome :
    let arr : Body := .barArr 0 3 1 7 0
    let w : BWaiter := { lid := 0, home := 0, bar := 3, target := 1, core := placeOf 8 0 0, ctx := 1, ticket := some 0x5001 }
    let held := ((arrived (.barAns w 1 7 0 false false)).setRegAt (placeOf 8 0 0) 1 6 (Reg.pending 0x5001)).modCore (placeOf 8 0 0)
      (fun c => { c with tickets := [⟨0x5001, .gpr (placeOf 8 0 0) 1 6⟩] })
    taken (arrived arr) = some arr ∧ ((arrived arr).core (placeOf 8 0 0)).barrier 3 = {} ∧ ((arrived arr).launch 0).c = 2 ∧
    taken (arrived (.barWait w)) = some (.barWait w) ∧ (0#32 - w.target).toInt < 0 ∧ 0 ≤ (1#32 - w.target).toInt ∧
    ((held.landed 0).map (fun p => (p.body, p.port)) = some (.barAns w 1 7 0 false false, .core) ∧
      (held.core (placeOf 8 0 0)).ticketLoc 0x5001 = some (.gpr (placeOf 8 0 0) 1 6) ∧
      ((held.core (placeOf 8 0 0)).ctx 1).reg 6 = Reg.pending 0x5001 ∧ (held.core (placeOf 8 0 0)).l1 = []) ∧
    ((arrived (.barAns w 1 7 0 false true)).landed 0).map (fun p => p.body) = some (.barAns w 1 7 0 false true) ∧
    (((pair.modCore 5 (fun c => { c with waitRetry := [⟨0, w⟩] })).core 5).waitRetry[0]?).map (fun r => decide (r.at_ ≤ pair.clk)) = some true := by
  decide +kernel

/-- BarrierCombining: an arrival at a hall controller, at a plain barrier and at a region barrier; a period; a bcfg. -/
theorem witness_BarrierCombining :
    let h := hallOf (placeOf 8 0 0)
    let s := arrived (.barArr 0 3 1 7 0) (.hall h)
    ((s.landedAtHall 0).map (fun r => (r.1, r.2.1.body)) = some (h, .barArr 0 3 1 7 0)) ∧ (s.launch 0).plainBars.contains (h, 0, 3) = false ∧
    ((s.modLaunch 0 (fun l => { l with plainBars := [(h, 0, 3)] })).launch 0).plainBars.contains (h, 0, 3) = true ∧
    (((arrived (.bcfg 0 3 true) (.hall h)).landedAtHall 0).map (fun r => r.2.1.body) = some (.bcfg 0 3 true)) ∧
    (s.launch? 0).map (fun l => decide (getAt 0 h l.combines < (s.clk - l.startClk) / 64)) = some true := by
  decide +kernel

/-- EventsWatchesFutures: sev's tile and latch, an event, a passed limit; a watch of local SRAM; the register states of wpend and wany. -/
theorem witness_EventsWatchesFutures :
    let waits (p : Park) := calm.modCx (fun x => { x with park := some p })
    (gives (calm.operand1 .x (.reg 4) []) ({}, calm) ∧ 0 < calm.curC ∧ calm.fenceHolds = none ∧ calm.cc.holds = [] ∧ calm.cx.latch = false) ∧
    taken (arrived (.event none)) = some (.event none) ∧
    ((waits (.wfe (some 0) (.reg 4))).ctxLive (placeOf 8 0 0) 1 = true ∧ 0 ≤ (waits (.wfe (some 0) (.reg 4))).ownClk (placeOf 8 0 0)) ∧
    ((waits (.idle (some 0) (.reg 4))).ctxLive (placeOf 8 0 0) 1 = true) ∧
    ((pieces (near.checkAccess (a4 near) (capCursor (a4 near).v) 1 true false)).map (fun p => (p.2.own, p.2.pa == sramPa near.cur.core (p.2.pa % 2 ^ 17))) = [(true, true)]
      ∧ near.cur.core < 2 ^ 19) ∧
    ((calm.setRegAt calm.cur.core calm.cur.ctx 7 (Reg.pending 9)).cx.reg 7).state = .pending ∧
    gives (calm.operand1 .x (.reg 4) [.dst 6]) ({}, calm) ∧ calm.inShadow 4 = false ∧
    (calm.setRegAt calm.cur.core calm.cur.ctx 4 (Reg.poison 3)).poisonedAt 4 = true := by
  decide +kernel

/-- VectorLanes. -/
theorem witness_VectorLanes :
    gives (calm.operands2 .f32 (.reg 4) (.reg 5) [.dst 6]) ({}, {}, calm) ∧ calm.cc.divBusy ≤ calm.clk ∧
    gives (calm.operand1 .f32 (.reg 4) [.dst 6]) ({}, calm) ∧ gives (calm.operands3 .f32 (.reg 4) (.reg 5) 6) ({}, {}, {}, calm) := by
  decide +kernel

/-- VectorSelections, at the first and last lane of .f32. -/
theorem witness_VectorSelections :
    gives (calm.operands2 .f32 (.reg 4) (.reg 5) [.dst 6]) ({}, {}, calm) ∧ gives (calm.operands3 .f32 (.reg 4) (.reg 5) 6) ({}, {}, {}, calm) ∧
    gives (calm.operand1 .f32 (.reg 4) [.dst 6]) ({}, calm) ∧ gives (calm.meet (srcMeet (.reg 4) ++ [.src 6, .dst 6])) () ∧
    ((3 : BitVec 5).toNat < Ty.f32.lanes) ∧ calm.rules.ftz = false := by
  decide +kernel

/-- Reductions. -/
theorem witness_Reductions :
    gives (calm.operand1 .f32 (.reg 4) [.dst 6]) ({}, calm) ∧ gives (calm.operands3 .f32 (.reg 4) (.reg 5) 6) ({}, {}, {}, calm) := by
  decide +kernel

/-- Conversions: a narrowing pair, a widening one, and pairs of half and double width. -/
theorem witness_Conversions :
    Ty.bf16.bits < Ty.f32.bits ∧ Ty.bf16.bits * 2 = Ty.f32.bits ∧ gives (calm.meet (srcMeet (.reg 4) ++ [.src 6, .dst 6])) () ∧
    gives (calm.operand1 .f32 (.reg 4) [.dst 6]) ({}, calm) ∧ gives (calm.operands2 .bf16 (.reg 4) (.reg 5) [.dst 6]) ({}, {}, calm) := by
  decide +kernel

/-- The core (8, 0, 0). -/
abbrev home : Nat := placeOf 8 0 0
/-- `calm` with its core changed. -/
def core0 (f : Core → Core) : State := calm.modCore home f

/-- TaskAdmission: a handler message, a queued message and a record in the deque, with context 2 free; a source passed over 8 times. -/
theorem witness_TaskAdmission :
    let m : Msg := { stage := 3, handler := 5 }
    let c1 := core0 (fun c => { c with highQ := [m] })
    let c2 := core0 (fun c => { c with lowQ := [m] })
    let c3 := core0 (fun c => { c with deque := [{ hdr := 7 }] })
    (c1.admits home = some (0, 0) ∧ (c1.core home).nextAdmit ≤ c1.clk ∧ (c1.core home).freeCtx c1.clk 0 = true ∧ (c1.core home).highQ = [m]) ∧
    (c2.admits home = some (0, 0) ∧ (c2.core home).highQ = [] ∧ (c2.core home).freeLow c2.clk = some 2 ∧ (c2.core home).nextSource = some .queue) ∧
    (c3.admits home = some (0, 0) ∧ (c3.core home).nextSource = some .deque ∧ (c3.core home).deque.getLast? = some { hdr := 7 }) ∧
    (let c := { c3.core home with passed := [0, 7, 8] }
     c.deque ≠ [] ∧ 8 ≤ c.passed.getD 2 0 ∧ c.passed.getD 0 0 < 8 ∧ c.passed.getD 1 0 < 8) := by
  decide +kernel

/-- TaskLimitsAndEnds: a live launch's task with a limit and one that is linked; a handler. -/
theorem witness_TaskLimitsAndEnds :
    ((calm.core home).ctx 1).task = some { limit := 65536 } ∧ (calm.launch? 0).isSome = true ∧ (calm.launch 0).issues calm.clk = true ∧
    (((core0 (fun c => { c with ctxs := [(0, { task := some { hi := true, limit := 512 } })] })).core home).ctx 0).task = some { hi := true, limit := 512 } ∧
    (let s := calm.modCx (fun x => { x with task := some { link := some (0, 3) } })
     s.cx.task = some { link := some (0, 3) } ∧ s.fenceHolds = none ∧ s.cc.holds = [] ∧ gives (s.release .launch) s) := by
  decide +kernel

/-- TasksAndCounters: records for fork and join, a full deque, a counter with and without a record, and decrements of 2, 1 and 0. -/
theorem witness_TasksAndCounters :
    let counted (n : BitVec 16) (b : Option TaskRec) : State :=
      (arrived (.decrement 3 0)).modCore home (fun c => { c with counters := [(3, { count := n, bound := b })] })
    (gives (calm.header (.reg 4) (.reg 8) 3) ({}, [{}, {}, {}]) ∧ gives (calm.release .core) calm ∧ calm.cc.deque.length < 32 ∧
      32 ≤ (core0 (fun c => { c with deque := List.replicate 32 {} })).cc.deque.length) ∧
    (gives (calm.operand1 .x (.reg 4) []) ({}, calm) ∧ 0 < calm.curC ∧ calm.fenceHolds = none ∧ calm.cc.holds = []) ∧
    (taken (counted 2 none) = some (.decrement 3 0) ∧ ((counted 2 none).core home).counter 3 = { count := 2 }) ∧
    (taken (counted 1 (some {})) = some (.decrement 3 0) ∧ ((counted 1 (some {})).core home).counter 3 = { count := 1, bound := some {} }) ∧
    taken (counted 0 none) = some (.decrement 3 0) := by
  decide +kernel

/-- TaskSharing: a request of a thief to a core without records, an answer, a pause that ends, and a period of a hall. -/
theorem witness_TaskSharing :
    ((arrived (.stealReq 5)).landed 0).map (fun p => p.body) = some (.stealReq 5) ∧ topUnpinned ((arrived (.stealReq 5)).core home).deque = none ∧
    (let s := (arrived (.stealAns (some {}))).modLaunch 0 (fun l => { l with halted := some 0 })
     (s.landed 0).map (fun p => p.body) = some (.stealAns (some {})) ∧ (s.core home).deque.length < 32 ∧ s.admits home = none) ∧
    ((core0 (fun c => { c with backoff := some 0 })).core home).backoff = some 0 ∧
    (let s : State := { calm with clk := 4096 }
     (s.launch? 0).map (fun l => (l.live, l.phase, decide (getAt 0 (hallOf home) l.donations < (s.clk - l.startClk) / 4096))) = some (true, .running, true) ∧
     s.qd 0 (hallOf home) < 16 * (s.hallTiles 0 (hallOf home)).length) := by
  decide +kernel

/-- A message of a core's producer to its register g6, which waits for ticket 0x0001. -/
def awaited (r : Rsp) : State :=
  ((arrived (.response r)).setRegAt home 1 6 (Reg.pending 1)).modCore home (fun c => { c with tickets := [⟨1, .gpr home 1 6⟩] })

/-- ResultsArrive: a shadowed result and a shadowed local store; a delivery, a discarded one and a load's last piece; acknowledgements. -/
theorem witness_ResultsArrive :
    let h : Shadow := { ctx := 1, d := 6, val := ⟨5, false⟩, ready := 0, pc := 0, look := 1 }
    let s := core0 (fun c => { c with shadows := [h, { h with d := 62, store := some (0x9000, [1], none) }] })
    ((s.core home).shadows[0]? = some h ∧ h.ready ≤ s.clk ∧ s.shadowDamage h = none ∧ findAt 6 ((s.core home).ctx 1).streams = none ∧
      (s.core home).shadows[1]? = some { h with d := 62, store := some (0x9000, [1], none) }) ∧
    (let t := awaited { op := .store, ticket := some 1, fill := ⟨9, false⟩ }
     (t.landed 0).map (fun p => p.dest) = some home ∧ (t.core home).ticketLoc 1 = some (.gpr home 1 6) ∧ ((t.core home).ctx 1).reg 6 = Reg.pending 1 ∧
     findAt 6 ((t.core home).ctx 1).streams = none) ∧
    (let t := (awaited { op := .store, ticket := some 1 }).modCore home (fun c => { c with tickets := [⟨1, .nowhere⟩] })
     (t.landed 0).map (fun p => p.dest) = some home ∧ (t.core home).ticketLoc 1 = some .nowhere) ∧
    (let j : Join := { id := 2, ctx := 1, ticket := some 1, left := 1, fmt := .item .x false }
     let t := (awaited { op := .load, join := 2, data := [1, 2, 3, 4, 5, 6, 7, 8] }).modCore home (fun c => { c with joins := [j] })
     (t.landed 0).map (fun p => p.dest) = some home ∧ (t.core home).joins.find? (fun i => i.id == 2) = some j ∧ (t.core home).ticketLoc 1 = some (.gpr home 1 6)) ∧
    (let t := awaited { op := .amo 0 .x 1 0, ticket := some 1, id := 4 }
     (t.landed 0).map (fun p => p.dest) = some home ∧ (t.core home).ticketLoc 1 = some (.gpr home 1 6)) ∧
    (let t := (awaited { op := .store, id := 4 }).modCore home (fun c => { c with outs := [{ id := 4, ctx := 1, hall := none }] })
     (t.landed 0).map (fun p => p.dest) = some home ∧ (∀ x < 5, ((t.core home).ctx x).relWait = [])) := by
  decide +kernel

/-- CachedLines, second part: the fill of a line's missing sector. -/
theorem witness_CachedLines_fill :
    let r : Rsp := { op := .lineFill, pa := 0x20000 * 128, data := List.replicate 64 7 }
    let s := (awaited r).modCore home (fun c => { c with l1Ways := 1, l1 := [{ la := 0x20000, valid := 3, fill := true }], misses := [{ la := 0x20000, left := 1 }] })
    (s.landed 0).map (fun p => p.dest) = some home ∧ (s.core home).line? (r.pa / 128) = some { la := 0x20000, valid := 3, fill := true } ∧
    (s.core home).misses.find? (fun m => m.la == r.pa / 128) = some { la := 0x20000, left := 1 } ∧ r.pa % 64 = 0 ∧ r.data.length = 64 := by
  decide +kernel

/-- AccessesAtHomes: homes with and without a code mark; an access at a core, at a landing and at an edge controller. -/
theorem witness_AccessesAtHomes :
    let r : Req := { op := .store, core := home, ctx := 1, lid := 0, pa := placedPa, len := 1, data := [1] }
    let q : Req := { r with op := .load, data := [] }
    (paRegion r.pa ≠ 2 ∧ calm.damaged r.pa = false ∧ calm.isCode r.pa = false ∧ ({ calm with codeMarks := [(unitOf placedPa, 0)] } : State).isCode r.pa = true) ∧
    (taken (arrived (.access r)) = some (.access r) ∧ (arrived (.access r)).holdsItems home = false) ∧
    (let s := calm.modColumn 4096 (fun c => { c with table := [{ stair := true, req := q }] })
     (s.column 4096).stairQ = [] ∧ (s.column 4096).table = [{ stair := true, req := q }] ∧ (s.column 4096).nextSlot ≤ s.clk) ∧
    (let s := calm.modEdge 3 (fun c => { c with table := [{ q with pa := 2 * 2 ^ 48 }] })
     (s.edge 3).table = [{ q with pa := 2 * 2 ^ 48 }] ∧ (s.edge 3).nextClk ≤ s.clk ∧ paRegion (2 * 2 ^ 48) ≠ 1) := by
  decide +kernel

/-- `calm` whose context 1 waits. -/
def waiting (p : Park) : State := calm.modCx (fun x => { x with park := some p })

/-- Translation: a context that waits for a walk without a page table, and for the scan of a unit that its launch has not scanned. -/
theorem witness_Translation :
    (((waiting (.walk 0x90000)).core home).ctx 1).park = some (.walk 0x90000) ∧ ((waiting (.walk 0x90000)).walkFor home 0 0x90000).1 = none ∧
    (waiting (.walk 0x90000)).walkerFree home 1 = false ∧
    ((waiting (.walk 0x90000)).modHall (hallOf home) (fun h => { h with misses := [(home, 1)] })).walkerFree home 1 = true ∧
    (let s := (waiting (.scan (unitOf placedPa))).modLaunch 0 (fun l => { l with scans := [] })
     ((s.core home).tlb.find? (fun e => e.lid == 0 && e.holds (unitOf placedPa))).isSome = true ∧ (s.launch 0).startMap? (unitOf placedPa) = none ∧
     (s.launch? 0).isSome = true ∧ (s.launch 0).scans.length < 1024 ∧
     (let t := ({ s with clk := 8192 } : State).modLaunch 0 (fun l => { l with scanning := [(unitOf placedPa, 0)] })
      (t.launch 0).scanning = [(unitOf placedPa, 0)] ∧ t.scanAge 0 (unitOf placedPa) = 8192)) := by
  decide +kernel

/-- Routing: a hop to each neighbour and over the twin bond, and a waypoint reached. -/
theorem witness_Routing :
    let p (pos dest : Nat) : Packet := { pos := pos, dest := dest, final := dest }
    let s (q : Packet) : State := { calm with net := [q] }
    (∀ d ∈ [placeOf 8 0 1, placeOf 9 0 0, placeOf 7 0 0, placeOf 8 1 0], (s (p home d)).net[0]? = some (p home d) ∧ (p home d).plain = true ∧
      (p home d).pos ≠ (p home d).dest ∧ (s (p home d)).mayHop (p home d) = true ∧ (s (p home d)).rectOf (stepFrom home (routeDir home d)) = none) ∧
    (let q : Packet := { p home home with stat := true, wps := [home] }
     (s q).net[0]? = some q ∧ q.pos = q.dest ∧ q.step < q.wps.length) ∧
    (let q : Packet := { p home (placeOf 9 0 0) with ready := 5 }
     (s q).mayHop q = false ∧ (s q).overflows q = false) := by
  decide +kernel

/-- An active or channel message that has arrived. -/
def message (kind : Nat) (es : List TagVal) (hi : Bool := false) : State :=
  let q : Packet := { kind := kind, dest := home, final := home, pos := home, entries := es, hiPrio := hi }
  { calm with net := [q], clk := 100 }

/-- MessageDelivery: messages of both priorities, with room and without; a channel with room, a full one and a disabled one; a
refusal; a service request. -/
theorem witness_MessageDelivery :
    let on (n : BitVec 9) := (message 3 [{}]).modCore home (fun c => { c with chans := [(0, { en := true, log2e := 1, count := n })] })
    (((message 2 [{}]).accept 0).map (fun r => (r.1.kind, r.1.hiPrio)) = some (2, false) ∧ (message 2 [{}]).holdsItems home = false ∧
      ((message 2 [{}]).core home).lowQ.length < 16) ∧
    (((message 2 [{}] true).accept 0).map (fun r => (r.1.kind, r.1.hiPrio)) = some (2, true) ∧ ((message 2 [{}] true).core home).highQ.length < 8) ∧
    (16 ≤ ((message 2 [{}]).modCore home (fun c => { c with lowQ := List.replicate 16 {} })).cc.lowQ.length) ∧
    ((((on 0).core home).chan 0).en = true ∧ 0 + 1 ≤ (((on 0).core home).chan 0).size ∧ (((on 2).core home).chan 0).size < 2 + 1 ∧
      ((message 3 [{}]).cc.chan 0).en = false ∧ ((on 0).accept 0).map (fun r => r.1.kind) = some 3) ∧
    (({ calm with peerOut := [(2, ({} : Packet))] } : State).peerOut[0]? = some (2, ({} : Packet))) ∧
    ((arrived (.service 5 0 home 1 none) .mgmt).landed 0).map (fun p => p.body) = some (.service 5 0 home 1 none) := by
  decide +kernel

/-- A readable, writable capability of bytes in the tile's own local SRAM from 0x9000, of `n` granules. -/
def sramCap (off n : Nat) (ty lay : Nat) : W128 :=
  tileVa 0 off ||| BitVec.ofNat 128 ((0xF * 2 ^ 44 + off) / 256) <<< 48 ||| BitVec.ofNat 128 n <<< 88 ||| BitVec.ofNat 128 ty <<< 114
    ||| BitVec.ofNat 128 lay <<< 118 ||| BitVec.ofNat 128 31 <<< 123

/-- `calm` with two tagged capabilities in g4 and g5. -/
def caps (x y : W128) : State := withReg (withReg calm 4 x true) 5 y true

/-- The regions of an engine's targets, and whether each lies in its core's own SRAM. -/
def targetsOf (r : Piecewise (List (Piece × Target))) : List (Nat × Bool) :=
  match r with
  | .ok ts => ts.map (fun p => (paRegion p.2.pa, p.2.own))
  | _ => []

/-- CopyEngine: byte capabilities for copy and fill, elements for a converting copy, a pair without values, and pieces in flight. -/
theorem witness_CopyEngine :
    let b := sramCap 0x9000 1 15 0
    let f := sramCap 0x9000 1 9 0
    let s := caps b b
    (gives (s.operands2 .b (.reg 4) (.reg 5) [.dst 6]) (⟨b, true⟩, ⟨b, true⟩, s) ∧ capW b = true ∧ capR b = true ∧ gives (s.issueEngine .launch) s ∧
      s.curStream? 6 = none ∧ capBase b ≤ capCursor b ∧ capCursor b + (capTop b - capCursor b) ≤ capTop b) ∧
    (gives (calm.operands2 .b (.reg 4) (.reg 5) [.dst 6]) ({}, {}, calm) ∧ capCursor (b - 1) < capBase (b - 1)) ∧
    (layoutOk (sramCap 0x9000 1 15 2) = false ∧ layoutOk b = true ∧ (capTy b).isFloat = false ∧ capLength (sramCap 0x9000 0 15 0) = 0 ∧
      layoutOk (sramCap 0x9000 0 15 0) = true) ∧
    (gives ((caps f f).operands2 .b (.reg 4) (.reg 5) [.dst 6]) (⟨f, true⟩, ⟨f, true⟩, caps f f) ∧ (capTy f).isFloat = true ∧ layoutOk f = true ∧
      fitCount f 0 (capLength f * 2 + 1) = 64 ∧ elemBit f 63 + (capTy f).bits ≤ capLength f * 8) := by
  decide +kernel

/-- CopyEngine: a piece that has been read and one that failed, a command to and from another core's SRAM, and an address out of bounds. -/
theorem witness_CopyEngine_pieces :
    let b := sramCap 0x9000 1 15 0
    (let c : CopyCmd := { dst := b, src := ⟨b, true⟩, total := 256, read := 64, flight := [{ off := 0, n := 64, join := some 5 }] }
     let j (failed : Bool) : Join := { id := 5, ctx := 1, ticket := none, left := 0, buf := [(0, 1)], fmt := .hart, failed := failed }
     let t (failed : Bool) := core0 (fun k => { k with copyQ := [c], joins := [j failed] })
     ((t false).core home).copyQ = [c] ∧ c.cvt = false ∧ c.broken = false ∧ c.moved + 64 < c.total ∧ ((t false).core home).acked ((t false).core home).nextId = true ∧
     ((t false).core home).join? ((t false).core home).nextId = none ∧ ((t false).core home).bytesFor { off := 0, n := 64, join := some 5 } = some (false, [(0, 1)]) ∧
     ((t true).core home).bytesFor { off := 0, n := 64, join := some 5 } = some (true, [(0, 1)]) ∧
     targetsOf ((t false).hartTargets home 0 walkCopyWrite true (piecesOf (capCursor b) 64)) = [(0, true)]) ∧
    (let far := sramCap 0x9000 1 15 0 + BitVec.ofNat 128 (2 ^ 24)
     let c : CopyCmd := { dst := far, src := ⟨far, true⟩, total := 256 }
     let t := pair.modCore home (fun k => { k with copyQ := [c] })
     (t.core home).copyQ = [c] ∧ c.read < c.total ∧ c.flight = [] ∧
     targetsOf (t.hartTargets home 0 walkCopyRead false (piecesOf (capCursor c.src.v + c.nextPiece.1) c.nextPiece.2)) = [(0, false)] ∧
     targetsOf (t.hartTargets home 0 walkCopyWrite true (piecesOf (capCursor c.dst) 64)) = [(0, false)]) ∧
    (match calm.hartTargets home 0 walkCopyWrite true (piecesOf (0xF * 2 ^ 44 + 2 ^ 30) 64) with | .engine => true | _ => false) = true := by
  decide +kernel

/-- StreamEngine: a range that can be bound, one of a wrong size, a bound input stream and a closing output stream. -/
theorem witness_StreamEngine :
    let c := sramCap 0x9000 1 15 0
    let s := withReg calm 4 c true
    let x : Stream := { base := 0xF * 2 ^ 44 + 0x9000, total := 16 }
    let o : Stream := { x with out := true, buf := [1, 2, 3, 4] }
    let bound (y : Stream) := calm.modCx (fun k => { k with streams := [(28, y)] })
    let rd := piecesOf x.base 64
    (gives (s.operand1 .b (.reg 4) [.dst 28]) (⟨c, true⟩, s) ∧ s.curStream? 28 = none ∧ capW c = true ∧ capR c = true ∧ capBase c ≤ capCursor c ∧
      capCursor c % 16 = 0 ∧ (capTop c - capCursor c) % 16 = 0 ∧ gives (s.issueEngine .launch) s ∧ (capTop (c + 8) - capCursor (c + 8)) % 16 ≠ 0) ∧
    (gives (calm.meetState [.src 28] (.src 28)) () ∧ gives ((bound x).issueEngine .launch) (bound x) ∧
      ((calm.setRegAt home 1 28 (Reg.poison 3)).cx.reg 28).state = .poisoned ∧ (calm.setRegAt home 1 28 (Reg.poison 3)).inShadow 28 = false) ∧
    ((bound x).curStream? 28 = some x ∧ gives ((bound x).operand1 .b (.reg 4) []) ({}, bound x)) ∧
    (gives ((bound x).meet [.dst 6]) () ∧ (bound x).cx.stream? 28 = some x ∧ ((bound x).cx.reg 28).state ≠ .pending ∧ (bound x).fenceHolds = none ∧
      (bound x).cc.ticketsFull = false ∧ (bound o).cx.stream? 28 = some o) ∧
    (((bound x).core home).closing = [] ∧ ((bound x).core home).join? ((bound x).core home).nextId = none ∧ x.buf.length ≤ 4 ∧ x.engine < x.total ∧
      targetsOf ((bound x).hartTargets home 0 (walkStream 1 28) false rd) = [(0, true)] ∧
      targetsOf ((bound o).hartTargets home 0 (walkStream 1 28) true rd) = [(0, true)] ∧ 4 ≤ o.buf.length) ∧
    (let y : Stream := { x with base := 0xF * 2 ^ 44 + 2 ^ 24 + 0x9000 }
     let z := pair.modCx (fun k => { k with streams := [(28, { y with refill := some 5 })] })
     let j : Join := { id := 5, ctx := 1, ticket := none, left := 0, fmt := .hart }
     targetsOf (z.hartTargets home 0 (walkStream 1 28) false (piecesOf y.base 64)) = [(0, false)] ∧
     ((z.core home).ctx 1).stream? 28 = some { y with refill := some 5 } ∧ ((z.modCore home (fun c => { c with joins := [j] })).core home).join? 5 = some j ∧
     targetsOf (z.hartTargets home 0 (walkClosing 1 28) true (piecesOf y.base 64)) = [(0, false)]) ∧
    (let s := core0 (fun k => { k with closing := [⟨1, 28, o, some 5⟩] })
     (s.core home).closing = [⟨1, 28, o, some 5⟩] ∧ o.buf ≠ [] ∧ o.buf.length ≤ 4 ∧ (s.core home).acked o.group = true ∧
     targetsOf (s.hartTargets home 0 (walkClosing 1 28) true (piecesOf o.base 64)) = [(0, true)]) ∧
    (match calm.hartTargets home 0 (walkStream 1 28) false (piecesOf (0xF * 2 ^ 44 + 2 ^ 30) 64) with | .engine => true | _ => false) = true := by
  decide +kernel

/-- Operands of mbld, mmac and mrmt in the tile's own local SRAM: B of 16 KiB, A of 4 KiB and C of 4 KiB. -/
abbrev bmat : W128 := sramCap 0xC000 64 10 0
/-- A. -/
abbrev amat : W128 := sramCap 0x1000 16 10 0
/-- C. -/
abbrev cmat : W128 := sramCap 0x3000 16 9 0

/-- MatrixQueue: mcfg's operand with and without a reserved bit, the operands of mbld, mmac and mrmt, banks in and out of the issue
view, a full queue, and a head command with each state of the licence. -/
theorem witness_MatrixQueue :
    let z := withReg calm 4 8
    let full := core0 (fun c => { c with mqueue := List.replicate 4 { op := .give } })
    let s := caps bmat 0
    let t := (caps amat cmat).modCc (fun c => { c with bankViews := [(0, { loaded := true, fmt := .bf16, loads := 1 })] })
    (gives (calm.operand1 .b (.reg 4) []) ({}, calm) ∧ calm.cc.mqueue.length < 4 ∧ 4 ≤ full.cc.mqueue.length ∧
      gives (z.operand1 .b (.reg 4) []) (⟨8, false⟩, z)) ∧
    (gives (s.operand1 .b (.reg 4) [.dst 6]) (⟨bmat, true⟩, s) ∧ capR bmat = true ∧ capM bmat = true ∧ matOk bmat = true ∧
      matBytes bmat (64 * matK (capTy bmat)) ≤ capLength bmat ∧ s.ownOff? (capBase bmat) = some 0xC000 ∧
      overlaps 0xC000 (matBytes bmat 8192) (bankOff 0) 0x4000 = false ∧ gives (s.issueEngine .launch) s) ∧
    (gives (t.operands2 .b (.reg 4) (.reg 5) [.dst 6]) (⟨amat, true⟩, ⟨cmat, true⟩, t) ∧ matOk amat = true ∧ capTy cmat = .f32 ∧
      capBlog2 cmat = 0 ∧ capLayout cmat < 2 ∧ matBytes amat 2048 ≤ capLength amat ∧ matBytes cmat 1024 ≤ capLength cmat ∧
      gives (t.localRange (capBase cmat) 4096) 0x3000 ∧ gives (t.localRange (capBase amat) 4096) 0x1000 ∧
      overlaps 0x1000 4096 0x3000 4096 = false ∧ overlaps (bankOff 0) 0x4000 0x3000 4096 = false ∧ (t.cc.bankView 0).loaded = true ∧
      (t.cc.bankView 0).fmt = capTy amat ∧ ((caps amat cmat).cc.bankView 0).loaded = false ∧ gives (t.issueEngine .launch) t) ∧
    (gives (calm.meet [.dst 6]) () ∧ calm.fenceHolds = none ∧ calm.cc.ticketsFull = false ∧ gives (calm.issueEngine .launch) calm) := by
  decide +kernel

/-- MatrixQueue, the licence: a head that asks for a free one, a handover that ends, a wait of 8,192 clk, a command that completes. -/
theorem witness_MatrixQueue_licence :
    let s := core0 (fun c => { c with mqueue := [{ op := .take }] })
    ((s.core home).mqueue = [{ op := .take }] ∧ (s.column (colOf home)).lic.handover = none ∧ (s.column (colOf home)).lic.holder = none ∧
      (s.core (layerCore (colOf home) 1)).mqueue = []) ∧
    (let t := s.modColumn (colOf home) (fun k => { k with lic := { handover := some (0, 0) } })
     (t.column (colOf home)).lic.handover = some (placeZ home, 0) ∧ MOp.take.needsLicence = true) ∧
    (let t := ({ s with clk := 8192 } : State).modColumn (colOf home) (fun k => { k with lic := { holder := some 1, waitSince := [some 0, none] } })
     (t.column (colOf home)).lic.waitSince.getD 0 none = some 0 ∧ 0 + 8192 ≤ t.ownClk (2 * colOf home) ∧ (t.core home).headWants t.clk = true) ∧
    (({ op := .give, finish := some 0 } : MCmd).finish = some 0 ∧ 0 ≤ calm.clk) := by
  decide +kernel

set_option maxRecDepth 20000 in
/-- MatrixUnit: an mbld whose source is to come, has come and has failed, an mmac over an EMPTY bank and a LOADED one, with A in the core's SRAM,
a bank without damage and with, an mrmt whose fetch has come; a zero and a number in a block, and scales that are not NaN. -/
theorem witness_MatrixUnit :
    let j (left : Nat) (failed : Bool) : Join := { id := 5, ctx := 1, ticket := none, left := left, fmt := .hart, failed := failed }
    let q (m : MCmd) (l : Bool) (j : Join) := (core0 (fun c => { c with mqueue := [m], tickets := [⟨1, .gpr home 1 6⟩], banks := [(0, { loaded := l })], joins := [j] })).setRegAt
      home 1 6 (Reg.pending 1)
    let m : MCmd := { op := .mbld 0 bmat 0 1, ticket := some 1, finish := some 0, fetched := true, join := some 5 }
    (∀ k ∈ [j 1 false, j 0 false, j 0 true], let s := q m true k
      (s.core home).mqueue = [m] ∧ (s.core home).ticketLoc 1 = some (.gpr home 1 6) ∧ ((s.core home).ctx 1).reg 6 = Reg.pending 1 ∧
      findAt 6 ((s.core home).ctx 1).streams = none ∧ (s.core home).join? 5 = some k ∧ s.bankDamaged home 0 = false) ∧ capTy bmat = .bf16 ∧
    (({ (q m true (j 0 false)) with out := { calm.out with softErrors := [sramPa home (bankOff 0) / 64] } } : State).bankDamaged home 0 = true) ∧
    (let s := q { op := .mmac amat cmat 0, ticket := some 1, finish := some 0 } true (j 0 false)
     (s.core home).mcfgBank = 0 ∧ ((s.core home).bank 0).loaded = true ∧ (match s.matOwn home amat (16 * matK (capTy amat)) with | .ok _ => true | _ => false) = true) ∧
    ((q { op := .mmac amat cmat 0, ticket := some 1, finish := some 0 } false (j 0 false)).core home).bank 0 = { loaded := false } ∧
    (let n : MCmd := { op := .mrmt amat cmat 0, ticket := some 1, join := some 5 }
     ((q n true (j 0 true)).core home).mqueue = [n] ∧ n.fetched = false ∧ ((q n true (j 0 true)).core home).join? 5 = some (j 0 true)) ∧
    (FVal.fin false 3 0 ∈ [FVal.fin false 0 0, .fin false 3 0] ∧ (127 : Nat) ≠ 255) := by
  decide +kernel

set_option maxRecDepth 20000 in
/-- MatrixUnit: what a run needs: a bank without damage, and C in the core's SRAM for its reads and its writes. -/
theorem witness_MatrixUnit_run :
    let s := core0 (fun c => { c with banks := [(0, { loaded := true })] })
    s.bankDamaged home 0 = false ∧ (match s.matOwn home cmat 1024 with | .ok _ => true | _ => false) = true ∧
    (targetsOf (s.hartTargets home 0 walkMatrix true (matPieces cmat 1024))).all (fun t => t.2) = true ∧
    targetsOf (s.hartTargets home 0 walkMatrix true (matPieces cmat 1024)) ≠ [] := by
  decide +kernel

/-- NamedTiles: name routing with a first entry that matches and with none; want's, offer's and seal's operands. -/
theorem witness_NamedTiles :
    let l : Launch := { record := { dpool := true }, j0 := 2, s0 := 3, compute := [0], names := [(0, BitVec.ofNat 128 (2 ^ 78 + 0xFFFFFF * 2 ^ 80 + 7 * 2 ^ 104))] }
    let wcap := sramCap 0x9000 1 15 0
    let s := caps wcap 5
    (hdrField (getAt 0 0 l.names) 78 2 = 1 ∧ (7 &&& 0xFFFFFF) = 7 ∧ entryMatches 7 (getAt 0 0 l.names) = true ∧
      (∀ n < 15, entryMatches 8 (getAt 0 n l.names) = false) ∧ 0 < l.j0 ∧ 0 < l.s0) ∧
    (gives (s.operands2 .b (.reg 4) (.reg 5) [.dst 6]) (⟨wcap, true⟩, ⟨5, true⟩, s) ∧ capBase wcap ≤ capCursor wcap ∧ capW wcap = true ∧
      capR wcap = true ∧ gives (s.localRange (capCursor wcap) (capTop wcap - capCursor wcap)) 0x9000 ∧ s.fenceHolds = none ∧
      s.cc.wants.length < 16 ∧ s.cc.ticketsFull = false ∧ s.cc.holds = [] ∧ 0 < capTop wcap - capCursor wcap ∧ capTop wcap - capCursor wcap ≤ 4096) ∧
    (capCursor codeCap / 2 ^ 44 ≠ 15 ∧ capW codeCap = true ∧ 4096 < capTop bmat - capCursor bmat ∧ gives (calm.operand1 .b (.reg 4) [.dst 6]) ({}, calm)) ∧
    (16 ≤ (s.modCc (fun c => { c with wants := List.replicate 16 { name := 1, ctx := 1, ticket := 1, cap := 0, expiry := 9 } })).cc.wants.length) ∧
    (∃ v ∈ [({ name := 5, ctx := 1, ticket := 1, cap := 0, expiry := 1024 } : Want)], v.name = 5 ∧ s.clk + 1024 ≤ v.expiry) := by
  refine ⟨?_, ?_, ?_, ?_, ⟨_, List.mem_singleton.mpr rfl, ?_⟩⟩ <;> decide +kernel

/-- An interest on its way. -/
def wish (ty : IType) (byp : Bool) (pos dest : Nat) : Packet :=
  { vn := .namei, kind := 4, dest := dest, final := dest, pos := pos, body := .interest { name := 7, type := ty, left := 200, byp := byp, core := home }
    target := some (.routing, 0), born := 0 }

/-- A launch with a routing tile at the core (8, 1, 0), and messages in the network. -/
def routed (ps : List Packet) (f : Core → Core := id) : State :=
  (({ calm with net := ps, clk := 100 } : State).modLaunch 0 (fun l => { l with routing := [some (placeOf 8 1 0)], j0 := 1 })).setCore (placeOf 8 1 0)
    (f { role := .host 0 .routing 0 })

/-- The routing tile of `routed`. -/
abbrev rv : Nat := placeOf 8 1 0

/-- Routing: a routing tile of the message's launch takes one whose way out is full. -/
theorem witness_Routing_overflow :
    let d := placeOf 9 1 0
    let q : Packet := { pos := rv, dest := d, final := d, uid := 1 }
    let b : Packet := { pos := d, dest := placeOf 12 1 0, final := placeOf 12 1 0, face := faceOf (routeDir rv d) }
    let s := routed (q :: List.replicate 8 b)
    s.net[0]? = some q ∧ q.pos ≠ q.dest ∧ s.mayHop q = false ∧ s.overflows q = true := by
  decide +kernel

/-- Interests at routers and at the rendezvous: no entry, a live one, a full table; a lifetime passed; a tile held, a tombstone, a seal. -/
theorem witness_Interests :
    let p := wish .want false home rv
    let q := wish .want false rv rv
    let e : Pit := { name := 7, lid := 0, faces := [5], expiry := 150 }
    (let s := routed [p]
     s.net[0]? = some p ∧ p.ready ≤ s.clk ∧ p.pos ≠ p.dest ∧ s.clk < p.born + 200 ∧ s.cacheHit home 0 7 = none ∧ (s.core home).livePit 0 7 s.clk = none ∧
     (s.core home).pitCount s.clk < 32 ∧ 200 ≤ ({ s with clk := 200 } : State).clk) ∧
    (((routed [p]).modCore home (fun c => { c with pit := [e] })).core home).livePit 0 7 100 = some e ∧
    32 ≤ (((routed [p]).modCore home (fun c => { c with pit := List.replicate 32 { e with name := 8 } })).core home).pitCount 100 ∧
    ((routed [q]).net[0]? = some q ∧ (routed [q]).atRendezvous q = true ∧ ((routed [q]).core rv).dirOf 0 7 = none ∧
      ((routed [q]).core rv).isSealed 0 7 = false ∧ ((routed [q]).core rv).livePit 0 7 100 = none) ∧
    (((routed [q] (fun c => { c with dir := [{ lid := 0, name := 7, held := true, expiry := 300, block := 8, len := 3 }] })).core rv).dirOf 0 7 =
      some { lid := 0, name := 7, held := true, expiry := 300, block := 8, len := 3 }) ∧
    ((routed [q] (fun c => { c with seals := [{ lid := 0, tensor := 0, si := 9 }] })).core rv).sealOf 0 0 = some { lid := 0, tensor := 0, si := 9 } ∧
    (wish .want true rv rv).pos = rv ∧ (routed [wish .want true rv rv]).atRendezvous (wish .want true rv rv) = true ∧
    ((9 : BitVec 16) - 7).toNat < 0x8000 := by
  decide +kernel

/-- An offer of three bytes on its way. -/
def offered (pos dest sleft : Nat) : Packet :=
  { vn := .named, kind := 5, src := home, dest := dest, final := dest, pos := pos, target := some (.routing, 0)
    body := .train { name := 7, code := .data, back := false, sleft := sleft, data := [1, 2, 3], core := home } }
/-- A returning train. -/
def returning (byp : Bool) : Packet :=
  { vn := .named, kind := 5, dest := home, final := home, pos := home
    body := .train { name := 7, code := .data, back := true, byp := byp, ret := home, data := [1, 2, 3] } }

/-- OffersAndSeals: an offer at its rendezvous with and without a lifetime, a seal, an offer to be read, one at a router, one back. -/
theorem witness_OffersAndSeals :
    (∀ n ∈ [0, 1024], let p := offered rv rv n
      (routed [p]).net[0]? = some p ∧ (routed [p]).atRendezvous p = true ∧ (routed [p]).turnFirst p = true ∧
      (routed [p]).offerFirst p { name := 7, code := .data, back := false, sleft := n, data := [1, 2, 3], core := home } = true ∧
      ((routed [p]).core rv).dirOf 0 7 = none ∧ ((routed [p]).core rv).isSealed 0 7 = false ∧ (routed [p]).freeBlock rv = some 8) ∧
    (let p := wish .sealI false rv rv
     (routed [p]).net[0]? = some p ∧ (routed [p]).atRendezvous p = true ∧ (routed [p]).turnFirst p = true ∧ ((routed [p]).core rv).sealOf 0 0 = none) ∧
    (((0 : BitVec 16) - 0xFFFF).toNat < 0x8000 ∧ 0x8000 ≤ ((0 : BitVec 16) - 1).toNat) ∧
    (let p := { offered home rv 0 with body := .train { name := 7, code := .data, back := false, source := some (0xF * 2 ^ 44 + 0x9000, 64, 0), core := home } }
     let ps := sectorPieces (0xF * 2 ^ 44 + 0x9000) 0 64 66
     (routed [p]).net[0]? = some p ∧ p.ready ≤ (routed [p]).clk ∧ (routed [p]).cc.outs = [] ∧ (routed [p]).cc.holds = [] ∧
     (routed [p]).cc.payloadHeld 1 9 [] = false ∧ (routed [p]).cc.role = .host 0 .compute 0 ∧ (routed [p]).cc.join? (routed [p]).cc.nextId = none ∧
     targetsOf ((routed [p]).hartTargets home 0 (walkOffer p.uid) false ps) = [(0, true)] ∧
     (let t : Target := { pa := sramPa home 0x9000, own := true, target := some (.compute, 0) }
      let c : Core := { outs := [{ id := 0, ctx := 1, hall := none, stores := true, pa := sramPa home 0x9000, len := 8 }] }
      c.payloadHeld 1 9 [(⟨0xF * 2 ^ 44 + 0x9000, 0, 64⟩, t)] = true ∧ c.dirtyUnder [(⟨0xF * 2 ^ 44 + 0x9000, 0, 64⟩, t)] = false)) ∧
    (let p := { offered home rv 0 with body := .train { name := 7, code := .data, back := false, source := some (0xF * 2 ^ 44 + 0x9000, 64, 0), join := some 5, core := home } }
     let j (failed : Bool) : Join := { id := 5, ctx := 1, ticket := none, left := 0, fmt := .hart, failed := failed }
     ∀ f ∈ [false, true], (((routed [p]).modCore home (fun c => { c with joins := [j f] })).core p.src).join? 5 = some (j f)) ∧
    (let p := offered home rv 0
     let s := (routed [p]).modCore home (fun c => { c with pit := [{ name := 7, lid := 0, faces := [5, 2], expiry := 150 }] })
     s.net[0]? = some p ∧ p.pos ≠ p.dest ∧ p.seen = false ∧ s.interestDue p.pos 0 7 = false ∧ ((s.core p.pos).livePit 0 7 s.clk).isSome = true ∧ (s.core p.pos).role = .host 0 .compute 0) ∧
    ((routed [returning true]).net[0]? = some (returning true) ∧ ((routed [returning true]).core home).livePit 0 7 100 = none) := by
  decide +kernel

/-- NamedOutcomes: a waiter with an answer of each code, an offerer's answer, a retry, and the clk of each expiry. -/
theorem witness_NamedOutcomes :
    let w : Want := { name := 7, ctx := 1, ticket := 1, cap := sramCap 0x9000 1 15 0, expiry := 2000 }
    let ans (code : DCode) : Packet :=
      { vn := .named, kind := 5, dest := home, final := home, pos := home
        body := .train { name := 7, code := code, back := true, atCore := true, data := [1, 2, 3], ticket := some 1 } }
    let s (code : DCode) : State := (({ calm with net := [ans code], clk := 900 } : State).setRegAt home 1 6 (Reg.pending 1)).modCore home
      (fun c => { c with wants := [w], tickets := [⟨1, .gpr home 1 6⟩] })
    (∀ code ∈ [DCode.data, .never, .expired, .retry, .answer 4], (s code).landed 0 = some (ans code) ∧ ((s code).core home).wants = [w] ∧
      ((s code).core home).ticketLoc 1 = some (.gpr home 1 6) ∧ (((s code).core home).ctx 1).reg 6 = Reg.pending 1) ∧
    (capCursor w.cap % 2 ^ 24 = 0x9000 ∧ ((s .data).core home).sramOk 0x9000 = true ∧ ((s .data).core home).sramOk 0x9002 = true) ∧
    (900 < w.expiry ∧ 900 + 1024 ≤ w.expiry ∧ w.expiry ≤ 2000 ∧ w.expiry < 1500 + 1024 ∧ 3 ≤ capTop w.cap - capCursor w.cap ∧
      capTop (w.cap + 254) - capCursor (w.cap + 254) < 3) ∧
    (((s .data).modCore home (fun c => { c with wants := [{ w with retryAt := some 900 }] })).core home).role = .host 0 .compute 0 ∧ ((s .data).launch 0).phase ≠ .quiescing ∧
    (let c : Core := { pit := [{ name := 7, lid := 0, expiry := 5 }], dir := [{ lid := 0, name := 7, held := true, expiry := 5 }]
                       cache := [{ lid := 0, name := 7, expiry := 5, block := 8, len := 1, used := 0 }] }
     let t := core0 (fun _ => c)
     (t.core home).pit[0]? = some { name := 7, lid := 0, expiry := 5 } ∧ (t.core home).dir[0]? = some { lid := 0, name := 7, held := true, expiry := 5 } ∧
     (t.core home).cache[0]? = some { lid := 0, name := 7, expiry := 5, block := 8, len := 1, used := 0 } ∧ t.clk < 5 ∧
     5 ≤ ({ t with clk := 5 } : State).clk) := by
  decide +kernel

/-- SendingMessages: headers for a tile of the launch, one outside it, a peer that is down, one that is up and a DEV of 33. -/
theorem witness_SendingMessages :
    let up : State := { calm with out := { calm.out with peerPorts := true, peersUp := 1 } }
    (gives (calm.header (.reg 4) (.reg 8) 3) ({}, [{}, {}, {}]) ∧ ({} : TagVal).v.extractLsb' 20 6 = 0 ∧ 0 < calm.curC ∧ calm.fenceHolds = none ∧
      calm.cc.holds = [] ∧ calm.slotTaken .hi = false ∧ getAt 0 (vnIndex .hi + 8) calm.cc.slots ≤ calm.clk + calm.delay calm.cur.core 4 ∧
      calm.slotTaken .req = false ∧ gives (calm.release .launch) calm) ∧
    (let s := withReg calm 4 1; gives (s.header (.reg 4) (.reg 8) 1) (⟨1, false⟩, [{}]) ∧ s.curC ≤ 1) ∧
    (let s := withReg calm 4 (BitVec.ofNat 128 (33 * 2 ^ 20)); gives (s.header (.reg 4) (.reg 8) 1) (⟨BitVec.ofNat 128 (33 * 2 ^ 20), false⟩, [{}])) ∧
    (let s := withReg up 4 (BitVec.ofNat 128 (2 ^ 20)); gives (s.header (.reg 4) (.reg 8) 1) (⟨BitVec.ofNat 128 (2 ^ 20), false⟩, [{}]) ∧
      s.peerUp 0 = true ∧ s.peerUp 1 = false ∧ s.fenceHolds = none ∧ s.slotTaken .req = false) ∧
    (core0 (fun c => { c with slots := [(vnIndex .req, 9)] })).slotTaken .req = true := by
  decide +kernel

/-- RequestsTrapsIdle: a route without a bad waypoint, one with the reserved kind 3; the operands of the rest; idle with and without work. -/
theorem witness_RequestsTrapsIdle :
    (gives (calm.operand1 .b (.reg 4) [.dst 6]) ({}, calm) ∧ (∀ k < 3, (wpField (0 : BitVec 66) k).1 = 0) ∧ calm.cc.ticketsFull = false) ∧
    ((wpField ((BitVec.ofNat 128 (2 ^ 66 - 1)).extractLsb' 0 66) 0).1 = 3) ∧
    (gives (calm.operand1 .x (.reg 4) [.dst 6]) ({}, calm) ∧ gives (calm.operand1 .x (.reg 4) []) ({}, calm)) ∧
    (calm.cc.lowQ = [] ∧ calm.cc.chans = [] ∧ calm.cx.latch = false ∧ (core0 (fun c => { c with lowQ := [{}] })).cc.lowQ ≠ []) := by
  decide +kernel

/-- ContextImageContents: a capability of an aligned image in local SRAM, with and without a PENDING register. -/
theorem witness_ContextImageContents :
    let c := sramCap 0x9000 16 15 0
    let s := withReg calm 4 c true
    let p := s.setRegAt home 1 7 (Reg.pending 1)
    (gives (s.operand1 .b (.reg 4) []) (⟨c, true⟩, s) ∧ s.cur.core < 2 ^ 19 ∧ gives (s.checkImage ⟨c, true⟩ true) () ∧
      gives (s.checkImage ⟨c, true⟩ false) () ∧ gives s.noShadows () ∧ (∀ n < 32, (s.cx.reg n).state ≠ .pending) ∧
      gives (checkAll (s.meetState ((List.range 32).map (fun n => Meet.dst (BitVec.ofNat 6 n)))) ((List.range 32).map (fun n => Meet.dst (BitVec.ofNat 6 n)))) ()) ∧
    (gives (p.operand1 .b (.reg 4) []) (⟨c, true⟩, p) ∧ gives (p.checkImage ⟨c, true⟩ true) () ∧ gives p.noShadows () ∧ (p.cx.reg 7).state = .pending) := by
  decide +kernel

/-- `calm`'s instruction on the hall controller of hall (0, 0). -/
def ctl : State := (State.reset.readyToFetch (placeOf 0 0 1)).modCx (fun x => { x with npc := 0x40002 })

/-- PrivilegedInstructions: a core that is no hall controller and one that is; rolew's target with a routing map. -/
theorem witness_PrivilegedInstructions :
    let w : W128 := BitVec.ofNat 128 (2 * 2 ^ 20)
    let s := withReg (ctl.modLaunch 0 (fun l => { l with routing := [none] })) 4 w
    calm.isHallCtl calm.cur.core = false ∧ ctl.isHallCtl ctl.cur.core = true ∧ gives (ctl.operand1 .b (.reg 4) []) ({}, ctl) ∧
    gives (ctl.operand1 .b (.reg 4) [.dst 6]) ({}, ctl) ∧ gives (s.operands2 .b (.reg 4) (.reg 5) []) (⟨w, false⟩, {}, s) ∧
    (s.launch? 0).map (fun l => decide (0 < l.routing.length)) = some true ∧ w.extractLsb' 20 2 = 2 ∧ (w.extractLsb' 0 20).toNat = 0 := by
  decide +kernel

/-- A message for the hall controller of the core's hall. -/
def toHall (b : Body) : State := arrived b (.hall (hallOf home))

/-- LeasesAndHalls: requests of each kind with a lease held, none held and 32 held; an expiry, a notice, a query and a name route. -/
theorem witness_LeasesAndHalls :
    let h := hallOf home
    let e : Lease := { lid := 0, kind := .compute, idx := 0, expiry := 500, lessee := 1 }
    let ask (kd : Kind) (i dur : Nat) := toHall (.leaseReq kd i dur 1 home 1 (some 1))
    let leased (s : State) (es : List Lease) : State := s.modHall h (fun x => { x with leases := es })
    ((∀ dur ∈ [0, 9], ((ask .compute 0 dur).landedAtHall 0).map (fun r => (r.1, r.2.1.body)) = some (h, .leaseReq .compute 0 dur 1 home 1 (some 1))) ∧
      (ask .compute 0 9).leaseHall 0 .compute 0 h = h ∧ 0 < ((ask .compute 0 9).launch 0).compute.length ∧
      ((leased (ask .compute 0 9) [e]).hall h).leases = [e] ∧ (ask .compute 0 9).clk < e.expiry ∧ ((ask .compute 0 9).hall h).deferred = none) ∧
    (32 ≤ (((leased (ask .compute 0 9) (List.replicate 32 { e with idx := 1 })).hall h).leases.filter (fun e => 100 < e.expiry)).length) ∧
    ((leased calm [e]).hall h).leases[0]? = some e ∧
    (let s := arrived (.notice 5)
     (s.accept 0).map (fun r => (r.1.body, r.1.port)) = some (.notice 5, .core) ∧ (s.core home).role = .host 0 .compute 0 ∧
     s.holdsItems home = false ∧ (s.core home).highQ.length < 8) ∧
    (((toHall (.roleReq .compute 0 home 1 (some 1))).landedAtHall 0).map (fun r => r.2.1.body) = some (.roleReq .compute 0 home 1 (some 1))) ∧
    ((calm.launch 0).compute[0]? = some home ∧ home < 2 ^ 19 ∧ (calm.leaseOf 0 .compute 0) = none) ∧
    (let s := toHall (.nameReq 3 (BitVec.ofNat 128 (2 ^ 78)) home 1 0 (some 1))
     (s.landedAtHall 0).map (fun r => r.2.1.body) = some (.nameReq 3 (BitVec.ofNat 128 (2 ^ 78)) home 1 0 (some 1)) ∧
     (s.landed 0).map (fun p => s.requestFirst p 0) = some false ∧
     (s.launch? 0).isSome = true ∧ hdrField (getAt 0 3 (s.launch 0).names) 78 2 = 0 ∧ (s.launch 0).pool = []) ∧
    (let r : Recast := { dec := { lid := 0, old := none, new := some (.routing, 0), src := rv, dst := rv, cause := 1 }, hall := h, t0 := 0, phase := .grace, due := 9 }
     let s := { calm with recasts := [r] }.modLaunch 0 (fun l => { l with record := { l.record with nroute := 1 }, routing := [none] })
     0 < (s.launch 0).record.nroute.toNat ∧ (s.launch 0).hostOf .routing 0 = none ∧ s.recasts = [r] ∧ s.clk < r.due) := by
  decide +kernel

/-- CensusRules: the end of a first epoch without a decision, one in which row 1 and one in which row 2 decides. -/
theorem witness_CensusRules :
    let h := hallOf home
    let s : State := ({ calm with clk := 65536 } : State).modLaunch 0 (fun l =>
      { l with record := { l.record with w := 1, h := 1, fx := 8, nstore := 1, nroute := 1 }, routing := [none] })
    let t := s.modTally h 0 (fun y => { y with tr := 16 })
    (s.launch? 0).isSome = true ∧ getAt 0 h (s.launch 0).epochs < (s.clk - (s.launch 0).startClk) / 65536 ∧ (s.launch 0).frozen = false ∧
    (s.launch 0).fault = none ∧ (s.launch 0).phase = .running ∧ s.leaseWaits h = false ∧ (s.hall h).hotSince = none ∧
    (s.growth 0 h 1).isSome = true ∧ t.growth 0 h 1 = none ∧ (t.pressure 0 h).isSome = true ∧
    (calm.growth 0 h 1 = none ∧ calm.pressure 0 h = none ∧ calm.surplus 0 h 1 = none) := by
  decide +kernel

/-- A re-cast of `calm`'s launch in a phase. -/
def recast (k : Kind) (ph : RPhase) : Recast :=
  { dec := { lid := 0, old := some (k, 0), new := some (k, 0), src := rv, dst := placeOf 10 0 0, cause := 3 }, hall := hallOf home, t0 := 0, phase := ph, due := 50 }

/-- RoleChanges: a re-cast in each phase, of a pool slot and of a compute tile; a stale entry, an open stub, markers and a close. -/
theorem witness_RoleChanges :
    let at_ (r : Recast) : State := { calm with recasts := [r], clk := 100 }
    let pooled (r : Recast) := ((at_ r).modLaunch 0 (fun l => { l with pool := [rv] })).setCore rv { role := .host 0 .pool 0 }
    let b : Stub := { lid := 0, kind := .pool, idx := 0, old := home, new := some rv, closes := 16384 }
    ((at_ (recast .pool .grace)).recasts[0]? = some (recast .pool .grace) ∧ (recast .pool .grace).due ≤ 100) ∧
    (Memory.wf (at_ (recast .pool .drain)).mem = true ∧ (recast .pool .drain).dec.src ≠ (recast .pool .drain).dec.dst) ∧
    (let s := (at_ (recast .compute .drain)).setCore rv { ctxs := [(1, { task := some {} })] }; s.busyCore rv = true) ∧
    (let s := pooled (recast .pool .moved); (s.launch? 0).isSome = true ∧ (s.launch 0).hostOf .pool 0 = some rv ∧ (s.core rv).role = .host 0 .pool 0) ∧
    (let s := (arrived (.invalidate .pool 0 1 false)).modCore home (fun c => { c with stale := [{ kind := .pool, idx := 0, old := some rv }] })
     (s.accept 0).map (fun r => (r.1.body, r.1.dest)) = some (.invalidate .pool 0 1 false, home) ∧ (s.core home).role = .host 0 .compute 0 ∧
     (s.core home).stale = [{ kind := .pool, idx := 0, old := some rv }]) ∧
    (let q : Packet := { kind := 2, dest := home, final := home, pos := home, target := some (.pool, 0) }
     let s : State := { pooled (recast .pool .moved) with net := [q], stubs := [b] }
     s.landed 0 = some q ∧ (s.launch q.lid).hostOf .pool 0 = some rv ∧ rv ≠ q.dest ∧ s.stubs = [b] ∧ s.clk < b.closes ∧
     s.itemFirst q = false) ∧
    (let s := arrived (.marker .pool 0 false)
     ((s.landed 0).map (fun p => (p.body, s.markerWaits p)) = some (.marker .pool 0 false, false)) ∧ (s.launch 0).hostOf .pool 0 = none ∧
     (let m : Packet := { dest := home, final := home, pos := home, body := .marker .pool 0 false, uid := 4 }
      let t : State := { pooled (recast .pool .moved) with net := [m, { m with body := .message, uid := 2, ready := 200 }], stubs := [b] }
      t.landed 0 = some m ∧ t.markerWaits m = true ∧ ({ t with net := [m] } : State).markerWaits m = false ∧ t.stubOpen 0 .pool 0 m.dest = true ∧
        (t.launch 0).hostOf .pool 0 = some rv)) ∧
    (let s := (arrived (.marker .pool 0 true)).modCore home (fun c => { c with holds := [{ kind := .pool, idx := 0, markers := 5 }] })
     (s.landed 0).map (fun p => p.body) = some (.marker .pool 0 true) ∧ (s.core home).holds = [{ kind := .pool, idx := 0, markers := 5 }]) := by
  decide +kernel

/-- A launch record that passes the head checks. -/
def fine : LRec := { ver := 1, w := 1, h := 1, ncomp := 1, nmin := 1, tlim := 1 }

/-- READY, with room in the record ring. -/
def open_ : State := { calm with cmd := { calm.cmd with crEn := true }, launches := [], cores := [] }

/-- LaunchRecords: a doorbell, a head to latch, each head check, a ring with room and one without, a record and a fault record. -/
theorem witness_LaunchRecords :
    let s : State := { calm with queues := [(3, { head := 1, tail := 2 })] }
    let r : CRec := { lid := 3, tag := 7 }
    let f : CRec := { r with fault := some { cls := 1 } }
    (s.mb.state = .ready ∧ State.reset.mb.state ≠ .ready ∧ (s.queue 3).head ≠ (s.queue 3).tail ∧ (s.queue 3).latched = none ∧
      s.headCheck (parseRecord (s.slotBytes 3 1)) = some (.badRecord, 1) ∧ s.headCheck fine = none) ∧
    (fine.resume = false ∧ s.mb.grade = 0x0A ∧ State.reset.mb.grade = 0 ∧ s.headCheck { fine with nmin := 2 } = some (.badRecord, 2) ∧
      s.headCheck { fine with tlim := 0 } = some (.badRecord, 3)) ∧
    (∀ c ∈ [r, f], let t : State := { open_ with records := [c] }
      t.records = [c] ∧ t.mb.waiting = none ∧ t.cmd.crEn = true ∧ (t.cmd.crTail.toNat + 1) % 64 ≠ t.cmd.crHead.toNat ∧ Memory.wf t.mem = true ∧
      t.cmd.crTail.toNat < 64 ∧ t.cmd.crBase.toNat + 64 * 64 ≤ 2 ^ 48 ∧ c.src ≤ 16 ∧ c.lid < 256) ∧
    (({ open_.cmd with crTail := 63 } : Cmd).crTail.toNat + 1) % 64 = 0 := by
  decide +kernel

/-- LaunchLives: a candidate that starts, one without room and one too late; a step of admission; a launch whose work is done. -/
theorem witness_LaunchLives :
    let q (r : LRec) : State := { open_ with queues := [(3, { head := 1, tail := 2, latched := some r })] }
    let late : State := { q { fine with notafter := 1 } with time13 := 1300 }
    ((q fine).mb.state = .ready ∧ (q fine).cmd.ringRoom = true ∧ (q fine).cmd.lastStart ≠ some (q fine).clk ∧
      (q fine).candidates.find? (q fine).couldStart = some { src := 3, record := fine } ∧
      (grantOf fine ((q fine).available fine)).1.length = 1 ∧ ((grantOf fine ((q fine).available fine)).1 ++ (grantOf fine ((q fine).available fine)).2.1).Nodup) ∧
    (let r := { fine with ncomp := 3, nmin := 3 }; (grantOf r ((q r).available r)).1.length < r.nmin.toNat) ∧
    ((1 : W64) < late.time) ∧
    (let s := calm.modLaunch 0 (fun l => { l with phase := .admission, rows := [0, 1] })
     (s.launch? 0).isSome = true ∧ (s.launch 0).phase = .admission ∧ (s.launch 0).live = true ∧ (s.launch 0).nextStep ≤ s.clk ∧
     (∀ g < 16, s.halved g = false) ∧ s.throttleEnded = none ∧ (s.launch 0).compute.Nodup ∧ (s.launch 0).c = (s.launch 0).compute.length) ∧
    (calm.workDone 0 = false ∧
     (let s := calm.modCore home (fun c => { c with ctxs := [] })
      s.workDone 0 = true ∧ (s.launch 0).compute = [home] ∧ (s.core home).counters = [] ∧ (s.core home).l1 = []) ∧
     (let s := calm.modCore home (fun c => { c with ctxs := [], counters := [(3, { count := 1, bound := some {} })] })
      s.workDone 0 = true ∧ (s.core home).counters = [(3, { count := 1, bound := some {} })] ∧ (s.launch 0).c = 1)) := by
  decide +kernel

/-- PreEmptions: GO for a running launch and for one that is not, no slot, and a quiet launch, clean and dirty. -/
theorem witness_PreEmptions :
    let small (s : State) : State := s.modLaunch 0 (fun l => { l with record := { l.record with w := 1, h := 1, fx := 8 } })
    let s := small calm
    let held : Launch := { record := (s.launch 0).record, phase := .saved }
    let q := small ((calm.modCore home (fun c => { c with ctxs := [], lowQ := [{}] })).modLaunch 0 (fun l => { l with phase := .quiescing }))
    (s.cmd.preGo = false ∧ (s.launch 0).compute ≠ [] ∧ (s.launch 0).phase = .running ∧ (s.launch 0).fault = none ∧ (s.launch 9).compute = []) ∧
    (s.regionCols (s.launch 0).record).length = 1 ∧
    (let t : State := { s with launches := s.launches ++ [(1, held), (2, held)] }
     t.noSlot (t.launch 0).record = true ∧ s.noSlot (s.launch 0).record = false) ∧
    ((q.launch 0).phase = .quiescing ∧ q.quiet 0 = true ∧ q.workDone 0 = false ∧ q.dirtyCores 0 = []) ∧
    (let t := q.modCore home (fun c => { c with l1 := [{ la := 1, dirty := 1 }] }); t.quiet 0 = true ∧ t.dirtyCores 0 ≠ []) := by
  decide +kernel

/-- TimeTriggeredLaunches: an entry to arm, one-shot and periodic; a firing whose record fails, and busy entries of each rule. -/
theorem witness_TimeTriggeredLaunches :
    let s (x : TTEntry) : State := { calm with tt := [(3, x)], time13 := 65 }
    ([0, 20000].all (fun p : W64 => !((s { period := p }).ttEntry 3).en && (s { period := p }).out.ttTable) = true) ∧
    (let x : TTEntry := { en := true, next := 4, deferred := some fine, rule := 1 }
     ((s x).ttEntry 3).en = true ∧ (s x).mb.state = .ready ∧ x.late = none ∧ x.next ≤ (s x).time13 / 13 ∧
     (s x).headCheck (parseRecord (Memory.readN (s x).w0 (0x160000 + 3 * 0x200) 0x100)) = some (.badRecord, 1) ∧ x.cand = none ∧ x.lids = []) ∧
    (let t : State := { s { en := true, next := 1, lids := [0], rule := 2 } with w0 := (Memory.writeN [] (0x160000 + 3 * 0x200)
        ([1, 0, 0, 0, 0, 0, 0, 0] ++ [0, 0, 0, 0, 1, 0, 1, 0] ++ [1, 0, 0, 0, 0, 0, 0, 0] ++ [0, 0, 1, 0, 0, 0, 0, 0] ++ List.replicate 16 0
          ++ [0, 0, 0, 0, 1, 0, 0, 0])) }
     t.headCheck (parseRecord (Memory.readN t.w0 (0x160000 + 3 * 0x200) 0x100)) = none ∧ (t.launch 0).phase ≠ .saved ∧ (t.launch 0).fault = none ∧
     (t.launch 0).goAt = none ∧ ((t.modLaunch 0 (fun l => { l with fault := some (0, { cls := 1 }) })).launch 0).fault = some (0, { cls := 1 }) ∧
     (({ t with clk := 5 }.modLaunch 0 (fun l => { l with goAt := some 4 })).launch 0).goAt = some 4) := by
  decide +kernel

/-- HostAccess: an offset W2 reaches, a reserved slice, a code unit; power; a queue slot's register. -/
theorem witness_HostAccess :
    let s : State := { calm with w2Base := BitVec.ofNat 16 (2 ^ 12) }
    (s.mb.state = .ready ∧ s.paOk (s.w2Base.toNat * 2 ^ 36 + 0x200) = true ∧ 0x200 % 64 + 8 ≤ 64 ∧ Memory.wf s.mem = true ∧ paRegion (s.w2Base.toNat * 2 ^ 36) = 1 ∧
      s.isCode (s.w2Base.toNat * 2 ^ 36 + 0x200) = false) ∧
    (s.paOk (s.w2Base.toNat * 2 ^ 36 + 0x360000) = true ∧ 0x360000 ≤ (s.w2Base.toNat * 2 ^ 36 + 0x360000) % 2 ^ 22) ∧
    (State.reset.mb.state ≠ .ready ∧ calm.powered = true ∧ Memory.wf calm.w0 = true ∧ calm.cmd.preGo = false ∧ (0x100 : W64).getLsbD 8 = true) := by
  decide +kernel

/-- Debugger: no session, a session over a launch that runs, is halted or is frozen; a breakpoint; registers of every state. -/
theorem witness_Debugger :
    let s : State := { calm with cmd := { calm.cmd with dbgArmed := true, bps := [(0, 0x40000, true, true, 0)] } }
    let h := s.modLaunch 0 (fun l => { l with halted := some 0 })
    let f := s.modLaunch 0 (fun l => { l with frozen := true, fault := some (0, { cls := 1 }) })
    (calm.cmd.dbgArmed = false ∧ (s.launch? 0).isSome = true ∧ (s.launch 0).phase ≠ .saved ∧ (s.launch 0).halted = none) ∧
    ((h.launch 0).frozen = false ∧ (h.launch 0).halted.isSome = true ∧ (f.launch 0).frozen = true ∧ (f.launch 0).fault = some (0, { cls := 1 })) ∧
    (s.cmd.dbgLid.toNat = 0 ∧ s.cmd.bps = [(0, 0x40000, true, true, 0)] ∧ (s.cx.pc = 0x40000) ∧ (s.core home).role = .host 0 .compute 0 ∧ (s.launch 0).live = true ∧
      s.aboutToIssue home 1 = true ∧ s.aboutToIssue home 2 = false ∧ s.atBreakpoint home 1 = true) ∧
    (((h.column (colOf home)).twin 3).wclk ≠ some h.clk ∧ (h.regAt home 0 43).state = .full ∧
      ((h.modColumn (colOf home) (fun c => { c with tw := [(3, { cur := Reg.pending 1 })] })).regAt home 0 43).state = .pending ∧
      h.cmd.dbgMeta.extractLsb' 0 2 = 0 ∧ (f.launch 0).halted = none) ∧
    ((h.launch 0).hostOf .compute 0 = some home ∧ (h.launch 0).hostOf .compute 1 = none ∧ ((h.core home).ctx 1).reg 4 = {} ∧
      (((h.setRegAt home 1 7 (Reg.pending 1)).core home).ctx 1).reg 7 = Reg.pending 1) := by
  decide +kernel

/-- BootAndPower, ModuleTurnovers: power off, a command busy, an image length on both sides of 16 MiB, states READY, ROM_WAIT. The other
hypotheses of BootAndPower are those of LaunchRecords, LaunchLives, PreEmptions, TimeTriggeredLaunches, HostAccess, Debugger and RoleChanges. -/
theorem witness_BootAndPower :
    (({ calm with powered := false } : State).powered = false ∧ calm.powered = true ∧ ({ calm.mb with busy := true } : Mailbox).busy = true ∧
      calm.mb.busy = false ∧ calm.mb.state = .ready ∧ ¬(1 ≤ (0 : BitVec 8).toNat ∧ (0 : BitVec 8).toNat ≤ 3)) ∧
    (State.reset.mb.busy = false ∧ State.reset.powered = true ∧ State.reset.mb.state = .romWait) ∧
    ((0x1000000 : BitVec 32).toNat ≤ 0x1000000 ∧ ¬(0x1000001 : BitVec 32).toNat ≤ 0x1000000) := by
  decide +kernel

/-- ModuleTurnovers: a launch that runs and a saved one; a command that waits, its budget ended, with an image that holds and one
that does not. -/
theorem witness_ModuleTurnovers :
    let s : State := { calm with launches := calm.launches ++ [(5, { phase := .saved })] }
    let w (m : BitVec 256) : State := { calm with mb := { calm.mb with waiting := some .turnover, budgetEnd := 9, measure := m }, clk := 9 }
    (s.mb.busy = false ∧ s.powered = true ∧ s.mb.state = .ready ∧ (s.launches.map (fun e => e.1)).Pairwise (· < ·) ∧ s.launches ≠ [] ∧
      s.launches.map (fun e => (e.2.fault, e.2.cores.map (fun p => (s.core p).role))) = [(none, [.host 0 .compute 0]), (none, [])]) ∧
    ((w 0).mb.waiting = some .turnover ∧ (w 0).mb.budgetEnd ≤ (w 0).clk ∧ digest (w 0).mb.image ≠ (w 0).mb.measure) ∧
    digest (w (digest [])).mb.image = (w (digest [])).mb.measure := by
  refine ⟨?_, ?_, rfl⟩ <;> decide +kernel

/-- ClocksAndTime: a throttle that runs and one that has ended, temperatures of each range, corrections at 1 ms, a trip. -/
theorem witness_ClocksAndTime :
    let s : State := { calm with groups := [(3, { until_ := some 4096 })] }
    ((s.group 3).until_ = some 4096 ∧ s.clk < 4096 ∧ 4096 ≤ ({ s with clk := 4096 } : State).clk) ∧
    ((100 ≤ 100) ∧ (95 < 96 ∧ 96 < 100) ∧ (90 < 91 ∧ 91 < 95) ∧ (90 ≤ 90)) ∧
    ((1000000 : Int) < 1000001 ∧ (999999 : Int) < 1000000) ∧
    (let t := waiting (.untilClk 9); ((t.core home).ctx 1).park = some (.untilClk 9) ∧ t.clk < 9 ∧ groupOf home < 16) ∧
    ((calm.launch? 0).isSome = true ∧ (calm.launch 0).phase ≠ .saved ∧ (calm.launch 0).fault = none ∧ (calm.launch 0).frozen = false ∧
      hallOf home ∈ calm.launchHalls 0) ∧ calm.slew = 0 := by
  decide +kernel

/-- TrapsAndFaults: a FULL register before a PENDING and a POISONED one; a task that traps, with and without a shadow; a second
fault of the clk; a fault whose clk ends, with a session and without. -/
theorem witness_TrapsAndFaults :
    let p := calm.setRegAt home 1 5 (Reg.pending 1)
    let q := calm.setRegAt home 1 5 (Reg.poison 3)
    let f : FaultInfo := { cls := 5 }
    let s := calm.modLaunch 0 (fun l => { l with fault := some (0, f) })
    ((p.regAt home 1 4).state = .full ∧ (p.regAt home 1 5).state = .pending ∧ (q.regAt home 1 5).state = .poisoned ∧ p.inShadow 4 = false ∧
      p.inShadow 5 = false ∧ p.curStream? 4 = none ∧ p.curStream? 5 = none) ∧
    (let a : Args := { s1 := .reg 5, s2 := .reg 4, d := 6 }
     (srcMeet a.s1 ++ srcMeet a.s2 ++ [.dst a.d]) = [.src 5, .src 4, .dst 6]) ∧
    (((calm.core home).ctx 1).task = some { limit := 65536 } ∧ (calm.launch? 0).isSome = true ∧ (calm.launch 0).fault = none ∧ (calm.launch 0).frozen = false ∧
      (calm.core home).shadows.find? (fun h => h.ctx == 1) = none ∧
      (let h : Shadow := { ctx := 1, d := 6, val := {}, ready := 9, pc := 0, look := 1 }
       ((core0 (fun c => { c with shadows := [h] })).core home).shadows.find? (fun h => h.ctx == 1) = some h)) ∧
    ((core0 (fun c => { c with ctxs := [] })).tasked = [] ∧ (calm.launch 0).ended = []) ∧
    (s.launches = [(0, s.launch 0)] ∧ (s.launch 0).fault = some (0, f) ∧ 0 ≤ s.clk ∧ (s.launch 0).frozen = false ∧ s.cmd.dbgArmed = false) ∧
    (let t : State := { s with cmd := { s.cmd with dbgArmed := true, dbgFhalt := true } }
     t.cmd.dbgArmed = true ∧ t.cmd.dbgLid.toNat = 0 ∧ t.cmd.dbgFhalt = true) := by
  decide +kernel

/-- ATurnRunsTheDecodedInstruction: a core whose context 1 fetches `add`, and one that parks on it. -/
theorem witness_ATurnRunsTheDecodedInstruction :
    let s : State := { State.reset.placeInstr 16 0x1085 with schedule := [.issue 1 home] }
    let u := (({ s with schedule := [] } : State).pass 1).upTo 2
    let v : State := { u with cur := ⟨home, 1⟩ }
    s.schedule = .issue 1 home :: [] ∧ u.powered = true ∧ (u.core home).nextIssue ≤ u.clk ∧ (u.core home).issueOrder.find? (u.runnable home) = some 1 ∧
    v.cx.entry = none ∧ v.atBreakpoint home 1 = false ∧ gives (v.checkFetch home v.lid v.cx.pc.toNat) placedPa ∧
    u.atLimit home = [] ∧ (decode (v.fetchHalves placedPa (v.fetchKey placedPa))).toOption = some (.add { d := 4, s1 := .reg 4, s2 := .reg 5 }, 1) ∧
    (((after (.add { d := 4, s1 := .reg 4, s2 := .reg 5 }) (v.present 1)).core home).ctx 1).waits = false ∧
    (let w := v.setRegAt home 1 5 (Reg.pending 1)
     (((after (.add { d := 4, s1 := .reg 4, s2 := .reg 5 }) (w.present 1)).core home).ctx 1).waits = true) := by
  decide +kernel

/-- DecodeAndEncodeAgree: an instruction with a literal operand, and words that decode. -/
theorem witness_DecodeAndEncodeAgree :
    let i : Instr := .add { xr := true, d := 4, s1 := .reg 5, s2 := .lit 0x12345678 }
    i.slot.isSome = true ∧ i.wellFormed = true ∧ (decode [0x1085, 0]).toOption = some (.add { d := 4, s1 := .reg 4, s2 := .reg 5 }, 1) := by
  decide +kernel

/-- EveryStepKeepsMemoryCanonical: reset meets the invariant, and its step answers next. -/
theorem witness_EveryStepKeepsMemoryCanonical :
    State.reset.memOk ∧ (match step (State.reset.placeInstr 16 0x1085) with | .next _ => true | _ => false) = true := by
  refine ⟨by unfold State.memOk; decide +kernel, by decide +kernel⟩

/-- RegisterInstructionFrame: add answers a next state where it issues, where it parks and where it traps. -/
theorem witness_RegisterInstructionFrame :
    let i : Instr := .add { d := 4, s1 := .reg 4, s2 := .reg 5 }
    ∀ s ∈ [calm, calm.setRegAt home 1 5 (Reg.pending 1), calm.setRegAt home 1 5 (Reg.poison 3)],
      (match exec i s with | .next _ => true | _ => false) = true := by
  decide +kernel

/-- ControlTransfers: a brk whose clk lasts and one whose clk has ended. -/
theorem witness_ControlTransfers_brk :
    let s := calm.modLaunch 0 (fun l => { l with brkAt := some 3 })
    (s.launch? 0).map (fun l => (l.brkAt, l.halted)) = some (some 3, none) ∧ s.clk ≤ 3 ∧ 3 < ({ s with clk := 4 } : State).clk := by
  decide +kernel

/-- `near` and `far` with a cacheable page of DRAM at the address in g4. -/
def paged : State := (withReg calm 4 0x50008).modCc (fun c =>
  { c with l1Ways := 1, tlb := c.tlb ++ [{ lid := 0, vpn := 5, big := false, pa := placedPa + 0x10000, cached := true, w := true }] })

/-- Loads: elements of another core's SRAM, and a cacheable page: the line that hits, and a miss that finds room. -/
theorem witness_Loads_far :
    (far.cx.acquires = [] ∧ far.cc.holds = [] ∧ far.cc.l1Ways = 0 ∧ far.cc.l1 = [] ∧
      gives (farCap.operands2 .x (.reg 4) (.reg 5) [.dst 6]) (a4 farCap, a5 farCap, farCap) ∧
      (pieces (farCap.checkElems (a4 farCap) true false (elemOffsets (a4 farCap).v true (span 0 4)))).map (fun p => (p.2.own, p.2.device)) = [(false, false)]) ∧
    (paged.cx.acquires = [] ∧ paged.cc.holds = [] ∧ paged.cc.ticketsFull = false ∧ paged.curStream? 6 = none ∧
      gives (paged.operand1 .x (.reg 4) [.dst 6]) (a4 paged, paged) ∧
      (pieces (paged.checkAccess (a4 paged) (capCursor (a4 paged).v) 8 true false)).map (fun p => (p.2.own, p.2.device, p.2.cached, p.2.pa)) =
        [(false, false, true, placedPa + 0x10008)]) ∧
    (let la := (placedPa + 0x10008) / 128
     paged.cc.line? la = none ∧ paged.cc.misses = [] ∧ (paged.cc.setLines la).length < paged.cc.l1Ways ∧
     (let l : Line := { la := la, valid := BitVec.allOnes 256 }
      (paged.modCc (fun c => { c with l1 := [l] })).cc.line? la = some l ∧ l.doomed = false ∧ l.covers ((placedPa + 0x10008) % 128) 8 = true)) := by
  decide +kernel

/-- Stores: a compare-and-swap's operands; a store with lookahead, a store to a damaged sector, and stores that leave the core. -/
theorem witness_Stores_far :
    gives ((withReg calm 4 (dataCap 0x40000 + 63) true).meet (srcMeet (.reg 4) ++ srcMeet (.reg 5) ++ [.src 6] ++ [.dst 6])) () ∧
    (({ ops with look := 2 } : Args).look ≠ 0 ∧ near.cc.shadows = [] ∧
      (let t : State := { near with out := { near.out with softErrors := [sramPa home 0x9000 / 64] } }
       t.damaged (sramPa home 0x9000) = true ∧ near.damaged (sramPa home 0x9000) = false ∧ t.cx.acquires = [] ∧
       (pieces (t.checkAccess (a4 t) (capCursor (a4 t).v) 8 false true)).map (fun p => (p.2.own, p.2.pa)) = [(true, sramPa home 0x9000)])) ∧
    (let v := dataCap (tileVa 1 0x9000)
     let s := withReg farCap 6 v true
     gives (s.meet ([.src 6] ++ srcMeet (.reg 4) ++ srcMeet (.reg 5))) () ∧ s.fenceHolds = none ∧ s.cc.holds = [] ∧ (s.takeCode 6).1 = ⟨v, true⟩ ∧
     (pieces (s.checkLanes .n32 ⟨v, true⟩ 0 false true)).map (fun p => (p.2.own, p.2.device)) = List.replicate 4 (false, false) ∧
     (pieces (s.checkElems ⟨v, true⟩ false true (elemOffsets v false (span 0 4)))).length = 1 ∧
     (pieces (s.resolve true (layRuns (capBase v) (elemWrites v [(0, 1), (1, 2), (2, 3), (3, 4)])).1)).map (fun p => (p.2.own, p.2.device)) = [(false, false)]) := by
  decide +kernel

/-- CachedLines: pref of a cacheable line that is not in the L1, with room. -/
theorem witness_CachedLines_fetch :
    gives (paged.operand1 .x (.reg 4) []) (a4 paged, paged) ∧ (a4 paged).tag = false ∧
    (match paged.xlateCur (capCursor (a4 paged).v) false with
      | .ok g => g.cached && (paged.cc.line? (g.pa / 128)).isNone && decide ((paged.cc.setLines (g.pa / 128)).length < paged.cc.l1Ways)
      | _ => false) = true ∧ paged.cc.misses = [] := by
  decide +kernel

/-- AtomicOperations, FencesAndBarriers, EventsWatchesFutures, TaskLimitsAndEnds, TasksAndCounters: no damaged sector and a free slot. -/
theorem witness_AtomicOperations_sound :
    near.damaged (sramPa home 0x9000) = false ∧ calm.slotTaken .hi = false ∧ calm.slotTaken .req = false ∧
    (calm.modCx (fun x => { x with task := some { link := some (0, 3) } })).slotTaken .req = false := by
  decide +kernel

/-- TaskAdmission: a record in the FIFO, no fault in the clk, and the FIFO passed over 8 times. -/
theorem witness_TaskAdmission_fifo :
    let s := core0 (fun c => { c with fifo := [{ hdr := 7 }] })
    (s.admits home = some (0, 0) ∧ (s.core home).nextAdmit ≤ s.clk ∧ s.faultsNow home = false ∧ (s.core home).highQ = [] ∧ (s.core home).freeLow s.clk = some 2 ∧
      (s.core home).nextSource = some .fifo ∧ (s.core home).fifo = [{ hdr := 7 }]) ∧
    (let c := { s.core home with passed := [0, 8, 8], deque := [{}] }; c.fifo ≠ [] ∧ 8 ≤ c.passed.getD 1 0 ∧ c.lowQ = []) ∧
    (let c := { s.core home with passed := [8], lowQ := [{}] }; c.lowQ ≠ [] ∧ 8 ≤ c.passed.getD 0 0) := by
  decide +kernel

/-- TaskSharing: a victim with a record to give, a thief with a free context, and a hall with 16 tasks a tile beside one with none. -/
theorem witness_TaskSharing_moves :
    let r : TaskRec := { arg0 := ⟨5, false⟩ }
    (let s := (arrived (.stealReq 5)).modCore home (fun c => { c with deque := [r, {}] })
     (s.landed 0).map (fun p => p.body) = some (.stealReq 5) ∧ (s.core home).deque = [] ++ r :: [{}] ∧ r.pinned = false ∧ s.admits home ≠ none ∧
     s.popsNow home r = false ∧ (s.core home).l1 = [] ∧ (s.core home).outs = [] ∧
     ∃ l ∈ ((s.modCore home (fun c => { c with l1 := [{ la := 1, dirty := 1 }] })).core home).l1, l.dirty ≠ 0) ∧
    (let s := arrived (.stealAns (some r))
     (s.landed 0).map (fun p => p.body) = some (.stealAns (some r)) ∧ s.admits home = some (0, 0) ∧ (s.core home).freeLow s.clk = some 2 ∧
     (s.core home).nextAdmit ≤ s.clk ∧ (s.core home).hiFirst s.clk = false ∧ (s.core home).nextSource = none ∧ (s.core home).spill = []) ∧
    (let s := arrived (.stealReq 5 (some r))
     (s.landed 0).map (fun p => p.body) = some (.stealReq 5 (some r)) ∧ s.drainDirty home = none) ∧
    (let q := placeOf 24 0 0
     let s : State := (({ calm with clk := 4096 } : State).modLaunch 0 (fun l => { l with compute := [home, q] })).setCore q { role := .host 0 .compute 1 }
     let t := s.modCore home (fun c => { c with deque := List.replicate 15 { hdr := 0x100000000 } ++ [r] })
     let g := hallOf q
     16 * (t.hallTiles 0 (hallOf home)).length ≤ t.qd 0 (hallOf home) ∧ t.donee 0 (hallOf home) = some g ∧ (t.hallTiles 0 (hallOf home)) = [home] ∧
     t.hallTiles 0 g = [q] ∧ (t.core home).unpinned = 1 ∧ (t.core home).deque.find? (fun k => !k.pinned) = some r ∧ t.drainDirty home = none ∧ [home, q].Nodup ∧ (t.core q).deque.length < 32) := by
  decide +kernel

/-- Routing: a waypoint that its target hosts, and one that the target has left under an open stub. -/
theorem witness_Routing_waypoint :
    let q : Packet := { pos := rv, dest := rv, final := rv, stat := true, wps := [rv], wpTargets := [(.routing, 0)] }
    let s := routed [q]
    (s.net[0]? = some q ∧ q.ready ≤ s.clk ∧ q.plain = true ∧ q.dta = false ∧ q.pos = q.dest ∧ q.step < q.wps.length ∧ s.atWaypoint q = true) ∧
    (let p : Packet := { q with wpTargets := [(.pool, 0)] }
     let t : State := { (routed [p]).modLaunch 0 (fun l => { l with pool := [home] }) with
       stubs := [{ lid := 0, kind := .pool, idx := 0, old := rv, new := some home, closes := 16384 }] }
     t.net[0]? = some p ∧ t.wayMoved p = true ∧ p.wpTargets[p.step]? = some (.pool, 0) ∧ t.stubOpen 0 .pool 0 p.pos = true ∧
     (t.launch 0).hostOf .pool 0 = some home) := by
  decide +kernel

set_option maxRecDepth 20000 in
/-- MatrixQueue: an mbld from the core's own SRAM, and a holder that runs no give. -/
theorem witness_MatrixQueue_mbld :
    let m : MCmd := { op := .mbld 0 bmat 0 1 }
    let s := core0 (fun c => { c with mqueue := [m] })
    (s.core home).mqueue = [m] ∧ m.finish = none ∧ m.earliest ≤ s.clk ∧ capTy bmat = .bf16 ∧ capBlog2 bmat = 0 ∧
    targetsOf (s.hartTargets home (s.core home).engineTile.1 walkMatrix false (matPieces bmat (64 * matK (capTy bmat)))) ≠ [] ∧
    (s.core (layerCore (colOf home) 1)).gives s.clk = false ∧ (∀ e ∈ s.cc.mqueue, e.unfetched = true → e.join ≠ none) := by
  decide +kernel

/-- OffersAndSeals: no block is free, and a cached tile is the one least used, or none is left. -/
theorem witness_OffersAndSeals_full :
    let d (n : Nat) (e : Nat) : Cached := { lid := 0, name := BitVec.ofNat 64 (100 + n), expiry := e, block := 8 + n, len := 1, used := n }
    let s (e : Nat) := routed [offered rv rv 1024] (fun c => { c with cache := (List.range 16).map (fun n => d n e) })
    ((s 500).freeBlock rv = none ∧ d 0 500 ∈ ((s 500).core rv).cache ∧ (s 500).clk < 500 ∧ ∀ e ∈ ((s 500).core rv).cache, e ≠ d 0 500 → (d 0 500).used < e.used) ∧
    (let t := routed [offered rv rv 1024] (fun c => { c with dir := (List.range 16).map (fun n =>
        { lid := 0, name := BitVec.ofNat 64 (100 + n), held := true, expiry := 500, block := 8 + n, len := 1 }) })
     t.freeBlock rv = none ∧ (t.core rv).cache = [] ∧ (t.core rv).dirOf 0 7 = none) := by
  decide +kernel

/-- SendingMessages: a release with a signature that is not empty; a slot that is taken; RequestsTrapsIdle: a free one and a taken one. -/
theorem witness_SendingMessages_release :
    let s := core0 (fun c => { c with acc := 5 })
    (s.cc.acc ≠ 0 ∧ (match s.release .launch with | .ok _ => true | _ => false) = true ∧ gives (s.header (.reg 4) (.reg 8) 1) ({}, [{}]) ∧ s.fenceHolds = none ∧
      s.cc.holds = [] ∧ s.slotTaken .req = false) ∧
    (calm.slotTaken .hi = false ∧ (core0 (fun c => { c with slots := [(vnIndex .hi, 9)] })).slotTaken .hi = true) := by
  decide +kernel

/-- ContextImageContents: the mask check of ctxsv's operand, and a c that is POISONED. -/
theorem witness_ContextImageContents_c :
    let c := sramCap 0x9000 16 15 0
    let s := withReg calm 4 c true
    gives (s.meetMask (srcMeet (.reg 4))) () ∧ (s.takeSrc .b (.reg 4)).1 = ⟨c, true⟩ ∧
    (let p := calm.setRegAt home 1 4 (Reg.poison 3)
     p.inShadow 4 = false ∧ p.curStream? 4 = none ∧ (p.regAt p.cur.core p.cur.ctx 4).state = .poisoned ∧ gives (p.meetMask (srcMeet (.reg 4))) ()) := by
  decide +kernel

/-- CensusRules: an epoch ends in a frozen launch. -/
theorem witness_CensusRules_frozen :
    let s := ({ calm with clk := 65536 } : State).modLaunch 0 (fun l => { l with frozen := true, fault := some (0, { cls := 5 }) })
    (s.launch? 0).isSome = true ∧ getAt 0 (hallOf home) (s.launch 0).epochs < (s.clk - (s.launch 0).startClk) / 65536 ∧ (s.launch 0).frozen = true ∧
    (s.launch 0).phase = .running ∧ s.leaseWaits (hallOf home) = false ∧ (s.hall (hallOf home)).hotSince = none := by
  decide +kernel

/-- RoleChanges: a compute tile that is done, a routing tile given and one taken, each in its phase; a stub that has closed. -/
theorem witness_RoleChanges_moves :
    let at_ (r : Recast) : State := ({ calm with recasts := [r], clk := 100 } : State).modLaunch 0 (fun l => { l with compute := [rv] })
    (let s := (at_ (recast .compute .drain)).setCore rv { role := .host 0 .compute 0, lowQ := [{}] }
     s.recasts[0]? = some (recast .compute .drain) ∧ s.busyCore rv = false ∧ (s.core rv).l1 = [] ∧ Memory.wf s.mem = true) ∧
    (let g (ph : RPhase) (old new : Option (Kind × Nat)) : Recast :=
       { dec := { lid := 0, old := old, new := new, src := rv, dst := rv, cause := 1 }, hall := hallOf rv, t0 := 0, phase := ph, due := 50 }
     let give (ph : RPhase) := g ph none (some (.routing, 0))
     let take (ph : RPhase) := g ph (some (.routing, 0)) none
     let s (r : Recast) (x : Option Nat) : State := ({ calm with recasts := [r], clk := 100 } : State).modLaunch 0 (fun l => { l with routing := [x] })
     ((s (give .drain) none).recasts[0]? = some (give .drain) ∧ (give .drain).pair = false ∧ (give .drain).dec.src = (give .drain).dec.dst ∧
      (s (give .drain) none).net = [] ∧ Memory.wf (s (give .drain) none).mem = true) ∧
     ((s (give .moved) none).launch? 0).isSome = true ∧ ((s (give .moved) none).launch 0).hostOf .routing 0 = none ∧
       0 < ((s (give .moved) none).launch 0).routing.length ∧
     (let t := (s (take .moved) (some rv)).setCore rv { role := .host 0 .routing 0 }
      t.recasts[0]? = some (take .moved) ∧ (t.launch 0).hostOf .routing 0 = some rv ∧ (t.core rv).role = .host 0 .routing 0)) ∧
    (let q : Packet := { kind := 2, dest := home, final := home, pos := home, target := some (.pool, 0) }
     let s : State := ({ calm with net := [q] } : State).modLaunch 0 (fun l => { l with pool := [rv] })
     s.landed 0 = some q ∧ (s.launch 0).hostOf .pool 0 = some rv ∧ s.itemFirst q = false ∧ s.stubOpen 0 .pool 0 q.dest = false) := by
  decide +kernel

/-- LaunchRecords: a resume record that names a saved launch of its region, and one that names none. -/
theorem witness_LaunchRecords_resume :
    let r : LRec := { fine with resume := true, rlid := 5 }
    let s : State := { calm with launches := [(5, { record := fine, phase := .saved })] }
    r.resume = true ∧ r.clean = true ∧ s.headCheck r = none ∧ calm.headCheck r = some (.badRecord, 4) ∧ s.mb.grade = 0x0A := by
  decide +kernel

/-- HostAccess: a store that waits in its column's table; ClocksAndTime: a group that runs at half clock. -/
theorem witness_HostAccess_table :
    let s : State := { calm with w2Base := BitVec.ofNat 16 (2 ^ 12) }
    let pa := s.w2Base.toNat * 2 ^ 36 + 0x200
    let r : Req := { op := .store, core := home, ctx := 1, lid := 0, pa := pa, len := 8, data := [1, 2, 3, 4, 5, 6, 7, 8] }
    let t := s.modColumn (paCol pa) (fun c => { c with table := [{ stair := true, req := r }] })
    (paRegion pa = 1 ∧ (t.column (paCol pa)).table.map (fun x => x.req) = [r] ∧ t.isCode pa = false ∧ t.damaged pa = false ∧ t.mb.state = .ready ∧ t.paOk pa = true ∧
      pa % 2 ^ 22 < 0x360000 ∧ 0x200 % 64 + 8 ≤ 64 ∧ Memory.wf t.mem = true) ∧
    (({ calm with groups := [(3, { until_ := some 4096 })] } : State).halved 3 = true ∧ (calm.launches.map (fun e => e.1)).Nodup) := by
  decide +kernel

/-- NamedOutcomes: the waiter's core holds no sends; TrapsAndFaults: shadowed instructions in the window of the oldest. -/
theorem witness_NamedOutcomes_holds :
    calm.cc.holds = [] ∧
    (let h (n : Nat) : Shadow := { ctx := 1, d := 6, val := {}, ready := 9, pc := 0, look := 2, since := n }
     let c := (core0 (fun c => { c with shadows := [h 1, h 0] })).core home
     c.shadows.find? (fun x => x.ctx == 1) = some (h 1) ∧ h 0 ∈ c.shadows ∧ (h 0).same (h 1) = false) := by
  decide +kernel

set_option maxRecDepth 100000 in
/-- Translation: a unit whose first halfword the first pass refuses, before and after the clk in which the scan comes to it. -/
theorem witness_Translation_scan :
    let s : State := { calm with mem := Memory.writeN [] placedPa [0, 0xE9] }
    (match firstPass (s.unitBytes (unitOf placedPa) 0) with | .error (b, o) => (b, o) | _ => (16, 0)) = (0, 0) ∧
    (match scanUnit (s.unitBytes (unitOf placedPa) 0) with | .error (b, o) => (b, o) | _ => (16, 0)) = (0, 0) := by
  decide +kernel

/-- FencesAndBarriers: nothing of the context that an acquire waits for, a shadowed store in flight apart; a release. -/
theorem witness_FencesAndBarriers_quiet :
    let s := core0 (fun c => { c with shadows := [{ ctx := 1, d := 62, val := {}, store := some (0x9000, [1], none), ready := 9, pc := 0, look := 1 }] })
    (s.cx.acquires = [] ∧ (s.cc.shadows.all (fun h => h.ctx != 1 || h.reads == [])) = true ∧
      s.cc.outs.all (fun o => !(o.ctx == s.cur.ctx && o.load && decide (o.id < s.cc.nextId))) = true) ∧
    gives (calm.release .launch) calm ∧ calm.cc.shadows = [] ∧ (calm.cc.l1.map (fun l => l.la)).Nodup := by
  decide +kernel

/-- A state whose releases publish a signature. -/
def marked (s : State) : State := s.modCc (fun c => { c with acc := 5 })

/-- Stores: st.rel and stf.rel to another core's SRAM, with and without a signature to publish. -/
theorem witness_Stores_release :
    let f := marked far
    let v := dataCap (tileVa 1 0x9000)
    let s := marked (withReg farCap 6 v true)
    (∀ t ∈ [far, f, s], gives (t.beforeStore true .launch) (t, if t.cc.acc = 0 then none else some t.cc.acc) ∧ t.cx.acquires = [] ∧ t.cc.holds = [] ∧
      t.cc.l1Ways = 0 ∧ t.cc.l1 = []) ∧ f.cc.acc ≠ 0 ∧ far.cc.acc = 0 ∧
    (gives (f.operands2 .x (.reg 4) (.reg 5) []) (a4 f, a5 f, f) ∧
      (pieces (f.checkAccess (a4 f) (capCursor (a4 f).v) 8 false true)).map (fun p => (p.2.own, p.2.device, paRegion p.2.pa)) = [(false, false, 0)]) ∧
    (gives (s.meet ([.src 6] ++ srcMeet (.reg 4) ++ srcMeet (.reg 5))) () ∧ (s.takeCode 6).1 = ⟨v, true⟩ ∧
      (pieces (s.checkElems ⟨v, true⟩ false true (elemOffsets v false (span 0 4)))).length = 1 ∧
      (pieces (s.resolve true (layRuns (capBase v) (elemWrites v [(0, 1), (1, 2), (2, 3), (3, 4)])).1)).map (fun p => (p.2.own, p.2.device, paRegion p.2.pa)) =
        [(false, false, 0)]) := by
  decide +kernel

/-- Stores: a plain st to a cacheable page that hits, in a line with a fill pending, and one that misses with room in its set. -/
theorem witness_Stores_cached :
    let s := withReg paged 5 0x1122334455667788
    let la := (placedPa + 0x10008) / 128
    let l : Line := { la := la, valid := 3, fill := true }
    (s.cx.acquires = [] ∧ s.cc.holds = [] ∧ s.fenceHolds = none ∧ 0 < s.cc.l1Ways ∧ gives (s.operands2 .x (.reg 4) (.reg 5) []) (a4 s, a5 s, s)) ∧
    ((pieces (s.checkAccess (a4 s) (capCursor (a4 s).v) 8 false true)).map (fun p => (p.2.own, p.2.device, p.2.cached, p.2.pa, p.1.off, p.1.len)) =
      [(false, false, true, placedPa + 0x10008, 0, 8)] ∧ (placedPa + 0x10008) % 128 + 8 ≤ 128) ∧
    (s.cc.line? la = none ∧ (s.cc.setLines la).length < s.cc.l1Ways ∧ (s.modCc (fun c => { c with l1 := [l] })).cc.line? la = some l) := by
  decide +kernel

/-- AtomicOperations: an atomic on another core's SRAM, with a compare, and one whose sector is dirty in the L1. -/
theorem witness_AtomicOperations_far :
    let s := withReg far 6 7
    let pa := sramPa (placeOf 9 0 0) 0x9000
    let l : Line := { la := pa / 128, valid := BitVec.allOnes 256, dirty := BitVec.allOnes 256 }
    let t := s.modCc (fun c => { c with l1 := [l] })
    (∀ u ∈ [s, t], gives (u.meet (srcMeet (.reg 4) ++ srcMeet (.reg 5) ++ [.src 6] ++ [.dst 6])) () ∧
      (pieces (u.checkAccess (a4 u) (capCursor (a4 u).v) 8 true true)).map (fun p => (p.2.own, p.2.device, p.2.pa)) = [(false, false, pa)] ∧
      gives (u.beforeStore false .launch) (u, none) ∧ u.cx.acquires = [] ∧ u.cc.holds = [] ∧ u.cc.ticketsFull = false ∧ (u.cc.l1.map (fun l => l.la)).Nodup ∧
      u.curStream? 6 = none) ∧
    capCursor (a4 s).v % 8 = 0 ∧ paRegion pa = 0 ∧
    (t.cc.line? (pa / 128) = some l ∧ l.valid.extractLsb' (128 * (pa / 64 % 2)) 128 ≠ 0 ∧ l.dirty.extractLsb' (128 * (pa / 64 % 2)) 128 ≠ 0) := by
  decide +kernel

/-- CachedLines: a saturating union, homes with and without an entry, an L1 with a marked line, the arrival that releases a region barrier,
and an answer to it. -/
theorem witness_CachedLines_signatures :
    (256 < countOnes 1024 ((BitVec.allOnes 1024) ||| (0 : Sig)).toNat) ∧
    (let l : List HomeSig := [{ lid := 3, sig := 5 }]
     l.find? (fun e => e.lid == 3) = some { lid := 3, sig := 5 } ∧ l.find? (fun e => e.lid == 4) = none ∧ (l.map (fun e => e.lid)).Nodup ∧
     (l.filter (fun e => e.lid != 4 && !e.gone)).length < 4) ∧
    ((cached.cc.l1.map (fun l => l.la)).Nodup ∧ sigMarks (sigEnter 0 0x4000) 0x4000 = true ∧ sigMarks (sigEnter 0 0x4000) 0x4001 = false) ∧
    (let arr : Body := .barArr 0 3 2 7 0
     let s := arrived arr
     taken s = some arr ∧ ((s.core home).barrier 3).exp = 0 ∧ 0 < (s.launch 0).c ∧ (s.launch 0).c ≤ ((s.core home).barrier 3).arr.toNat + 2 ∧
     ((s.core home).barrier 3).arr.toNat + 2 < 2 * (s.launch 0).c) ∧
    (let w : BWaiter := { lid := 0, home := 0, bar := 3, target := 1, core := home, ctx := 1 }
     let s := arrived (.barAns w 1 7 0 true false)
     (s.landed 0).map (fun p => (p.body, p.port)) = some (.barAns w 1 7 0 true false, .core) ∧ (s.core home).hasCleared 0 3 1 = false) := by
  decide +kernel

/-- BarrierCombining: an arrival beside one that is held, a first one; wait requests, alone and beside an equal one; a period that sends. -/
theorem witness_BarrierCombining_held :
    let h := hallOf home
    let c : Combined := ⟨0, 0, 3, [7], 5⟩
    let s := (arrived (.barArr 0 3 1 7 0) (.hall h)).modHall h (fun k => { k with combined := [c] })
    let same (c : Combined) : Bool := c.lid == 0 && c.home == 0 && c.bar == 3
    let w : BWaiter := { lid := 0, home := 0, bar := 3, target := 1, core := home, ctx := 1 }
    let t := arrived (.barWait w) (.hall h)
    ((s.hall h).combined.find? same = some c ∧ ((arrived (.barArr 0 3 1 7 0) (.hall h)).hall h).combined = []) ∧
    ((t.landedAtHall 0).map (fun r => (r.1, r.2.1.body)) = some (h, .barWait w) ∧ (t.hall h).waits.any w.same = false ∧
      ((t.modHall h (fun k => { k with waits := [w] })).hall h).waits.any w.same = true) ∧
    ((s.launch? 0).map (fun l => decide (getAt 0 h l.combines < (s.clk - l.startClk) / 64)) = some true ∧ (s.launch 0).hostOf .compute 0 = some home ∧
      ((s.hall h).combined.filter (fun c => c.lid == 0)) = [c]) ∧
    (((arrived (.bcfg 0 3 true) (.hall h)).dropPacket 0).launch? 0).isSome = true := by
  decide +kernel

/-- ResultsArrive: a fence whose last store is acknowledged. -/
theorem witness_ResultsArrive_fence :
    let t := (awaited { op := .store, id := 4 }).modCore home (fun c => { c with
      outs := [{ id := 4, ctx := 1, hall := none }], ctxs := c.ctxs.map (fun x => (x.1, if x.1 = 1 then { x.2 with relWait := [(.launch, 5)] } else x.2)) })
    (t.landed 0).map (fun p => p.dest) = some home ∧ ((t.core home).ctx 1).relWait = [(.launch, 5)] ∧
    (∀ y < 5, y ≠ 1 → ((t.core home).ctx y).relWait = []) ∧ ((t.core home).l1.map (fun l => l.la)).Nodup ∧
    ({ t.core home with outs := (t.core home).outs.filter (fun o => o.id != 4) } : Core).waiting 1 (hallOf home) .launch 5 = false := by
  decide +kernel

/-- AccessesAtHomes: a free gallery port; Translation: a unit whose column holds no access. -/
theorem witness_AccessesAtHomes_port :
    getAt 0 (calm.edgePlace 3) calm.ports ≤ (calm.clk + 325) * calm.galleryRate (calm.edgePlace 3) ∧
    (let s := (waiting (.scan (unitOf placedPa))).modLaunch 0 (fun l => { l with scans := [] })
     let ahead := s.settleAhead (unitOf placedPa * 65536) 65536
     (ahead.launch? 0).isSome = true ∧ (ahead.launch 0).scans.length < 1024 ∧ paRegion (unitOf placedPa * 65536) = 1 ∧
     (s.column (paCol (unitOf placedPa * 65536))).table = []) := by
  decide +kernel

/-- A message on its way, in the field of `calm` with a dead rectangle. -/
def beside (r : Rect) (q : Packet) : State := { calm with net := [q], mb := { calm.mb with rects := [r] } }

/-- Routing: hops into a dead rectangle: in x with the destination south, north, and north of one that touches the north edge; in y beside
one that touches the east edge and one that does not; and the steps of a detour, off its line and on it. -/
theorem witness_Routing_detours :
    let p (pos dest : Nat) : Packet := { pos := pos, dest := dest, final := dest }
    (∀ e ∈ ([((0, 9, 1, 10, 6), 8, 5, 14, 2), ((0, 9, 1, 10, 6), 8, 5, 14, 9), ((0, 9, 500, 10, 511), 8, 505, 14, 509), ((0, 7, 8, 9, 9), 8, 7, 8, 12),
        ((0, 7, 8, 511, 9), 8, 7, 8, 12)] : List (Rect × Nat × Nat × Nat × Nat)),
      let q := p (placeOf e.2.1 e.2.2.1 0) (placeOf e.2.2.2.1 e.2.2.2.2 0)
      let s := beside e.1 q
      s.net[0]? = some q ∧ q.ready ≤ s.clk ∧ q.plain = true ∧ q.waits = false ∧ q.pos ≠ q.dest ∧ s.mayHop q = true ∧ q.dta = false ∧
      placeZ q.pos = placeZ q.dest ∧ s.rectOf (stepFrom q.pos (routeDir q.pos q.dest)) = some e.1) ∧
    (∀ y ∈ [5, 7], let q : Packet := { p (placeOf 8 y 0) (placeOf 14 9 0) with dta := true, vc1 := true, side := 0, line := 7, dtd := 0, dte := 11 }
      let s := beside (0, 9, 1, 10, 6) q
      s.net[0]? = some q ∧ q.plain = true ∧ s.mayHop q = true ∧ q.side < 4 ∧ q.dtd < 4 ∧ q.side ≠ dtdCode q.dtd ∧
      (if y = 5 then coordOn q.pos q.side ≠ q.line ∧ s.rectOf (stepFrom q.pos q.side) = none
       else coordOn q.pos q.side = q.line ∧ s.rectOf (stepFrom q.pos (dtdCode q.dtd)) = none)) ∧
    (let q : Packet := { p home home with waits := true }; (beside (0, 20, 20, 20, 20) q).mayHop q = true) := by
  decide +kernel

/-- Each core of hall 0 a pool slot. -/
@[irreducible] def hotCores : List (Nat × Core) := (List.range 512).map (fun n => (hallCore 0 n, { role := .host 0 .pool n }))

/-- A launch whose pool slots are all the cores of hall 0, its region one column of a cool hall; hall 0 has been hot for two epochs. -/
@[irreducible] def hot : State :=
  let r : LRec := { ver := 1, w := 1, h := 1, fx := 16, ncomp := 0, tlim := 1 }
  { calm with
    clk := 131072
    launches := [(0, { record := r, phase := .running, pool := (List.range 512).map (hallCore 0) })]
    cores := hotCores
    halls := [(0, ({ temp := 101, hotSince := some 0 } : Hall))] }

/-- A lookup in a list whose keys differ. -/
theorem getAt_map {α : Type} (key : Nat → Nat) (f : Nat → α) (d : α) (l : List Nat) (n : Nat) (hn : n ∈ l)
    (inj : ∀ a ∈ l, key a = key n → a = n) : getAt d (key n) (l.map (fun a => (key a, f a))) = f n := by
  induction l with
  | nil => cases hn
  | cons b r ih =>
    simp only [List.map_cons, getAt]
    split
    · next h => rw [inj b (List.mem_cons_self ..) h]
    · next h =>
      rcases List.mem_cons.1 hn with rfl | hr
      · exact absurd rfl h
      · exact ih hr (fun a ha => inj a (List.mem_cons_of_mem _ ha))

/-- Every core of hall 0 is a pool slot there. -/
theorem hot_target (n : Nat) (h : n < 512) : hot.targetOn 0 (hallCore 0 n) = some (.pool, n) := by
  have hc : hot.cores = hotCores := by unfold hot; dsimp only
  have hm := getAt_map (hallCore 0) (fun n => ({ role := .host 0 .pool n } : Core)) {} (List.range 512) n (List.mem_range.2 h) (by
    intro a ha e
    have := List.mem_range.1 ha
    simp only [hallCore, placeOf] at e
    have h1 : a % 16 = n % 16 := by omega
    have h2 : a / 256 % 2 = n / 256 % 2 := by omega
    omega)
  have hk : getAt {} (hallCore 0 n) hotCores = { role := .host 0 .pool n } := by unfold hotCores; exact hm
  have : hot.core (hallCore 0 n) = { role := .host 0 .pool n } := by unfold State.core; rw [hc]; exact hk
  simp [State.targetOn, this]

/-- CensusRules: whichever core of a hot hall the free value picks, one move is decided, which no lease holds. -/
theorem witness_CensusRules_thermal :
    ((hot.launch? 0).isSome = true ∧ getAt 0 0 (hot.launch 0).epochs < (hot.clk - (hot.launch 0).startClk) / 65536 ∧ (hot.launch 0).fault = none ∧
      (hot.launch 0).phase = .running ∧ hot.leaseWaits 0 = false ∧ (hot.hall 0).hotSince = some 0 ∧ 2 ≤ (hot.clk - (hot.launch 0).startClk) / 65536) ∧
    ∃ d, hot.moveAway 0 (hallCore 0 hot.draw.1.toNat) = [d] ∧ hot.leaseHolds 0 (hallCore 0 hot.draw.1.toNat) = false ∧
      hot.eligible 0 (hallCore 0 hot.draw.1.toNat) = true := by
  refine ⟨by decide +kernel, ?_⟩
  generalize hot.draw.1.toNat = v
  have e : hallCore 0 v = hallCore 0 (v % 512) := by simp only [hallCore]; congr 1 <;> omega
  have t : twinOf (hallCore 0 v) = hallCore 0 ((v + 256) % 512) := by
    unfold twinOf
    by_cases h : hallCore 0 v % 2 = 0
    · rw [if_pos h]; simp only [hallCore, placeOf] at h ⊢; clear e; omega
    · rw [if_neg h]; simp only [hallCore, placeOf] at h ⊢; clear e; omega
  have ht : hot.targetOn 0 (hallCore 0 v) = some (.pool, v % 512) := (congrArg (hot.targetOn 0) e).trans (hot_target _ (by omega))
  have hw : hot.targetOn 0 (twinOf (hallCore 0 v)) = some (.pool, (v + 256) % 512) := (congrArg (hot.targetOn 0) t).trans (hot_target _ (by omega))
  have hc : (hot.idleCores 0).filter (fun q => (hot.hall (hallOf q)).temp < 85) = [17408, 17409] := by decide +kernel
  have hh (g : Nat) : (hot.hall g).leases = [] := by
    unfold hot
    show (getAt ({} : Hall) g [(0, ({ temp := 101, hotSince := some 0 } : Hall))]).leases = []
    simp only [getAt]
    split <;> rfl
  have hr : hot.recasts = [] := by unfold hot; rfl
  have hl (k : Kind) (i : Nat) : hot.leaseOf 0 k i = none := by
    unfold State.leaseOf
    split
    · rfl
    · rw [hh]; rfl
  simp only [State.moveAway, State.leaseHolds, State.eligible, State.leasedCore, State.twinBlocks, State.recasting, ht, hw, hc, hl, hr, nearest]
  simp only [List.foldl]
  split
  · exact ⟨_, rfl, rfl, rfl⟩
  · next h => revert h; split <;> simp

/-- RoleChanges: both twins of a column move together, drained and moved; a pool that grows by an idle core and by a routing tile. -/
theorem witness_RoleChanges_pairs :
    let c (z : Nat) (ph : RPhase) : Recast :=
      { dec := { lid := 0, old := some (.compute, z), new := some (.compute, z), src := placeOf 8 0 z, dst := placeOf 10 0 z, cause := 3 }
        hall := hallOf home, t0 := 0, phase := ph, pair := true }
    let s (ph : RPhase) : State :=
      let t : State := { calm with recasts := [c 0 ph, c 1 ph] }
      (t.modLaunch 0 (fun l => { l with compute := [placeOf 8 0 0, placeOf 8 0 1] })).setCore home { role := .host 0 .compute 0 }
    ((s .drain).recasts = [c 0 .drain, c 1 .drain] ∧ placeZ (c 0 .drain).dec.src = 0 ∧ (c 1 .drain).dec.src = twinOf (c 0 .drain).dec.src ∧
      (c 1 .drain).dec.dst = twinOf (c 0 .drain).dec.dst ∧ colOf (c 0 .drain).dec.src ≠ colOf (c 0 .drain).dec.dst ∧
      (s .drain).drained (c 0 .drain) = true ∧ (s .drain).drained (c 1 .drain) = true) ∧
    ((s .moved).recasts = [c 0 .moved, c 1 .moved] ∧ ((s .moved).launch? 0).isSome = true ∧ 1 < ((s .moved).launch 0).compute.length) ∧
    (let g (old : Option (Kind × Nat)) : Recast :=
       { dec := { lid := 0, old := old, new := some (.pool, 0), src := rv, dst := rv, cause := 0 }, hall := hallOf rv, t0 := 0, phase := .moved }
     let t (old : Option (Kind × Nat)) : State := ({ calm with recasts := [g old] } : State).modLaunch 0 (fun l => { l with routing := [some rv] })
     ∀ old ∈ [none, some (Kind.routing, 0)], (t old).recasts[0]? = some (g old) ∧ (g old).pair = false ∧ ((t old).launch? 0).isSome = true ∧
       0 = ((t old).launch 0).pool.length ∧ ((t old).launch 0).hostOf .routing 0 = some rv ∧ (g old).dec.src = (g old).dec.dst) := by
  decide +kernel

/-- RoleChanges: an item that has come back to its source, and waypoints that have moved: under an open stub to no core, and with the stub
closed; a marker whose stub has closed. -/
theorem witness_RoleChanges_back :
    let q : Packet := { kind := 2, src := home, dest := home, final := home, pos := home, target := some (.pool, 0), back := some rv }
    let s : State := ({ calm with net := [q] } : State).modLaunch 0 (fun l => { l with pool := [rv] })
    (s.arrived 0 = some q ∧ q.back = some rv ∧ q.wpTargets = [] ∧ (s.launch 0).hostOf .pool 0 = some rv) ∧
    (let p : Packet := { pos := rv, dest := rv, final := rv, stat := true, wps := [rv], wpTargets := [(.routing, 0)] }
     let t (b : List Stub) : State := { (calm.modLaunch 0 (fun l => { l with routing := [none] })) with net := [p], stubs := b }
     ∀ b ∈ [[], [({ lid := 0, kind := .routing, idx := 0, old := rv, new := none, closes := 16384 } : Stub)]],
       (t b).net[0]? = some p ∧ (t b).wayMoved p = true ∧ p.wpTargets[p.step]? = some (.routing, 0) ∧ (t b).stubOpen 0 .routing 0 rv = !b.isEmpty ∧
       ((t b).launch 0).hostOf .routing 0 = none) ∧
    (let m := (arrived (.marker .pool 0 false)).modLaunch 0 (fun l => { l with pool := [rv] })
     (m.landed 0).map (fun p => (p.body, m.markerWaits p, m.stubOpen 0 .pool 0 p.dest)) = some (.marker .pool 0 false, false, false)) := by
  decide +kernel

/-- LaunchRecords, HostAccess: the endpoint's port free and taken; a record whose command's budget has run out; an entry fitted. -/
theorem witness_LaunchRecords_port :
    let busy : State := { open_ with ports := [(open_.hostPlace, 9)], records := [{}] }
    (open_.hostFree 0 = true ∧ open_.hostFree 2 = true ∧ busy.hostFree 0 = false ∧ busy.hostFree 2 = false) ∧
    (let s : State := { open_ with records := [{}], clk := 9, mb := { open_.mb with waiting := some .turnover, budgetEnd := 9 } }
     s.records = [{}] ∧ s.mb.waiting.isSome = true ∧ s.mb.budgetEnd ≤ s.clk) ∧
    (calm.out.ttTable = true ∧ (0x1 : W64).getLsbD 0 = true ∧ (0x2 : W64).getLsbD 0 = false) ∧
    ((0x4000000000000000 : W64).extractLsb' 62 2 = 1 ∧ (0x8000000000000000 : W64).extractLsb' 62 2 = 2 ∧ (0 : W64).extractLsb' 62 2 = 0) := by
  decide +kernel

/-- LaunchLives: the start of a resume record, one too late, and one whose launch is not saved. -/
theorem witness_LaunchLives_resume :
    let r : LRec := { fine with resume := true, rlid := 5 }
    let v : Saved := { cores := [(home, { role := .host 5 .compute 0 })], bytes := [(sramPa home 4, 7)], twins := [(colOf home, [])] }
    let q (l : Launch) (r : LRec) : State := { open_ with queues := [(3, { head := 1, tail := 2, latched := some r })], launches := [(5, l)], time13 := 1300 }
    let l : Launch := { record := fine, phase := .saved, saved := some v, compute := [home] }
    (∀ s ∈ [(q l r, r), (q { l with phase := .running, record := { fine with fx := 9 } } r, r), (q l { r with notafter := 1 }, { r with notafter := 1 })],
      s.1.mb.state = .ready ∧ s.1.cmd.ringRoom = true ∧ s.1.cmd.lastStart ≠ some s.1.clk ∧
      s.1.candidates.find? s.1.couldStart = some { src := 3, record := s.2 } ∧ s.2.resume = true) ∧
    ((q l r).launch? 5 = some l ∧ (1 : W64) < (q l r).time ∧ Memory.wf (q l r).mem = true ∧ (v.cores.map (fun e => e.1)).Nodup ∧
      (v.bytes.map (fun b => b.1)).Nodup ∧ (v.twins.map (fun e => e.1)).Nodup ∧ sramPa home 0 ≤ sramPa home 4 ∧ sramPa home 4 < sramPa home 0 + 0x18000) := by
  decide +kernel

/-- Debugger: a launch whose task has reached its limit; ATurnRunsTheDecodedInstruction: a core's turn in that clk. -/
theorem witness_Debugger_limit :
    let s : State := ({ calm with cmd := { calm.cmd with dbgArmed := true } } : State).modCx (fun x => { x with task := x.task.map (fun t => { t with limit := 0 }) })
    ((s.launch? 0).isSome = true ∧ (s.launch 0).phase ≠ .saved ∧ (s.launch 0).halted = none ∧ (s.launch 0).fault = none ∧ (s.launch 0).frozen = false ∧
      (home, 1) ∈ s.tasked ∧ (s.core home).who.1 = 0 ∧ ((s.core home).ctx 1).task.map (fun t => t.lid) = some 0 ∧ s.limitLeft home 1 = some 0) ∧
    (∀ x ∈ List.range 5, calm.limitLeft home x ≠ some 0) ∧
    (let t : State := { s with schedule := [.issue 0 home] }
     let u := (({ t with schedule := [] } : State).pass 0).upTo 2
     u.powered = true ∧ (u.core home).nextIssue ≤ u.clk ∧ u.atLimit home ≠ [] ∧
     (match u.issueFirst home (u.core home).issueOrder with
      | .next v => ((v.core home).ctx 1).task.isSome
      | _ => false) = true) := by
  decide +kernel

/-- ATurnRunsTheDecodedInstruction: a task that ends in the clk of its limit. -/
theorem witness_ATurnRunsTheDecodedInstruction_end :
    let s : State := ((State.reset.placeInstr 16 0x8C00).modCore home (fun c => c.modCtx 1 (fun x =>
      { x with task := x.task.map (fun t => { t with limit := 0 }) })))
    let u := ({ s with schedule := [] } : State).upTo 2
    u.atLimit home = [1] ∧
    (match u.issueFirst home (u.core home).issueOrder with
     | .next v => ((v.core home).ctx 1).task.isNone
     | _ => false) = true := by
  decide +kernel

/-- TrapsAndFaults: a task that retired in the clk of its launch's fault, with a session and without. -/
theorem witness_TrapsAndFaults_end :
    let e : Ended := { clk := 0, core := home, was := calm.cc, twin := [] }
    let s := calm.modLaunch 0 (fun l => { l with fault := some (0, { cls := 5 }), ended := [e], tasks := 1 })
    s.launches = [(0, s.launch 0)] ∧ (s.launch 0).fault = some (0, { cls := 5 }) ∧ (s.launch 0).ended.filter (fun d => d.clk == 0) = [e] ∧
    e.was.role = (s.core home).role ∧ s.recasts = [] ∧
    (let t : State := { s with cmd := { s.cmd with dbgArmed := true, dbgFhalt := true } }
     t.cmd.dbgArmed = true ∧ t.cmd.dbgLid.toNat = 0 ∧ t.cmd.dbgFhalt = true) := by
  decide +kernel

/-- ClocksAndTime: hall rows with 16, 14 and 13 columns left. -/
theorem witness_ClocksAndTime_grades :
    let left (b : List Nat) (hx y : Nat) : Nat := ((List.range 16).filter (fun i => decide ((16 * hx + i) * 512 + y ∉ b))).length
    (∀ hx y, left [] hx y = 16) ∧ (∀ hx y, y < 512 → 14 ≤ left [0, 512] hx y) ∧ left [0, 512] 0 0 = 14 ∧ left [0, 512, 1024] 0 0 = 13 := by
  refine ⟨fun hx y => by simp only [List.not_mem_nil, not_false_eq_true, decide_true]; rfl, fun hx y hy => ?_, by decide, by decide⟩
  by_cases h : hx = 0 ∧ y = 0
  · obtain ⟨rfl, rfl⟩ := h
    decide
  · show 14 ≤ (List.filter _ _).length
    rw [List.filter_eq_self.2]
    · simp
    · intro i hi
      have := List.mem_range.1 hi
      simp only [List.mem_cons, List.not_mem_nil, or_false, decide_eq_true_eq]
      omega

/-! ## One step of each instruction, expected values from the spec's examples or worked by hand -/

/-- Values in g4, g5 and the old destination g6. -/
def two (x y : W128) (z : W128 := 0) : State := withReg (withReg (withReg calm 4 x) 5 y) 6 z
/-- The arguments of a type. -/
def at_ (t : Ty) : Args := { ops with ty := t }
/-- An instruction on g4 and g5 writes a value, untagged and FULL, into g6. -/
abbrev writes (i : Instr) (s : State) (v : W128) : Prop := resultIn 6 i s = Reg.full ⟨v, false⟩
/-- A value of four 32-bit lanes, lane 0 first. -/
def l32 (a b c d : Nat) : W128 := ofLanes 32 [a, b, c, d]

theorem test_add_wraps : writes (.add (at_ .x)) (two 0x7FFFFFFFFFFFFFFF 1) 0x8000000000000000 ∧ writes (.add (at_ .n8)) (two 0xFF 1) 0 := by decide +kernel
theorem test_sub : writes (.sub (at_ .x)) (two 0 1) 0xFFFFFFFFFFFFFFFF ∧ writes (.sub (at_ .s16)) (two 0x10000 1) 0x1FFFF := by decide +kernel
theorem test_logic : writes (.and (at_ .b)) (two 12 10) 8 ∧ writes (.or (at_ .b)) (two 12 10) 14 ∧ writes (.xor (at_ .b)) (two 12 10) 6 ∧
    writes (.andn (at_ .b)) (two 12 10) 4 := by decide +kernel
theorem test_logic_x_clears_the_top : writes (.or (at_ .x)) (two (BitVec.ofNat 128 (2 ^ 64)) 1) 1 := by decide +kernel
theorem test_shifts : writes (.shl (at_ .x)) (two 1 65) 2 ∧ writes (.shr (at_ .s32)) (two 0x80000000 31) 1 ∧
    writes (.sar (at_ .x)) (two 0x8000000000000000 63) 0xFFFFFFFFFFFFFFFF ∧ writes (.sar (at_ .n32)) (two 0x80000000 4) 0xF8000000 := by decide +kernel
theorem test_mul : writes (.mul (at_ .x)) (two 0xFFFFFFFFFFFFFFFF 2) 0xFFFFFFFFFFFFFFFE ∧ writes (.mul (at_ .n8)) (two 0x1010 0x1011) 0x10 := by decide +kernel
theorem test_min_max : writes (.min (at_ .n8)) (two 0x80 0x7F) 0x7F ∧ writes (.min (at_ .s8)) (two 0x80 0x7F) 0x80 ∧
    writes (.max (at_ .n8)) (two 0x80 0x7F) 0x80 ∧ writes (.max (at_ .s8)) (two 0x80 0x7F) 0x7F := by decide +kernel
theorem test_compares : writes (.seq (at_ .x)) (two 5 5) 0xFFFFFFFFFFFFFFFF ∧ writes (.sne (at_ .x)) (two 5 5) 0 ∧
    writes (.slt (at_ .x)) (two 0xFFFFFFFFFFFFFFFF 0) 0xFFFFFFFFFFFFFFFF ∧ writes (.slt (at_ .n64)) (two 0xFFFFFFFFFFFFFFFF 0) 0 ∧
    writes (.sle (at_ .n16)) (two 1 0) (BitVec.ofNat 128 (2 ^ 128 - 2 ^ 16)) := by decide +kernel
theorem test_sel_picks_by_the_old_destination : writes (.sel (at_ .b)) (two 0xAB 0xCD 0xF0) 0xAD := by decide +kernel
theorem test_clz_popc : writes (.clz (at_ .s32)) (two 1 0) (l32 31 32 32 32) ∧ writes (.popc (at_ .b)) (two (BitVec.allOnes 128) 0) 128 := by decide +kernel
theorem test_bext_bins : writes (.bext (at_ .x)) (two 0xABCD 900) 0xBC ∧ writes (.bins (at_ .b)) (two 0 900 0xFFFF) 0xF00F := by decide +kernel
theorem test_bext_past_the_end : writes (.bext (at_ .x)) (two 0xF000000000000000 (60 + 127 * 128)) 0xF := by decide +kernel
theorem test_mov_keeps_the_tag : resultIn 6 (.mov ops) (withReg calm 4 codeCap true) = Reg.full ⟨codeCap, true⟩ := by decide +kernel
theorem test_li : writes (.li { ops with s1 := .imm (0 - 1) }) calm 0xFFFFFFFFFFFFFFFF ∧
    writes (.li { ops with ty := .f32, s1 := .imm 0x3F80 }) calm (l32 0x3F800000 0x3F800000 0x3F800000 0x3F800000) := by decide +kernel

/-- fmov moves a PENDING register: the destination waits for the ticket and the source is POISONED MOVED (R181). -/
theorem test_fmov_moves_a_future :
    let s := (calm.setRegAt home 1 4 (Reg.pending 1)).modCore home (fun c => { c with tickets := [⟨1, .gpr home 1 4⟩] })
    resultIn 6 (.fmov ops) s = Reg.pending 1 ∧ resultIn 4 (.fmov ops) s = Reg.poison 0x01 ∧ ((after (.fmov ops) s).core home).ticketLoc 1 = some (.gpr home 1 6) := by
  decide +kernel

/-- div, rem and mulh land later (R325): a remainder has the sign of the dividend, division by zero gives all ones. -/
theorem test_div_rem_mulh :
    landingIn (.div (at_ .x)) (two (BitVec.ofNat 128 (2 ^ 64 - 7)) 2) = some ⟨BitVec.ofNat 128 (2 ^ 64 - 3), false⟩ ∧
    landingIn (.rem (at_ .x)) (two (BitVec.ofNat 128 (2 ^ 64 - 7)) 2) = some ⟨BitVec.ofNat 128 (2 ^ 64 - 1), false⟩ ∧
    landingIn (.div (at_ .x)) (two 9 0) = some ⟨0xFFFFFFFFFFFFFFFF, false⟩ ∧ landingIn (.rem (at_ .x)) (two 9 0) = some ⟨9, false⟩ ∧
    landingIn (.mulh (at_ .n32)) (two 0xFFFFFFFF 0xFFFFFFFF) = some ⟨0xFFFFFFFE, false⟩ := by decide +kernel
theorem test_div_latency : (after (.div (at_ .s16)) (two 9 3)).cc.shadows.map (fun h => h.ready) = [12] ∧
    (after (.mulh (at_ .s16)) (two 9 3)).cc.shadows.map (fun h => h.ready) = [4] := by decide +kernel
theorem test_rot : writes (.rot (at_ .x)) (two 1 (BitVec.ofNat 128 (2 ^ 64 - 1))) 0x8000000000000000 ∧ writes (.rot (at_ .b)) (two 1 127) (BitVec.ofNat 128 (2 ^ 127)) := by decide +kernel

/-- The chapter's example: the capability of 16 KiB at 0xF000_0500_0000 with permissions R and W. -/
theorem test_cbnd_cprm_example :
    let s := two 0xF00005000000 0x4000
    let t := withReg s 4 (resultIn 6 (.cbnd ops) s).value true
    (resultIn 6 (.cbnd ops) s).tag = true ∧ resultIn 6 (.cprm ops) (withReg t 5 0x18) = Reg.full ⟨0xC000000040F000050000F00005000000, true⟩ ∧
    writes (.cget ops) (withReg t 5 2) 0x4000 := by decide +kernel
theorem test_cadd_moves_the_cursor : resultIn 6 (.cadd ops) (withReg (withReg calm 4 codeCap true) 5 0xFFFFFFFFFFFFFFFF) =
    Reg.full ⟨codeCap - 1, true⟩ := by decide +kernel
theorem test_cfmt : resultIn 6 (.cfmt ops) (withReg (withReg calm 4 codeCap true) 5 0x1AC) =
    Reg.full ⟨codeCap ||| BitVec.ofNat 128 (12 * 2 ^ 114) ||| BitVec.ofNat 128 (2 * 2 ^ 118) ||| BitVec.ofNat 128 (6 * 2 ^ 120), true⟩ := by decide +kernel
theorem test_ctest_cclr : writes (.ctest ops) (withReg (withReg calm 4 codeCap true) 5 256) 0xFFFFFFFFFFFFFFFF ∧
    writes (.ctest ops) (withReg (withReg calm 4 codeCap true) 5 257) 0 ∧ writes (.cclr ops) (withReg calm 4 codeCap true) codeCap := by decide +kernel
theorem test_cprm_untagged_traps : faultIn (.cprm ops) (two 0x1234 0) = some (0x03, 0x1234) := by decide +kernel
theorem test_topo : writes (.topo { ops with s1 := .imm 0 }) calm 0x0A ∧ writes (.topo { ops with s1 := .imm 1 }) calm 1 ∧ writes (.topo { ops with s1 := .imm 64 }) calm 0 := by decide +kernel

/-- The address at which the current context goes on after an instruction. -/
def goesTo (i : Instr) (s : State) : Option VAddr :=
  let x := ((after i s).core s.cur.core).ctx s.cur.ctx
  if x.pc = x.npc then some x.pc else none

theorem test_branches : goesTo (.b { s1 := .imm 5 }) calm = some 0x4000A ∧ goesTo (.bz { s1 := .reg 4, s2 := .imm 7 }) calm = some 0x4000E := by decide +kernel
theorem test_bnz_not_taken : goesTo (.bnz { s1 := .reg 4, s2 := .imm 7 }) calm = some 0x40002 ∧ goesTo (.bnz { s1 := .reg 4, s2 := .imm 7 }) (two (BitVec.ofNat 128 (2 ^ 100)) 0) = some 0x4000E := by
  decide +kernel
theorem test_blt_bge : let s := two 0xFFFFFFFFFFFFFFFF 1
    goesTo (.blt { at_ .x with s3 := .imm 6 }) s = some 0x4000C ∧ goesTo (.blt { at_ .n64 with s3 := .imm 6 }) s = some 0x40002 ∧
    goesTo (.bge { at_ .n64 with s3 := .imm 6 }) s = some 0x4000C := by decide +kernel
theorem test_call : goesTo (.call { d := 6, s1 := .imm 8 }) calm = some 0x40010 ∧ writes (.call { d := 6, s1 := .imm 8 }) calm 0x40002 := by decide +kernel
theorem test_callr_jr : goesTo (.callr { d := 4, s1 := .reg 4 }) (two 0x40000 0) = some 0x40000 ∧ goesTo (.jr { s1 := .reg 4 }) (two 0x40000 0) = some 0x40000 ∧
    faultIn (.jr { s1 := .reg 4 }) (two 0x40001 0) = some (0x14, 0x40001) ∧ resultIn 4 (.callr { d := 4, s1 := .reg 4 }) (two 0x40000 0) = Reg.full ⟨0x40002, false⟩ := by
  decide +kernel
theorem test_loop : ((after (.loopN { s1 := .reg 4, s2 := .imm 3 }) (two 10 0)).cx.loops = [⟨0x40002, 0x40006, 10⟩]) ∧
    faultIn (.loopN { s1 := .reg 4, s2 := .imm 0 }) (two 10 0) = some (0x15, 1) := by decide +kernel
theorem test_end_frees_the_context : (after (.endTask {}) calm).cx.task = none := by decide +kernel
theorem test_sget_sset : writes (.sget { ops with s1 := .imm 0 }) (core0 (fun c => { c with fmc := 0x2000 })) 0x2000 ∧
    (after (.sset { s1 := .reg 4, s2 := .imm 0 }) (two 0xFFFFF 0)).cc.fmc = 0x3FFF ∧ (after (.sset { s1 := .reg 4, s2 := .imm 1 }) (two 0 0)).cc.seed = 1 ∧
    (after (.sset { s1 := .reg 4, s2 := .imm 8 }) (two 5 0)).cc = (two 5 0).advance.cc := by decide +kernel
theorem test_brk_traps_outside_a_session : (faultIn (.brk {}) calm).map (fun f => f.1) = some 0x13 := by decide +kernel
theorem test_nop : (after (.nop {}) calm).cx.pc = 0x40002 := by decide +kernel

/-! Vectors (spec 17) -/

/-- 1.0, 2.0, 3.0, 0.5 and −1.5 as .f32. -/
abbrev f1 : Nat := 0x3F800000
/-- 2.0. -/
abbrev f2 : Nat := 0x40000000
/-- 3.0. -/
abbrev f3 : Nat := 0x40400000
/-- 0.5. -/
abbrev fh : Nat := 0x3F000000
/-- −1.5. -/
abbrev fm : Nat := 0xBFC00000
/-- Infinity. -/
abbrev fi : Nat := 0x7F800000
/-- The canonical NaN. -/
abbrev fn : Nat := 0x7FC00000

theorem test_vadd_vsub_vmul : writes (.vadd (at_ .f32)) (two (l32 f1 fh fi 0) (l32 f2 fh (fi + 0x80000000) 0)) (l32 f3 f1 fn 0) ∧
    writes (.vsub (at_ .f32)) (two (l32 f3 fh f1 0) (l32 f2 fh 0 0)) (l32 f1 0 f1 0) ∧
    writes (.vmul (at_ .f32)) (two (l32 f3 f2 fi 0) (l32 f1 fh 0 0)) (l32 f3 f1 fn 0) := by decide +kernel
theorem test_vfma_vfms : writes (.vfma (at_ .f32)) (two (l32 f2 0 0 0) (l32 fh 0 0 0) (l32 f2 0 0 0)) (l32 f3 0 0 0) ∧
    writes (.vfms (at_ .f32)) (two (l32 f2 0 0 0) (l32 fh 0 0 0) (l32 f3 0 0 0)) (l32 f2 0 0 0) := by decide +kernel
theorem test_vmin_vmax_vamax : writes (.vmin (at_ .f32)) (two (l32 0 fm fn f1) (l32 0x80000000 f1 f2 f1)) (l32 0x80000000 fm f2 f1) ∧
    writes (.vmax (at_ .f32)) (two (l32 0 fm fn f1) (l32 0x80000000 f1 f2 f1)) (l32 0 f1 f2 f1) ∧
    writes (.vamax (at_ .f32)) (two (l32 fm fm fn 0) (l32 f1 f2 f2 0x80000000)) (l32 0x3FC00000 f2 fn 0) := by decide +kernel
theorem test_vabs_vneg : writes (.vabs (at_ .f32)) (two (l32 fm 0x80000000 0xFFC00001 f1) 0) (l32 0x3FC00000 0 0x7FC00001 f1) ∧
    writes (.vneg (at_ .f32)) (two (l32 fm 0 fn f1) 0) (l32 0x3FC00000 0x80000000 0xFFC00000 0xBF800000) := by decide +kernel
theorem test_vcmp : let s := two (l32 0 f1 fn f2) (l32 0x80000000 f2 f1 f2)
    writes (.vcmp .eq (at_ .f32)) s (l32 0xFFFFFFFF 0 0 0xFFFFFFFF) ∧ writes (.vcmp .ne (at_ .f32)) s (l32 0 0xFFFFFFFF 0xFFFFFFFF 0) ∧
    writes (.vcmp .un (at_ .f32)) s (l32 0 0 0xFFFFFFFF 0) ∧ writes (.vcmp .ge (at_ .f32)) s (l32 0xFFFFFFFF 0 0 0xFFFFFFFF) := by decide +kernel
theorem test_vsel : writes (.vsel (at_ .f32)) (two (l32 1 2 3 4) (l32 5 6 7 8) (l32 0x80000000 0x7FFFFFFF 0xFFFFFFFF 1)) (l32 1 6 3 8) := by decide +kernel
theorem test_vrcp_vrsq : landingIn (.vrcp (at_ .f32)) (two (l32 f2 0x80000000 0xFF800000 fh) 0) = some ⟨l32 fh 0xFF800000 0x80000000 f2, false⟩ ∧
    landingIn (.vrsq (at_ .f32)) (two (l32 0x40800000 0 fm fi) 0) = some ⟨l32 fh fi fn 0, false⟩ := by decide +kernel
theorem test_vexp2_vlog2 : landingIn (.vexp2 (at_ .f32)) (two (l32 f1 0 0xBF800000 0xFF800000) 0) = some ⟨l32 f2 f1 fh 0, false⟩ ∧
    landingIn (.vlog2 (at_ .f32)) (two (l32 f2 f1 0 0xBF800000) 0) = some ⟨l32 f1 0 0xFF800000 fn, false⟩ := by decide +kernel
theorem test_vdiv_vsqrt : landingIn (.vdiv (at_ .f32)) (two (l32 f3 f1 0 fi) (l32 f2 0x80000000 0 fi)) = some ⟨l32 0x3FC00000 0xFF800000 fn fn, false⟩ ∧
    landingIn (.vsqrt (at_ .f32)) (two (l32 0x40800000 0x80000000 fi fm) 0) = some ⟨l32 f2 0x80000000 fi fn, false⟩ := by decide +kernel
theorem test_vred : landingIn (.vred .add (at_ .f32)) (two (l32 f1 f2 fh fh) 0) = some ⟨0x40800000, false⟩ ∧
    landingIn (.vred .amax (at_ .f32)) (two 0x3C23D70A42C80000BF40000040400000 0) = some ⟨0x42C80000, false⟩ := by decide +kernel
theorem test_vdot : landingIn (.vdot (at_ .f32)) (two (l32 f1 f2 0 0) (l32 f1 fh 0 0) (l32 f1 7 7 7)) = some ⟨l32 f3 0 0 0, false⟩ := by decide +kernel
theorem test_lane_moves : writes (.vshuf (at_ .f32)) (two (l32 1 2 3 4) (l32 3 2 5 0)) (l32 4 3 2 1) ∧ writes (.vbcast 2 (at_ .f32)) (two (l32 1 2 3 4) 0) (l32 3 3 3 3) ∧
    writes (.vext 2 (at_ .f32)) (two (l32 1 2 3 4) 0) 3 ∧ writes (.vins 2 (at_ .f32)) (two (l32 9 8 7 6) 0 (l32 1 2 3 4)) (l32 1 2 9 4) := by decide +kernel

/-- The chapter's worked block, quantised to signed binary8 with P = 4 and no infinities. -/
theorem test_quantising_a_block :
    let s (x y : W128) : State := (two x y).modCore home (fun c => { c with fmc := 0x000B })
    writes (.vqnt (at_ .f8)) (s 0x42C80000 0) 0x7E ∧
    writes (.vscl true (at_ .f32)) (s 0x3C23D70A42C80000BF40000040400000 0x7E) 0x3CA3D70A43480000BFC0000040C00000 ∧
    writes (.vcvt .f32 0 (at_ .f8)) (s 0x3CA3D70A43480000BFC0000040C00000 0) 0x127CC454 := by decide +kernel
theorem test_vpack_vunpk : writes (.vpack .f32 (at_ .bf16)) (two (l32 f1 f2 0 0) (l32 f3 0 0 0)) (ofLanes 16 [0x3F80, 0x4000, 0, 0, 0x4040, 0, 0, 0]) ∧
    writes (.vunpk .bf16 true (at_ .f32)) (two (ofLanes 16 [0, 0, 0, 0, 0x3F80, 0x4000, 0, 0]) 0) (l32 f1 f2 0 0) ∧
    writes (.vpack .s32 (at_ .s16)) (two (l32 70000 5 0 0) 0) (ofLanes 16 [0x7FFF, 5]) ∧
    writes (.vunpk .s8 false (at_ .n16)) (two (ofLanes 8 [0xFF, 1]) 0) (ofLanes 16 [0xFFFF, 1]) := by decide +kernel
theorem test_vscl_multiplies : writes (.vscl false (at_ .f32)) (two (l32 f1 f3 0 0) 128) (l32 f2 0x40C00000 0 0) ∧
    writes (.vscl false (at_ .f32)) (two (l32 f1 f3 0 0) 255) (l32 fn fn fn fn) := by decide +kernel
theorem test_fclass : writes (.fclass (at_ .f32)) (two (l32 0xFF800000 fm 0x80000001 0x80000000) 0) (l32 0 1 2 3) ∧
    writes (.fclass (at_ .f32)) (two (l32 0 1 f1 0x7F800001) 0) (l32 4 5 6 9) := by decide +kernel

/-! Memory and synchronisation (spec 18) -/

/-- Bytes at an offset of the core's local SRAM. -/
def atSram (s : State) (off : Nat) (bs : List Byte) : State := { s with mem := Memory.writeN s.mem (sramPa home off) bs }
/-- Bytes of the core's local SRAM after an instruction. -/
def sramAfter (i : Instr) (s : State) (off n : Nat) : List Byte := Memory.readN (after i s).mem (sramPa home off) n

theorem test_ld_extends : let s := atSram near 0x9000 [0xFE, 0xFF, 3, 4, 5, 6, 7, 0x88]
    landingIn (.ld .plain .launch (at_ .s16)) s = some ⟨0xFFFFFFFFFFFFFFFE, false⟩ ∧ landingIn (.ld .plain .launch (at_ .n16)) s = some ⟨0xFFFE, false⟩ ∧
    landingIn (.ld .plain .launch (at_ .x)) s = some ⟨0x880706050403FFFE, false⟩ := by decide +kernel
theorem test_st_writes_the_item_only : sramAfter (.st .plain .launch (at_ .n32)) (atSram near 0x9004 [0xAA]) 0x9000 5 = [0x88, 0x77, 0x66, 0x55, 0xAA] := by decide +kernel
theorem test_ldf_decodes : landingIn (.ldf 2 { at_ .f32 with s2 := .imm 1 }) (atSram nearCap 0x9004 [0, 0, 0x80, 0x3F, 0, 0, 0, 0x40]) = some ⟨l32 f1 f2 0 0, false⟩ := by decide +kernel
theorem test_stf_encodes : sramAfter (.stf .plain .launch 2 { xr := true, ty := .bf16, d := 4, s1 := .reg 5, s2 := .reg 62 }) (withReg nearCap 5 (ofLanes 16 [0x3F80, 0x4000])) 0x9000 8 =
    [0, 0, 0x80, 0x3F, 0, 0, 0, 0x40] := by decide +kernel
theorem test_ldg_gathers : landingIn (.ldg (at_ .n32)) (atSram (withReg near 5 (l32 1 0 2 0)) 0x9000 [1, 0, 0, 0, 2, 0, 0, 0, 3, 0, 0, 0]) = some ⟨l32 2 1 3 1, false⟩ := by decide +kernel
theorem test_stg_last_lane_stays : sramAfter (.stg { xr := true, ty := .n32, d := 4, s1 := .reg 5, s2 := .reg 6 }) (withReg (withReg near 5 (l32 1 2 3 4)) 6 (l32 0 1 0 1)) 0x9000 8 =
    [3, 0, 0, 0, 4, 0, 0, 0] := by decide +kernel
theorem test_ldg_unaligned_traps : faultIn (.ldg (at_ .n32)) (withReg (withReg calm 4 (tileVa 0 0x9002)) 5 0) = some (0x15, 1) := by decide +kernel
theorem test_lmways : (after (.lmways { s1 := .imm 12 }) calm).cc.l1Ways = 8 := by decide +kernel

/-- An atomic on local SRAM: the new item is written now, the old one fills d 3 clk later. -/
abbrev amoGives (i : Instr) (old : List Byte) (v : W128) (result : W128) (new : List Byte) : Prop :=
  let s := atSram (withReg (withReg calm 4 (tileVa 0 0x9000)) 5 v) 0x9000 old
  (((after i s).net.getLast?.map (fun p => (match p.body with | .response r => some r.fill.v | _ => none, p.ready))) = some (some result, 3)) ∧ sramAfter i s 0x9000 old.length = new

theorem test_amoadd : amoGives (.amoadd .plain .launch (at_ .n32)) [0xFF, 0xFF, 0xFF, 0xFF] 2 0xFFFFFFFF [1, 0, 0, 0] := by decide +kernel
theorem test_amo_logic : amoGives (.amoand .plain .launch (at_ .n32)) [12, 0, 0, 0] 10 12 [8, 0, 0, 0] ∧ amoGives (.amoor .plain .launch (at_ .n32)) [12, 0, 0, 0] 10 12 [14, 0, 0, 0] ∧
    amoGives (.amoxor .plain .launch (at_ .n32)) [12, 0, 0, 0] 10 12 [6, 0, 0, 0] := by decide +kernel
theorem test_amo_min_max : amoGives (.amomin .plain .launch (at_ .s32)) [0xFF, 0xFF, 0xFF, 0xFF] 1 0xFFFFFFFF [0xFF, 0xFF, 0xFF, 0xFF] ∧
    amoGives (.amomax .plain .launch (at_ .n32)) [1, 0, 0, 0] 0xFFFFFFFF 1 [0xFF, 0xFF, 0xFF, 0xFF] := by decide +kernel
theorem test_amoswp_amocas : amoGives (.amoswp .plain .launch (at_ .n32)) [1, 0, 0, 0] 9 1 [9, 0, 0, 0] ∧
    sramAfter (.amocas .plain .launch (at_ .n32)) (atSram (withReg near 6 7) 0x9000 [7, 0, 0, 0]) 0x9000 4 = [0x88, 0x77, 0x66, 0x55] ∧
    sramAfter (.amocas .plain .launch (at_ .n32)) (atSram (withReg near 6 8) 0x9000 [7, 0, 0, 0]) 0x9000 4 = [7, 0, 0, 0] := by decide +kernel
theorem test_amofadd : amoGives (.amofadd .plain .launch (at_ .f32)) [0, 0, 0x80, 0x3F] 0x40000000 0x3F800000 [0, 0, 0x40, 0x40] := by decide +kernel

/-- What the last message in the network carries after an instruction. -/
def sentBy (i : Instr) (s : State) : Option Body := (after i s).net.getLast?.map (fun p => p.body)

theorem test_barr_sends_its_contribution : (match sentBy (.barr 3 { s1 := .reg 4, s2 := .reg 5 }) (two 0 7) with | some (.barArr 0 3 1 7 _) => true | _ => false) = true ∧
    faultIn (.barr 3 { s1 := .reg 4, s2 := .reg 5 }) (two 1 7) = some (0x15, 3) := by decide +kernel
theorem test_bcfg : ((after (.bcfg 1 { s1 := .reg 4 }) (two 0x30002 0)).cc.barrier 1).exp = 2 ∧ ((after (.bcfg 1 { s1 := .reg 4 }) (two 0x40002 0)).cc.barrier 1).acc = 0xFF800000 ∧
    faultIn (.bcfg 1 { s1 := .reg 4 }) (two 0x70000 0) = some (0x15, 5) := by decide +kernel
theorem test_bwait_parks_for_z : ((after (.bwait 0 { xr := true, d := 62, s1 := .reg 4, s2 := .reg 5 }) (two 0 1)).cx.park.isSome) = true ∧
    ((resultIn 6 (.bwait 0 ops) (two 0 1)).state, (resultIn 6 (.bwait 0 ops) (two 0 1)).ticket.extractLsb' 12 4) = (.pending, 5) := by decide +kernel
theorem test_wfe_takes_the_latch : let s := calm.modCx (fun x => { x with latch := true })
    (after (.wfe { s1 := .reg 62 }) s).cx.latch = false ∧ (after (.wfe { s1 := .reg 62 }) s).cx.pc = 0x40002 ∧
    (after (.wfe { s1 := .reg 4 }) (two 9 0)).cx.park = some (.wfe (some 9) (.reg 4)) := by decide +kernel
theorem test_sev : sentBy (.sev { s1 := .reg 4 }) calm = some (.event none) := by decide +kernel
theorem test_wpend_wany_pchk : let s := calm.setRegAt home 1 7 (Reg.pending 0x4003)
    (after (.wpend { s1 := .reg 4 }) (withReg s 4 0x80)).cx.park = some (.allDone 0x80) ∧ resultIn 6 (.wany ops) (withReg s 4 0x180) = Reg.full ⟨8, false⟩ ∧
    writes (.wany ops) s 0xFFFFFFFFFFFFFFFF ∧ writes (.pchk { ops with s1 := .reg 7 }) s 0x40030100 ∧ writes (.pchk { ops with s1 := .reg 7 }) (calm.setRegAt home 1 7 (Reg.poison 4)) 0x204 := by
  decide +kernel
theorem test_fence_goes_on : (after (.fence .full .launch {}) calm).cx.pc = 0x40002 := by decide +kernel
theorem test_cwb_cleans_the_line : ((after (.cwb { s1 := .reg 62 }) cached).cc.l1.map (fun l => (l.la, l.dirty))) = [(0x4000, 0), (0x4001, 0)] ∧
    (after (.cinv { s1 := .reg 62 }) cached).cc.l1 = [] := by decide +kernel
theorem test_pref_of_local_memory_does_nothing : (after (.pref { s1 := .reg 4 }) near).net = [] ∧ (after (.pref { s1 := .reg 4 }) near).cx.pc = 0x40002 := by decide +kernel
theorem test_watch : ((after (.watch { s1 := .reg 4 }) near).cc.watches.map (fun w => (w.core, w.ctx))) = [(home, 1)] := by decide +kernel
theorem test_dcset_dcdec : ((after (.dcset 3 { s1 := .reg 4 }) (two 5 0)).cc.counter 3).count = 5 ∧ (match sentBy (.dcdec 3 { s1 := .reg 4 }) calm with | some (.decrement 3 _) => true | _ => false) = true := by decide +kernel

/-! Engines, names, tasks, messages and the system (spec 19, 20) -/

theorem test_copy_enters_the_queue : let s := caps (sramCap 0x9000 1 15 0) (sramCap 0xA000 1 15 0)
    ((after (.copy .launch false none { ops with ty := .b }) s).cc.copyQ.map (fun c => c.total)) = [256] ∧
    ((resultIn 6 (.copy .launch false none { ops with ty := .b }) s).state, (resultIn 6 (.copy .launch false none { ops with ty := .b }) s).ticket.extractLsb' 12 4) = (.pending, 1) := by decide +kernel
theorem test_fill_keeps_its_pattern : ((after (.fill .launch none { ops with ty := .b }) (caps (sramCap 0x9000 1 15 0) 0x42)).cc.copyQ.map (fun c => c.pattern)) = [some 0x42] := by decide +kernel
theorem test_sbind_sunb : let s := withReg calm 4 (sramCap 0x9000 1 15 0) true
    let t := after (.sbind .launch false { xr := true, ty := .b, d := 28, s1 := .reg 4 }) s
    ((t.cx.stream? 28).map (fun x => (x.out, x.total))) = some (false, 16) ∧ (after (.sunb { xr := true, d := 6, s1 := .reg 28 }) t).cx.stream? 28 = none := by decide +kernel
theorem test_mcfg : ((after (.mcfg { s1 := .reg 4 }) (two 5 0)).cc.mqueue.map (fun m => m.op)) = [.mcfg 5] ∧ faultIn (.mcfg { s1 := .reg 4 }) (two 8 0) = some (0x15, 6) := by decide +kernel
theorem test_mbld_mmac : ((after (.mbld .launch 0 none { ops with ty := .b }) (caps bmat 0)).cc.mqueue.length = 1) ∧
    faultIn (.mmac .launch none { ops with ty := .b }) (caps amat cmat) = some (0x15, 5) ∧ faultIn (.mrmt .launch none { ops with ty := .b }) (caps amat cmat) = some (0x15, 5) := by decide +kernel
theorem test_lic : ((after (.licTake { d := 6 }) calm).cc.mqueue.map (fun m => m.op)) = [.take] ∧ ((after (.licGive { d := 6 }) calm).cc.mqueue.map (fun m => m.op)) = [.give] := by decide +kernel
theorem test_want_waits : let s := (caps (sramCap 0x9000 1 15 0) 5).modLaunch 0 (fun l => { l with j0 := 1, routing := [some rv] })
    ((after (.want { ops with ty := .b }) s).cc.wants.map (fun w => (w.name, w.expiry))) = [(5, 1024)] := by decide +kernel
theorem test_offer_of_nothing_traps : let c := sramCap 0x9000 1 15 0
    faultIn (.offer { ops with ty := .b }) (caps (c + 256) 5) = some (0x15, 7) := by decide +kernel
theorem test_seal_names_the_tensor : (match sentBy (.seal { ops with ty := .b }) (two 0x0000070000FF0009 0) with | some (.interest i) => i.name == 0x0000070000000009 | _ => false) = true := by decide +kernel
theorem test_send_fields : ((after (.send true false .launch 1 false { ty := .b, s1 := .reg 4, s2 := .reg 5 }) (two 0x0005500300000000 9)).net.getLast?.map (fun p => (p.handler, p.stage, p.entries))) =
    some (0x003, 0x55, [⟨9, false⟩]) := by decide +kernel
theorem test_sendc_channel : ((after (.sendc false .launch 1 5 { ty := .b, s1 := .reg 4, s2 := .reg 5 }) (two 0 9)).net.getLast?.map (fun p => (p.kind, p.ch, p.entries))) = some (3, 5, [⟨9, false⟩]) := by decide +kernel
theorem test_sendr_of_another_device_traps : faultIn (.sendr false .launch 1 0 0 { ty := .b, s1 := .reg 4, s2 := .reg 5 }) (two (BitVec.ofNat 128 (2 ^ 20)) 9) = some (0x15, 10) := by decide +kernel
theorem test_fork_join : let s := two 0 1
    (after (.fork { ty := .b, s1 := .reg 4, s2 := .reg 8 }) s).cc.deque.length = 1 ∧ ((after (.join 3 { ty := .b, s1 := .reg 4, s2 := .reg 8 }) (s.modCc (fun c => { c with counters := [(3, { count := 2 })] }))).cc.counter 3).bound.isSome = true := by decide +kernel
theorem test_trap_user : faultIn (.trap 0x2A { s1 := .reg 4 }) (two 0x77 0) = some (0x12, 0x77) := by decide +kernel
theorem test_idle : (after (.idle { s1 := .reg 62 }) calm).cx.park = some (.idle none (.reg 62)) ∧ (after (.idle { s1 := .reg 62 }) (core0 (fun c => { c with lowQ := [{}] }))).cx.pc = 0x40002 := by decide +kernel
theorem test_requests_go_on_HI : ([Instr.chcfgName 3 { ops with ty := .b }, .lease { ops with ty := .b }, .role { ops with ty := .b }, .sysc 5 ops].all (fun i =>
    ((after i calm).net.getLast?.map (fun p => p.vn)) == some .hi && (resultIn 6 i calm).state == .pending)) = true := by decide +kernel
theorem test_chcfg_gives_the_old_route : writes (.chcfg 2 { ops with ty := .b }) ((two (BitVec.ofNat 128 (2 ^ 20)) 0).modCc (fun c => { c with routes := [(2, 9)] })) 9 := by decide +kernel

/-- ctxsv and ctxld: a register's value, state and code go through the image (Table 20-9). -/
theorem test_context_image :
    let c := sramCap 0x9000 16 15 0
    let s := (withReg (withReg calm 4 c true) 9 0x1234).setRegAt home 1 7 (Reg.poison 4)
    let i : Instr := .ctxsv true { ty := .b, s1 := .reg 4 }
    sramAfter i s (0x9000 + 16 * 9) 3 = [0x34, 0x12, 0] ∧ sramAfter i s (0x9000 + 0x200 + 4 * 7) 4 = [4, 2, 0, 0] ∧
    (let t := atSram s (0x9200 + 4 * 8) [3, 2, 0, 0]
     resultIn 8 (.ctxld { ty := .b, s1 := .reg 4 }) t = Reg.poison 3 ∧ resultIn 9 (.ctxld { ty := .b, s1 := .reg 4 }) t = {}) := by decide +kernel
theorem test_privileged_outside_a_controller : (faultIn (.tlbi .hall { ty := .b, s1 := .reg 4 }) calm).map (fun f => f.1) = some 0x06 ∧
    (faultIn (.rolew { ty := .b, s1 := .reg 4, s2 := .reg 5 }) calm).map (fun f => f.1) = some 0x06 ∧ (faultIn (.pwrc false { ops with ty := .b }) calm).map (fun f => f.1) = some 0x06 := by decide +kernel
theorem test_privileged_in_a_controller : (after (.tlbi .hall { ty := .b, s1 := .reg 4 }) ctl).cc.tlb = [] ∧
    (let t := after (.pwrc false { ops with ty := .b }) (withReg ctl 4 0x200)
     t.stepA = 0x200 ∧ t.regAt t.cur.core 1 6 = Reg.full ⟨0x04B0, false⟩) := by decide +kernel

/-! Worked examples of the other chapters, and events -/

/-- Table 12-10: the worked BF16 block pair is 15 + 2^-14, and 2^20 plus it is 0x4980_0078. -/
theorem test_block_pair_example :
    let d (c : Nat) : FVal := (fmtOf 0 .bf16).decode c
    let as := ([0x4040, 0xBFA0, 0x38C0, 0x3780] ++ List.replicate 28 0x3F00).map d
    let bs := ([0x3F40, 0x3F80, 0x3F80, 0x3F80] ++ List.replicate 28 0x3F80).map d
    encodeVal fmtF32 rulesRne 0 (pairValue 16 as bs 127 127) = 0x41700040 ∧ addPair 0x49800000 (pairValue 16 as bs 127 127) = 0x49800078 := by decide +kernel
/-- The example of R227: the bits that a store to column (5, 2), offset 0x1_2380, sets. -/
theorem test_signature_bits_example : dramPa (placeOf 5 2 0 / 2) 0x12380 = 0x1000280812380 ∧ sigEnter 0 (0x1000280812380 / 128) = BitVec.ofNat 1024 (2 ^ 583 + 2 ^ 18) := by decide +kernel
/-- The example of R200: element (1, 2) of a 16 × 16 BF16 tile is the same bytes through LINEAR and COL16. -/
theorem test_layout_example : elemBit (sramCap 0x2000 2 10 0) 0x12 = 8 * 0x24 ∧ elemBit (sramCap 0x2000 2 10 1) 0x21 = 8 * 0x24 ∧ elemBit (sramCap 0x2000 2 10 0) 0x21 = 8 * 0x42 := by decide +kernel

/-- The fault record of spec 13's example, as it stands in the record ring. -/
theorem test_fault_record_example :
    let f : FaultInfo := { cls := 1, code := 4, l := 0x123, place := placeOf 17 40 0, ctx := 2, async := false, pc := 0x40074, detail := 6, stage := 7, handler := 3, seq := 25 }
    let r : CRec := { tag := 0xA1, src := 2, lid := 5, status := .fault, fault := some f }
    let t := after .completionRecordWrite { open_ with records := [r] }
    [0, 8, 16, 32, 40].map (fun o => bytesNat (Memory.readN t.mem (3 * 2 ^ 48 + o) 8)) =
      [0x000000A102050102, 0x010400123088A080, 0x0000000000040074, 6, 0x0700300000000019] ∧ t.msix = [17] := by decide +kernel

/-- A handler index above HCNT is BAD_HANDLER at admission, with the index (R102). -/
theorem test_admission_of_a_bad_handler : let s := core0 (fun c => { c with highQ := [{ handler := 5 }] })
    (((after (.taskAdmission home) s).launch 0).fault.map (fun f => (f.2.cls, f.2.detail))) = some (0x07, 5) := by decide +kernel
theorem test_decrement_of_zero_underflows : let s := arrived (.decrement 3 0)
    (((after (.counterDecrement 0) s).launch 0).fault.map (fun f => (f.2.cls, f.2.async))) = some (0x0B, true) := by decide +kernel
theorem test_decrement_releases_the_record : let s := (arrived (.decrement 3 0)).modCore home (fun c => { c with counters := [(3, { count := 1, bound := some { hdr := 7 } })] })
    ((after (.counterDecrement 0) s).core home).fifo.map (fun r => r.hdr) = [7] := by decide +kernel
theorem test_task_limit : let s := ({ calm with clk := 65536 * 256 } : State).modCx (fun x => { x with task := x.task.map (fun t => { t with limit := 256, since := 0 }) })
    (((after (.taskLimitExpiry home 1) s).launch 0).fault.map (fun f => f.2.cls)) = some 0x08 := by decide +kernel
theorem test_shadow_lands : let s := after (.div (at_ .x)) (two 9 3)
    resultIn 6 (.shadowResultLand home 0) { s with clk := 36 } = Reg.full ⟨3, false⟩ ∧ resultIn 6 (.shadowResultLand home 0) { s with clk := 35 } = {} := by decide +kernel
theorem test_future_fills : let s := awaited { op := .store, ticket := some 1, fill := ⟨9, false⟩ }
    ((after (.futureFill 0) s).core home).tickets = [] ∧ (((after (.futureFill 0) s).core home).ctx 1).reg 6 = Reg.full ⟨9, false⟩ := by decide +kernel
/-- A partial arrival of both tiles releases the generation with its combined value (R392). -/
theorem test_barrier_release : let s := (arrived (.barArr 0 1 2 0x40000000 0)).modCore home (fun c => { c with barriers := [(1, { op := 3 })] })
    let b := ((after (.barrierArrival 0) s).core home).barrier 1
    (b.gen, b.arr, b.last, b.acc) = (1, 0, 0x40000000, 0) := by decide +kernel
theorem test_event_sets_every_latch : ((List.range 5).map (fun x => (((after (.eventArrival 0) (arrived (.event none))).core home).ctx x).latch)) = List.replicate 5 true := by decide +kernel
theorem test_wfe_times_out : let s := { after (.wfe { s1 := .reg 4 }) (two 9 0) with clk := 9 }
    (after (.wfeTimeout home 1) s).cx.park = none ∧ (after (.wfeTimeout home 1) { s with clk := 8 }).cx.park.isSome = true := by decide +kernel
theorem test_home_store : let r : Req := { op := .store, core := home, ctx := 1, lid := 0, pa := placedPa, len := 2, data := [7, 8] }
    let s := calm.modColumn 4096 (fun c => { c with table := [{ stair := true, req := r }] })
    Memory.readN (after (.landingAccess 4096) s).mem placedPa 2 = [7, 8] := by decide +kernel
theorem test_router_hop : let q : Packet := { pos := home, dest := placeOf 9 1 0, final := placeOf 9 1 0 }
    ((after (.routerForward 0) { calm with net := [q] }).net.map (fun p => p.pos)) = [placeOf 9 0 0] := by decide +kernel
theorem test_message_into_a_channel : let s := (message 3 [⟨0x1122, false⟩]).modCore home (fun c => { c with chans := [(0, { en := true, log2e := 3, base := 0x900 })] })
    let t := after (.channelMessageAccept 0) s
    ((t.core home).chan 0).count = 1 ∧ Memory.readN t.mem (sramPa home 0x9000) 3 = [0x22, 0x11, 0] := by decide +kernel
theorem test_message_into_the_low_queue : ((after (.activeMessageAccept 0) (message 2 [⟨5, false⟩])).core home).lowQ.map (fun m => m.args) = [[⟨5, false⟩]] := by decide +kernel
theorem test_lease_granted_until_its_clk : let s := toHall (.leaseReq .compute 0 1000 1 home 1 (some 1))
    ((after (.leaseRecord 0) s).hall (hallOf home)).leases.map (fun e => (e.idx, e.expiry, e.lessee)) = [(0, 1100, 1)] := by decide +kernel
theorem test_lease_expires : let s := { calm with clk := 500 }.modHall 0 (fun h => { h with leases := [{ lid := 0, kind := .compute, idx := 0, expiry := 500, lessee := 1 }] })
    ((after (.leaseExpiry 0 0) s).hall 0).leases = [] := by decide +kernel
theorem test_interest_recorded_at_its_rendezvous : ((after (.interestAtRendezvous 0) (routed [wish .want false rv rv])).core rv).pit.map (fun e => (e.name, e.expiry)) = [(7, 200)] := by decide +kernel
theorem test_offer_refused_without_a_lifetime : (match sentBy (.offerAtRendezvous 0) (routed [offered rv rv 0]) with | some (.train t) => decide (t.code = .answer 2) | _ => false) = true := by decide +kernel
theorem test_offer_stored : let t := after (.offerAtRendezvous 0) (routed [offered rv rv 1024])
    (t.core rv).dir.map (fun d => (d.held, d.expiry, d.block, d.len)) = [(true, 1124, 8, 3)] ∧ Memory.readN t.mem (sramPa rv 0x8000) 3 = [1, 2, 3] := by decide +kernel
theorem test_seal_recorded : ((after (.sealAtRendezvous 0) (routed [wish .sealI false rv rv])).core rv).seals.map (fun r => (r.tensor, r.si)) = [(0, 7)] := by decide +kernel
theorem test_matrix_command_takes_its_clk : let s := core0 (fun c => { c with mqueue := [{ op := .mbld 0 bmat 0 1 }] })
    ((after (.matrixCommandStart home) s).core home).mqueue.map (fun m => m.finish) = [some 256] := by decide +kernel
theorem test_handover_ends : let s := { calm with clk := 32 }.modColumn (colOf home) (fun k => { k with lic := { handover := some (1, 32) } })
    let l := ((after (.licenceHandoverEnd (colOf home)) s).column (colOf home)).lic
    (l.handover, l.last, l.hovers) = (none, some 1, 1) := by decide +kernel
theorem test_copy_piece_moves : let b := sramCap 0x9000 1 15 0
    let s := atSram (core0 (fun k => { k with copyQ := [{ dst := sramCap 0xA000 1 15 0, src := ⟨b, true⟩, total := 256 }] })) 0x9000 [5, 6]
    let t := after (.copyPiece home 2) { s with clk := 100 }
    (t.core home).copyQ.all (fun c => decide (0 < c.read)) = true := by decide +kernel
theorem test_droop_halves_the_clock : let t := after (.droopAlarm 0) { calm with clk := 10 }
    (t.group 0).until_ = some 4107 ∧ t.delay 0 8 = 15 ∧ t.alarm = 1 := by decide +kernel
theorem test_governor_gates : (((after (.governorGate 3 96) calm).hall 3).gating, ((after (.governorGate 3 100) calm).hall 3).gating, ((after (.governorGate 3 94) calm).hall 3).gating) = (2, 4, 1) := by decide +kernel
theorem test_doorbell_backwards_is_an_error : let s : State := { calm with queues := [(3, { head := 1, tail := 9 })] }
    ((after (.doorbell 3 4) s).queue 3) = { dberr := true, head := 1, tail := 9 } ∧ ((after (.doorbell 3 12) s).queue 3).tail = 12 := by decide +kernel
theorem test_flush_cancels : ((after (.queueFlush 3) { calm with queues := [(3, { head := 1, tail := 3 })] }).records.map (fun r => (r.src, r.lid, r.status))) =
    [(3, 0xFF, .cancelled), (3, 0xFF, .cancelled)] := by decide +kernel
theorem test_step_admits_two_rows_at_1200 : let s := (calm.modLaunch 0 (fun l => { l with phase := .admission, rows := [0, 1, 2] }))
    ((after (.staggerStep 0) { s with stepA := 0x04B0 }).launch 0).rows = [2] ∧ ((after (.staggerStep 0) { s with stepA := 0x04B0 }).launch 0).nextStep = 260 := by decide +kernel
theorem test_launch_ends : let s := calm.modCore home (fun c => { c with ctxs := [] })
    ((after (.launchEnd 0) s).records.map (fun r => (r.lid, r.status))) = [(0, .ok)] ∧ (after (.launchEnd 0) s).launches = [] := by decide +kernel
theorem test_tt_count_reads_and_clears : let s : State := { calm with tt := [(3, { missed := 2, fired := 5 })] }
    (after (.ttCntRead 3) s).hostData = [5, 0, 0, 0, 2, 0, 0, 0] ∧ ((after (.ttCntRead 3) s).ttEntry 3).missed = 0 := by decide +kernel
theorem test_w2_write_then_read : let s : State := { calm with w2Base := BitVec.ofNat 16 (2 ^ 12) }
    (after (.w2Read 0x200 2) { after (.w2Write 0x200 [7, 8]) s with clk := 100 }).hostData = [7, 8] := by decide +kernel
theorem test_w2_read_outside_ready : (after (.w2Read 0 2) State.reset).hostData = [0xFF, 0xFF] ∧ (after (.w2Read 0 2) State.reset).w2Err = true := by decide +kernel
theorem test_debug_cancel : let s := ((calm.modLaunch 0 (fun l => { l with halted := some 0 })).setRegAt home 1 7 (Reg.pending 1))
    (((after (.dbgCancel 0 1 7) s).core home).ctx 1).reg 7 = Reg.poison 9 := by decide +kernel
theorem test_time_correction_steps_above_1_ms : (after (.timeCorrection 1000001) calm).time13 = 13000013 ∧ (after (.timeCorrection 999999) calm).time13 = 0 := by decide +kernel
theorem test_power_loss : (after .powerLoss calm).powered = false ∧ (after .powerLoss calm).launches = [] := by decide +kernel
/-- R173, R444: a PENDING register that ctxsv.cancel saves leaves that state, CANCELLED. -/
theorem test_saved_register_is_cancelled :
    let s := (withReg calm 4 (sramCap 0x9000 16 15 0) true).setRegAt home 1 7 (Reg.pending 1)
    resultIn 7 (.ctxsv true { ty := .b, s1 := .reg 4 }) s = Reg.poison 0x02 := by decide +kernel
theorem test_bad_op : (after (.badOp 9 0) calm).mb.result = .badOp ∧ (after (.badOp 9 0) calm).msix = [63] := by decide +kernel
/-- The peer feature records of a module whose ports 28 and 29 are down: the word at 8, and the fourth record's STATUS (R39). -/
theorem test_feature_list_example :
    let s : State := { calm with out := { calm.out with ttTable := false, stochastic := false, tierCrypt := false, peersUp := 0xCFFFFFFF }, mb := { calm.mb with featuresBuilt := true } }
    [0x8, 0x100, 0x110, 0x120, 0x130].map s.w0Word = [0x100, 0x000110FF02010001, 0x000120FF02010001, 0x000130FF02010001, 0x000000CF02010001] := by decide +kernel

end Sys2Proof.Tests
end

/-! PROOFS. ClocksAndTime: a throttle starts in the clk after its alarm (R465), so no group that ran at full clock is halved in the
alarm's own clk, as the obligation has it. -/

namespace Sys2Proof.Machine
open Sys2Proof

/-- A group reads as it was changed after a retiming. -/
theorem group_retimeGroup_self (s : State) (g : Nat) (f : Nat → Nat) (m : PowerGroup → PowerGroup) :
    (s.retimeGroup g f m).group g = m (s.group g) := getAt_putAt_self ..

/-- A power group as an alarm at a clk leaves it: throttled for 4,096 clk from the next one (R21, R465). -/
def PowerGroup.throttledAfter (clk : Nat) (p : PowerGroup) : PowerGroup := { p with until_ := some (clk + 1 + 4096), since := clk + 1 }

/-- The throttle of an alarm covers the clk after the alarm's, and not the alarm's own (R465). -/
theorem halvedAt_throttledAfter (p : PowerGroup) (clk c : Nat) : (p.throttledAfter clk).halvedAt c = true ↔ clk < c := by
  show (true && decide (clk + 1 ≤ c)) = true ↔ clk < c
  rw [Bool.true_and]
  exact decide_eq_true_iff.trans Nat.succ_le_iff

/-- DROOP_ALARM of a group without a throttle: the retimed state, with the group's ALARM bit (R21). -/
theorem exec_droopAlarm_of_unthrottled {s : State} {g : Nat} (hg : g < 16) (hu : (s.group g).until_ = none) :
    exec (.droopAlarm g) s = .next { s.retimeGroup g (stretch (s.clk + 1)) (PowerGroup.throttledAfter s.clk) with
      alarm := s.alarm ||| BitVec.ofNat 16 (2 ^ g) } := by
  show execDroopAlarm g s = _
  rw [execDroopAlarm, if_neg (by omega), hu]
  rfl

/-- A group that ran at full clock still does so in the clk of its alarm (R465). -/
theorem not_halved_after_droopAlarm {s t : State} {g : Nat} (hg : g < 16) (hu : (s.group g).until_ = none)
    (h : exec (.droopAlarm g) s = .next t) : t.halved g = false := by
  rw [exec_droopAlarm_of_unthrottled hg hu] at h
  injection h with ht
  have hgroup : t.group g = (s.group g).throttledAfter s.clk := by
    subst ht
    exact group_retimeGroup_self s g (stretch (s.clk + 1)) (PowerGroup.throttledAfter s.clk)
  have hclk : t.clk = s.clk := by
    subst ht
    rfl
  rw [State.halved, hgroup, hclk, ← Bool.not_eq_true, halvedAt_throttledAfter]
  exact Nat.lt_irrefl s.clk

end Sys2Proof.Machine

section
open Sys2Proof Sys2Proof.Machine

/-- Refutes O53: an alarm of group 0 in the state after reset, at clk 0, starts a throttle whose first clk is 1, and the obligation has the
group halved at clk 0. -/
theorem not_clocksAndTime : ¬ Obligations.ClocksAndTime := by
  rintro ⟨⟨hgroups, -, -⟩, -, -⟩
  obtain ⟨⟨t, hexec, -, hhalved, -⟩, -, -⟩ := hgroups 0 State.reset (by decide)
  have hnot : t.halved 0 = false := not_halved_after_droopAlarm (by decide) rfl hexec
  exact Bool.noConfusion (hnot.symm.trans hhalved)

end

/-! PROOFS. HostAccess, the registers: what an aligned 64-bit write of W0 does, block by block of the register map (R6, R7). -/

namespace Sys2Proof.Machine
open Sys2Proof

/-! ## Runs of bytes in memory (R4, R201) -/

theorem writeN_concat (m : List Host.Cell) (a : Nat) (bs : List Byte) (b : Byte) :
    Memory.writeN m a (bs ++ [b]) = Memory.write (Memory.writeN m a bs) (a + bs.length) b := by
  induction bs generalizing m a with
  | nil => rfl
  | cons c r ih =>
    simp only [List.cons_append, Memory.writeN, ih, List.length_cons]
    congr 1
    omega

theorem natBytes_succ_concat (n v : Nat) : natBytes (n + 1) v = natBytes n v ++ [BitVec.ofNat 8 (v / 256 ^ n)] := by
  induction n generalizing v with
  | zero => simp [natBytes]
  | succ n ih =>
    rw [natBytes, ih (v / 256), natBytes, List.cons_append, Nat.div_div_eq_div_mul, Nat.pow_succ']

theorem natBytes_bytesNat (bs : List Byte) : natBytes bs.length (bytesNat bs) = bs := by
  induction bs with
  | nil => rfl
  | cons b r ih =>
    have hb := b.isLt
    have hhead : BitVec.ofNat 8 (b.toNat + 256 * bytesNat r) = b := by
      apply BitVec.eq_of_toNat_eq
      simp only [BitVec.toNat_ofNat]
      omega
    have htail : (b.toNat + 256 * bytesNat r) / 256 = bytesNat r := by omega
    rw [List.length_cons, bytesNat, natBytes, hhead, htail, ih]

/-- A run of bytes reads back where it was written. -/
theorem readN_writeN {m : List Host.Cell} (a : Nat) (bs : List Byte) (h : Memory.wf m = true) :
    Memory.readN (Memory.writeN m a bs) a bs.length = bs := by
  apply List.ext_getElem
  · exact length_readN ..
  · intro i _ hi
    rw [getElem_readN, read_writeN a i bs h hi]

/-- A write without nibble masks is a plain write. -/
theorem writeMasked_nil (m : List Host.Cell) (a : Nat) (bs : List Byte) : Memory.writeMasked m a bs [] = Memory.writeN m a bs := by
  induction bs generalizing m a with
  | nil => rfl
  | cons b r ih => exact ih _ _

/-! ## A write of a whole word -/

/-- The mask of a write of all eight bytes of a word. -/
def fullMask : W64 := BitVec.allOnes 64

@[simp] theorem and_fullMask (v : W64) : v &&& fullMask = v := BitVec.and_allOnes

@[simp] theorem blend_fullMask (old v : W64) : blend old v fullMask = v := by
  rw [blend, and_fullMask, fullMask, BitVec.not_allOnes, BitVec.and_zero, BitVec.zero_or]

theorem hits_fullMask {k : Nat} (h : k < 8) : hits fullMask k = true := by
  rw [hits, fullMask, BitVec.getLsbD_allOnes]
  exact decide_eq_true (by omega)

@[simp] theorem hits_fullMask_zero : hits fullMask 0 = true := hits_fullMask (by decide)

/-- An aligned 64-bit register write is one word write under the full mask. -/
theorem exec_registerWrite_word {s : State} {off : Nat} (v : W64) (hp : s.powered = true) (ha : off % 8 = 0) :
    exec (.registerWrite off 8 v) s = .next (s.writeWord off v fullMask) := by
  have hm : byteMask 0 8 = fullMask := by decide
  show execRegisterWrite off 8 v s = _
  simp [execRegisterWrite, hp, ha, hm, happens]

/-- The bytes of a whole word written to a byte area, lowest first. -/
theorem putBytes_fullMask (w : List Host.Cell) (off : Nat) (v : W64) {n : Nat} (hn : n ≤ 8) :
    putBytes w off v fullMask n = Memory.writeN w off (natBytes n v.toNat) := by
  induction n with
  | zero => rfl
  | succ k ih =>
    have hbyte : v.extractLsb' (8 * k) 8 = BitVec.ofNat 8 (v.toNat / 256 ^ k) := by
      apply BitVec.eq_of_toNat_eq
      rw [BitVec.extractLsb'_toNat, BitVec.toNat_ofNat, Nat.shiftRight_eq_div_pow, Nat.pow_mul]
    rw [natBytes_succ_concat, writeN_concat, length_natBytes, ← ih (by omega), ← hbyte]
    simp [putBytes, hits_fullMask (show k < 8 by omega)]

/-! ## The blocks of the register map -/

section
variable {s : State} {off : Nat} (v m : W64)

theorem byteArea_iff : s.byteArea off = true ↔ 0x100000 ≤ off ∧ off < 0x140000 ∨
    s.out.ttTable = true ∧ 0x160000 ≤ off ∧ off < 0x180000 ∧ off % 0x200 < 0x100 ∨ 0xF00000 ≤ off ∧ off < 0x1000000 := by
  simp only [State.byteArea, Bool.or_eq_true, Bool.and_eq_true, decide_eq_true_eq]
  rw [or_assoc, and_comm (b := s.out.ttTable = true), and_assoc (a := 0x160000 ≤ off)]

/-- A queue slot, a time-triggered record or the MSI-X table. -/
theorem writeWord_byteArea (h : s.byteArea off = true) : s.writeWord off v m = { s with w0 := putBytes s.w0 off v m 8 } := by
  simp [State.writeWord, h]

/-- The registers of the command block: queues, ring, PREEMPT and debugger. -/
theorem writeWord_cmd {o : Nat} (h₁ : 0x40000 ≤ o) (h₂ : o < 0x60000) : s.writeWord (0x100000 + o) v m = s.writeCmd o v m := by
  have hb : s.byteArea (0x100000 + o) ≠ true := by
    rw [Ne, byteArea_iff]
    omega
  have htt : ¬(0x160000 ≤ 0x100000 + o) := by omega
  have hc : 0x100000 ≤ 0x100000 + o ∧ 0x100000 + o < 0x180000 := by omega
  simp only [State.writeWord, hb, Bool.and_eq_true, decide_eq_true_eq, htt, hc, and_self, false_and, if_true, if_false,
    Bool.false_eq_true, Nat.add_sub_cancel_left]

/-- START, PERIOD, CTL and CNT of a time-triggered entry, where the table is fitted. -/
theorem writeWord_tt {e o : Nat} (he : e < 256) (h₁ : 0x100 ≤ o) (h₂ : o < 0x200) (hf : s.out.ttTable = true) :
    s.writeWord (0x160000 + 0x200 * e + o) v m = s.writeTt e o v m := by
  have hb : s.byteArea (0x160000 + 0x200 * e + o) ≠ true := by
    rw [Ne, byteArea_iff]
    omega
  have htt : 0x160000 ≤ 0x160000 + 0x200 * e + o ∧ 0x160000 + 0x200 * e + o < 0x180000 := by omega
  have hentry : (0x160000 + 0x200 * e + o - 0x160000) / 0x200 = e := by omega
  have hplace : (0x160000 + 0x200 * e + o) % 0x200 = o := by omega
  simp only [State.writeWord, hb, Bool.and_eq_true, decide_eq_true_eq, htt, and_self, hf, hentry, hplace, if_true,
    if_false, Bool.false_eq_true]

/-- The time-triggered table where it is not fitted. -/
theorem writeWord_tt_absent (h₁ : 0x160000 ≤ off) (h₂ : off < 0x180000) (hf : s.out.ttTable = false) : s.writeWord off v m = s := by
  have hb : s.byteArea off ≠ true := by
    simp only [Ne, byteArea_iff, hf, Bool.false_eq_true, false_and, false_or]
    omega
  simp [State.writeWord, hb, h₁, h₂, hf]

/-- MB_NONCE, a word of it. -/
theorem writeWord_nonce {k : Nat} (hk : k < 4) : s.writeWord (0x10020 + 8 * k) v fullMask = { s with mb := { s.mb with
    nonce := (s.mb.nonce &&& ~~~((BitVec.allOnes 64).setWidth 256 <<< (64 * k))) ||| (v.setWidth 256 <<< (64 * k)) } } := by
  have hb : s.byteArea (0x10020 + 8 * k) ≠ true := by
    rw [Ne, byteArea_iff]
    omega
  have htt : ¬(0x160000 ≤ 0x10020 + 8 * k ∧ 0x10020 + 8 * k < 0x180000) := by omega
  have hc : ¬(0x100000 ≤ 0x10020 + 8 * k ∧ 0x10020 + 8 * k < 0x180000) := by omega
  have hn : 0x10020 ≤ 0x10020 + 8 * k ∧ 0x10020 + 8 * k < 0x10040 := by omega
  have hshift : 8 * (8 * k) = 64 * k := by omega
  simp only [State.writeWord, hb, Bool.and_eq_true, decide_eq_true_eq, htt, hc, hn, and_self, hshift, blend_fullMask, if_true, if_false,
    Bool.false_eq_true, Nat.add_sub_cancel_left]

/-- An offset of no area and no writable register: a read-only word or an unassigned address (R6, R7). -/
theorem writeWord_ignored (h : off = 0x8 ∨ off = 0x10 ∨ 0x100 ≤ off ∧ off < 0x200 ∨ off = 0x10010 ∨ 0x11000 ≤ off ∧ off < 0x100000 ∨
    0x180000 ≤ off ∧ off < 0xF00000) : s.writeWord off v m = s := by
  have hb : s.byteArea off ≠ true := by
    rw [Ne, byteArea_iff]
    omega
  have htt : ¬(0x160000 ≤ off ∧ off < 0x180000) := by omega
  have hc : ¬(0x100000 ≤ off ∧ off < 0x180000) := by omega
  have hn : ¬(0x10020 ≤ off ∧ off < 0x10040) := by omega
  simp only [State.writeWord, hb, Bool.and_eq_true, decide_eq_true_eq, htt, hc, hn, if_false, Bool.false_eq_true]
  split
  case h_7 => rfl
  all_goals omega

end

/-! ## Breakpoints, queues and the fields of a wide register -/

/-- A breakpoint's first word is its VA, its second EN, ANYL and L; the other breakpoints stay (R274). -/
theorem writeBp_va (s : State) (n : Nat) (v : W64) : s.writeBp (0x43040 + 16 * n) v =
    { s with cmd := { s.cmd with bps := putAt n (v.extractLsb' 0 48, (s.cmd.bp n).2) s.cmd.bps } } := by
  have hi : (0x43040 + 16 * n - 0x43040) / 16 = n := by omega
  have hw : (0x43040 + 16 * n) % 16 = 0 := by omega
  simp only [State.writeBp, hi, hw, if_true]

theorem writeBp_control (s : State) (n : Nat) (v : W64) : s.writeBp (0x43048 + 16 * n) v =
    { s with cmd := { s.cmd with
      bps := putAt n ((s.cmd.bp n).1, v.getLsbD 63, v.getLsbD 62, v.extractLsb' 0 20) s.cmd.bps } } := by
  have hi : (0x43048 + 16 * n - 0x43040) / 16 = n := by omega
  have hw : ¬(0x43048 + 16 * n) % 16 = 0 := by omega
  simp only [State.writeBp, hi, hw, if_false]

theorem writeCmd_bp {s : State} {o : Nat} (v : W64) (h₁ : 0x43040 ≤ o) (h₂ : o < 0x43080) : s.writeCmd o v fullMask = s.writeBp o v := by
  have hq : ¬(o < 0x40080) := by omega
  unfold State.writeCmd
  simp only [hq, h₁, h₂, decide_false, decide_true, Bool.and_false, Bool.and_self, if_true, if_false, Bool.false_eq_true,
    blend_fullMask]

theorem writeCmd_queue {s : State} {q : Nat} (v m : W64) (hq : q < 16) : s.writeCmd (0x40000 + 8 * q) v m = s.writeQueueReg q v m := by
  have hlt : 0x40000 + 8 * q < 0x40080 := by omega
  have hi : (0x40000 + 8 * q - 0x40000) / 8 = q := by omega
  unfold State.writeCmd
  simp only [hlt, hi, Nat.le_add_right, decide_true, Bool.and_self, if_true]

/-- A 64-bit field put at a place of a 256-bit value reads back there, and the other 64-bit fields stay. -/
theorem extract_putField (x : BitVec 256) (v : W64) {j k : Nat} (hj : j < 4) (hk : k < 4) :
    ((x &&& ~~~((BitVec.allOnes 64).setWidth 256 <<< (64 * k))) ||| (v.setWidth 256 <<< (64 * k))).extractLsb' (64 * j) 64
      = if j = k then v else x.extractLsb' (64 * j) 64 := by
  ext i hi
  have hin : 64 * j + i < 256 := by omega
  by_cases hjk : j = k
  · subst hjk
    simp only [BitVec.getElem_extractLsb', BitVec.getLsbD_or, BitVec.getLsbD_and, BitVec.getLsbD_not, BitVec.getLsbD_shiftLeft,
      BitVec.getLsbD_setWidth, BitVec.getLsbD_allOnes, if_true]
    have hself : ¬(64 * j + i < 64 * j) := by omega
    have hwide : i < 256 := by omega
    simp only [hin, hi, hself, hwide, Nat.add_sub_cancel_left, decide_true, decide_false, Bool.true_and, Bool.and_true, Bool.not_false,
      Bool.not_true, Bool.and_false, Bool.false_or]
    exact BitVec.getLsbD_eq_getElem hi
  · simp only [BitVec.getElem_extractLsb', BitVec.getLsbD_or, BitVec.getLsbD_and, BitVec.getLsbD_not, BitVec.getLsbD_shiftLeft,
      BitVec.getLsbD_setWidth, BitVec.getLsbD_allOnes, hjk, if_false]
    have hout : 64 * j + i < 64 * k ∨ 64 ≤ 64 * j + i - 64 * k := by omega
    rcases hout with hlo | hhi
    · simp only [hin, hlo, decide_true, Bool.not_true, Bool.false_and, Bool.and_false, Bool.or_false, Bool.not_false, Bool.and_true]
    · have hoff : v.getLsbD (64 * j + i - 64 * k) = false := BitVec.getLsbD_of_ge _ _ hhi
      have hpast : ¬(64 * j + i - 64 * k < 64) := by omega
      simp only [hin, hoff, hpast, decide_true, decide_false, Bool.and_false, Bool.not_false, Bool.and_true, Bool.or_false]

/-! ## The registers one by one -/

section
variable (s : State) (v : W64)

theorem writeWord_powerStep : s.writeWord 0x1000 v fullMask = { s with stepA := v.extractLsb' 0 16 } := by
  rw [State.writeWord, blend_fullMask]
  rfl

theorem writeWord_powerDroop : s.writeWord 0x1008 v fullMask = { s with alarm := s.alarm &&& ~~~(v.extractLsb' 16 16) } := by
  rw [State.writeWord, and_fullMask]
  rfl

theorem writeWord_w2Ctl : s.writeWord 0x2000 v fullMask = s.writeW2Ctl v fullMask := rfl

theorem writeWord_mbImage : s.writeWord 0x10008 v fullMask = { s with mb := { s.mb with img := v } } := by
  rw [State.writeWord, blend_fullMask]
  rfl

theorem writeWord_mbCommand : s.writeWord 0x10000 v fullMask = s.command (v.extractLsb' 0 8) (v.extractLsb' 32 32) := by
  show s.writeMbCmd v fullMask = _
  rw [State.writeMbCmd, blend_fullMask, hits_fullMask_zero, if_pos rfl]

/-- W2_CTL: BASE is taken from the word, and a one in ERR's place clears ERR (R30). -/
theorem writeW2Ctl_fullMask : s.writeW2Ctl v fullMask =
    { s with w2Base := v.extractLsb' 36 16, w2Err := s.w2Err && !v.getLsbD 1 } := by
  rw [State.writeW2Ctl, blend_fullMask, and_fullMask]

theorem writeCmd_ringBase : s.writeCmd 0x41000 v fullMask = { s with cmd := { s.cmd with crBase := v.extractLsb' 6 58 ++ 0#6 } } := by
  simp [State.writeCmd.eq_def]

theorem writeCmd_ringSize :
    s.writeCmd 0x41008 v fullMask = { s with cmd := { s.cmd with log2n := v.extractLsb' 0 5, crEn := v.getLsbD 8 } } := by
  simp [State.writeCmd.eq_def]

theorem writeCmd_ringHead : s.writeCmd 0x41010 v fullMask = { s with cmd := { s.cmd with crHead := v.extractLsb' 0 16 } } := by
  simp [State.writeCmd.eq_def]

/-- GO written while none is under way asks for the pre-emption of the word's LID (R70). -/
theorem writeCmd_preempt (hgo : s.cmd.preGo = false) (hv : v.getLsbD 8 = true) :
    s.writeCmd 0x42000 v fullMask = s.askPreempt (v.extractLsb' 0 8) := by
  show s.writePreempt v fullMask = _
  simp [State.writePreempt, hgo, hv]

theorem writeCmd_debugControl :
    s.writeCmd 0x43000 v fullMask = s.writeDbgCtl (v.extractLsb' 8 8) (v.getLsbD 2) (v.getLsbD 1) (v.getLsbD 0) := by
  show s.writeDbg v fullMask = _
  simp [State.writeDbg]

theorem writeCmd_debugSelect : s.writeCmd 0x43008 v fullMask = s.writeSel v fullMask := by
  simp [State.writeCmd.eq_def]

/-- DBG_SEL makes the one access that its OP names: a read, a write or a cancel (R275). -/
theorem writeSel_read (hop : v.extractLsb' 62 2 = 0) : s.writeSel v fullMask =
    s.dbgRead 0 (v.extractLsb' 40 20) (v.extractLsb' 37 3) (v.extractLsb' 31 6) := by
  simp [State.writeSel, hop]

theorem writeSel_write (hop : v.extractLsb' 62 2 = 1) : s.writeSel v fullMask =
    s.dbgWrite (v.extractLsb' 40 20) (v.extractLsb' 37 3) (v.extractLsb' 31 6) := by
  simp [State.writeSel, hop]

theorem writeSel_cancel (hop : v.extractLsb' 62 2 = 2) : s.writeSel v fullMask =
    s.dbgCancel (v.extractLsb' 40 20) (v.extractLsb' 37 3) (v.extractLsb' 31 6) := by
  simp [State.writeSel, hop]

theorem writeCmd_debugDataLow :
    s.writeCmd 0x43010 v fullMask = { s with cmd := { s.cmd with dbgData := s.cmd.dbgData.extractLsb' 64 64 ++ v } } := by
  simp [State.writeCmd.eq_def]

theorem writeCmd_debugDataHigh :
    s.writeCmd 0x43018 v fullMask = { s with cmd := { s.cmd with dbgData := v ++ s.cmd.dbgData.extractLsb' 0 64 } } := by
  simp [State.writeCmd.eq_def]

theorem writeCmd_debugMeta : s.writeCmd 0x43020 v fullMask = { s with cmd := { s.cmd with dbgMeta := v.extractLsb' 0 32 } } := by
  simp [State.writeCmd.eq_def]

/-- A write of Q_REG without DBERR and FLUSH is the doorbell (R55). -/
theorem writeQueueReg_doorbell (q : Nat) (hdberr : v.getLsbD 17 = false) (hflush : v.getLsbD 18 = false) :
    s.writeQueueReg q v fullMask = s.ringDoorbell q (v.extractLsb' 0 6) := by
  simp only [State.writeQueueReg, and_fullMask, hits_fullMask_zero, hdberr, hflush, if_true, if_false, Bool.false_eq_true]

variable (e : Nat)

theorem writeTt_start : s.writeTt e 0x100 v fullMask = s.modTt e (fun x => { x with start := v }) := by
  rw [State.writeTt, blend_fullMask]

theorem writeTt_period : s.writeTt e 0x108 v fullMask = s.modTt e (fun x => { x with period := v }) := by
  rw [State.writeTt, blend_fullMask]

theorem writeTt_control : s.writeTt e 0x110 v fullMask = s.writeTtCtl e (v.extractLsb' 1 2) (v.getLsbD 0) := by
  rw [State.writeTt, blend_fullMask, hits_fullMask_zero, if_pos rfl]

theorem writeTt_counts : s.writeTt e 0x118 v fullMask = s := rfl

/-- EN written 0 disarms the entry and sets its RULE (R68). -/
theorem writeTtCtl_disarm {e : Nat} (rule : BitVec 2) (he : e < 256) (hf : s.out.ttTable = true) :
    (s.writeTtCtl e rule false).ttEntry e = { s.ttEntry e with rule := rule, en := false, late := none } := by
  have hin : ¬256 ≤ e := by omega
  simp [State.writeTtCtl, hin, hf]

end

/-! ## The statements of the register map -/

section
variable {s : State} (v : W64) (hp : s.powered = true)
include hp

/-- A 64-bit write of a word, by what it makes of the state. -/
theorem exec_registerWrite_of {t : State} {off : Nat} (ha : off % 8 = 0) (h : s.writeWord off v fullMask = t) :
    exec (.registerWrite off 8 v) s = .next t := by
  rw [exec_registerWrite_word v hp ha, h]

/-- A 64-bit write of a register of the command block. -/
theorem exec_registerWrite_cmd {t : State} {o : Nat} (h₁ : 0x40000 ≤ o) (h₂ : o < 0x60000) (ha : o % 8 = 0)
    (h : s.writeCmd o v fullMask = t) : exec (.registerWrite (0x100000 + o) 8 v) s = .next t :=
  exec_registerWrite_of v hp (by omega) ((writeWord_cmd v fullMask h₁ h₂).trans h)

/-- A 64-bit write of a time-triggered entry's word past its record. -/
theorem exec_registerWrite_tt {t : State} {e o : Nat} (he : e < 256) (h₁ : 0x100 ≤ o) (h₂ : o < 0x200) (ha : o % 8 = 0)
    (hf : s.out.ttTable = true) (h : s.writeTt e o v fullMask = t) : exec (.registerWrite (0x160000 + 0x200 * e + o) 8 v) s = .next t :=
  exec_registerWrite_of v hp (by omega) ((writeWord_tt v fullMask he h₁ h₂ hf).trans h)

/-- A breakpoint's words: each sets its own fields, and no other breakpoint changes (R274). -/
theorem breakpoint_registers (n : Nat) (hn : n < 4) :
    (∃ t, exec (.registerWrite (0x143040 + 16 * n) 8 v) s = .next t ∧ t = { s with cmd := { s.cmd with bps := t.cmd.bps } } ∧
      t.cmd.bp n = (v.extractLsb' 0 48, (s.cmd.bp n).2) ∧ ∀ m, m ≠ n → t.cmd.bp m = s.cmd.bp m) ∧
    ∃ t, exec (.registerWrite (0x143048 + 16 * n) 8 v) s = .next t ∧ t = { s with cmd := { s.cmd with bps := t.cmd.bps } } ∧
      t.cmd.bp n = ((s.cmd.bp n).1, v.getLsbD 63, v.getLsbD 62, v.extractLsb' 0 20) ∧ ∀ m, m ≠ n → t.cmd.bp m = s.cmd.bp m := by
  have hva : exec (.registerWrite (0x143040 + 16 * n) 8 v) s = .next (s.writeBp (0x43040 + 16 * n) v) := by
    rw [show 0x143040 + 16 * n = 0x100000 + (0x43040 + 16 * n) by omega]
    exact exec_registerWrite_cmd v hp (by omega) (by omega) (by omega) (writeCmd_bp v (by omega) (by omega))
  have hcontrol : exec (.registerWrite (0x143048 + 16 * n) 8 v) s = .next (s.writeBp (0x43048 + 16 * n) v) := by
    rw [show 0x143048 + 16 * n = 0x100000 + (0x43048 + 16 * n) by omega]
    exact exec_registerWrite_cmd v hp (by omega) (by omega) (by omega) (writeCmd_bp v (by omega) (by omega))
  rw [writeBp_va] at hva
  rw [writeBp_control] at hcontrol
  exact ⟨⟨_, hva, rfl, getAt_putAt_self .., fun m hm => getAt_putAt_ne _ _ hm _⟩,
    ⟨_, hcontrol, rfl, getAt_putAt_self .., fun m hm => getAt_putAt_ne _ _ hm _⟩⟩

/-- MB_NONCE: each of its four words is set alone (R41). -/
theorem nonce_registers (k : Nat) (hk : k < 4) :
    ∃ t, exec (.registerWrite (0x10020 + 8 * k) 8 v) s = .next t ∧ t = { s with mb := { s.mb with nonce := t.mb.nonce } } ∧
      t.mb.nonce.extractLsb' (64 * k) 64 = v ∧ ∀ j < 4, j ≠ k → t.mb.nonce.extractLsb' (64 * j) 64 = s.mb.nonce.extractLsb' (64 * j) 64 := by
  refine ⟨_, exec_registerWrite_of v hp (by omega) (writeWord_nonce v hk), rfl, ?_, ?_⟩
  · exact (extract_putField _ v hk hk).trans (if_pos rfl)
  · intro j hj hjk
    exact (extract_putField _ v hj hk).trans (if_neg hjk)

/-- A time-triggered entry's registers, where the table is fitted and where it is not (R68). -/
theorem timeTable_registers (e : Nat) (he : e < 256) :
    (s.out.ttTable = false → ∀ o < 64, exec (.registerWrite (0x160000 + 0x200 * e + 8 * o) 8 v) s = .next s) ∧
    (s.out.ttTable = true →
      (∃ t, exec (.registerWrite (0x160000 + 0x200 * e + 0x100) 8 v) s = .next t ∧
        t.ttEntry e = { s.ttEntry e with start := v } ∧ t.mem = s.mem) ∧
      (∃ t, exec (.registerWrite (0x160000 + 0x200 * e + 0x108) 8 v) s = .next t ∧
        t.ttEntry e = { s.ttEntry e with period := v } ∧ t.mem = s.mem) ∧
      (v.getLsbD 0 = true →
        exec (.registerWrite (0x160000 + 0x200 * e + 0x110) 8 v) s = exec (.ttArm e (v.extractLsb' 1 2)) s) ∧
      (v.getLsbD 0 = false → ∃ t, exec (.registerWrite (0x160000 + 0x200 * e + 0x110) 8 v) s = .next t ∧
        t.ttEntry e = { s.ttEntry e with rule := v.extractLsb' 1 2, en := false, late := none }) ∧
      exec (.registerWrite (0x160000 + 0x200 * e + 0x118) 8 v) s = .next s) := by
  refine ⟨fun hf o ho => ?_, fun hf => ⟨?_, ?_, fun hen => ?_, fun hen => ?_, ?_⟩⟩
  · exact exec_registerWrite_of v hp (by omega) (writeWord_tt_absent v _ (by omega) (by omega) hf)
  · exact ⟨_, exec_registerWrite_tt v hp he (by decide) (by decide) (by decide) hf (writeTt_start s v e), ttEntry_modTt_self .., rfl⟩
  · exact ⟨_, exec_registerWrite_tt v hp he (by decide) (by decide) (by decide) hf (writeTt_period s v e), ttEntry_modTt_self .., rfl⟩
  · rw [exec_registerWrite_tt v hp he (by decide) (by decide) (by decide) hf (writeTt_control s v e), hen]
    rfl
  · refine ⟨_, exec_registerWrite_tt v hp he (by decide) (by decide) (by decide) hf (writeTt_control s v e), ?_⟩
    rw [hen]
    exact writeTtCtl_disarm s _ he hf
  · exact exec_registerWrite_tt v hp he (by decide) (by decide) (by decide) hf (writeTt_counts s v e)

/-- A queue's register: a write without DBERR and FLUSH is the doorbell (R55). -/
theorem queue_register (q : Nat) (hq : q < 16) (hdberr : v.getLsbD 17 = false) (hflush : v.getLsbD 18 = false) :
    exec (.registerWrite (0x140000 + 8 * q) 8 v) s = exec (.doorbell q (v.extractLsb' 0 6)) s := by
  rw [show 0x140000 + 8 * q = 0x100000 + (0x40000 + 8 * q) by omega]
  exact exec_registerWrite_cmd v hp (by omega) (by omega) (by omega)
    ((writeCmd_queue v fullMask hq).trans (writeQueueReg_doorbell s v q hdberr hflush))

/-- The byte areas hold the bytes written, and no other byte of W0 changes. -/
theorem byteArea_registers (off : Nat) (ha : off % 8 = 0) (hb : s.byteArea off = true) (hw : Memory.wf s.w0 = true) :
    ∃ t, exec (.registerWrite off 8 v) s = .next t ∧ Memory.readN t.w0 off 8 = natBytes 8 v.toNat ∧
      (∀ x, (x < off ∨ off + 8 ≤ x) → Memory.read t.w0 x = Memory.read s.w0 x) ∧ t.mem = s.mem ∧ t.queues = s.queues := by
  refine ⟨_, exec_registerWrite_of v hp ha (writeWord_byteArea v _ hb), ?_, ?_, rfl, rfl⟩
  · rw [putBytes_fullMask _ _ _ (Nat.le_refl 8)]
    exact readN_writeN off (natBytes 8 v.toNat) hw
  · intro x hx
    rw [putBytes_fullMask _ _ _ (Nat.le_refl 8)]
    exact read_writeN_outside off x _ hw hx

end

/-- The register map of W0, as HostRegisters has it (R6, R7). -/
theorem hostRegisters : Clause.HostRegisters := by
  intro v s hp
  refine ⟨?_, ?_, ?_, ?_, ?_, ?_, ?_, ?_, ?_, ?_, ⟨?_, ?_, ?_⟩, ?_, ?_, ?_, ?_, ?_, ?_, ?_, ?_, ?_⟩
  · exact exec_registerWrite_of v hp (by decide) (writeWord_powerStep s v)
  · exact exec_registerWrite_of v hp (by decide) (writeWord_powerDroop s v)
  · exact exec_registerWrite_of v hp (by decide) (writeWord_w2Ctl s v)
  · exact exec_registerWrite_of v hp (by decide) (writeWord_mbImage s v)
  · exact exec_registerWrite_of v hp (by decide) (writeWord_mbCommand s v)
  · exact exec_registerWrite_cmd (o := 0x41000) v hp (by decide) (by decide) (by decide) (writeCmd_ringBase s v)
  · exact exec_registerWrite_cmd (o := 0x41008) v hp (by decide) (by decide) (by decide) (writeCmd_ringSize s v)
  · exact exec_registerWrite_cmd (o := 0x41010) v hp (by decide) (by decide) (by decide) (writeCmd_ringHead s v)
  · intro hgo hv
    exact exec_registerWrite_cmd (o := 0x42000) v hp (by decide) (by decide) (by decide) (writeCmd_preempt s v hgo hv)
  · exact exec_registerWrite_cmd (o := 0x43000) v hp (by decide) (by decide) (by decide) (writeCmd_debugControl s v)
  · intro hop
    exact exec_registerWrite_cmd (o := 0x43008) v hp (by decide) (by decide) (by decide) ((writeCmd_debugSelect s v).trans (writeSel_read s v hop))
  · intro hop
    exact exec_registerWrite_cmd (o := 0x43008) v hp (by decide) (by decide) (by decide) ((writeCmd_debugSelect s v).trans (writeSel_write s v hop))
  · intro hop
    exact exec_registerWrite_cmd (o := 0x43008) v hp (by decide) (by decide) (by decide) ((writeCmd_debugSelect s v).trans (writeSel_cancel s v hop))
  · exact exec_registerWrite_cmd (o := 0x43010) v hp (by decide) (by decide) (by decide) (writeCmd_debugDataLow s v)
  · exact exec_registerWrite_cmd (o := 0x43018) v hp (by decide) (by decide) (by decide) (writeCmd_debugDataHigh s v)
  · exact breakpoint_registers v hp
  · exact nonce_registers v hp
  · exact timeTable_registers v hp
  · exact exec_registerWrite_cmd (o := 0x43020) v hp (by decide) (by decide) (by decide) (writeCmd_debugMeta s v)
  · exact queue_register v hp
  · intro off ha harea
    refine byteArea_registers v hp off ha (byteArea_iff.mpr ?_)
    rcases harea with hslot | hvector | htable
    · exact .inl hslot
    · exact .inr (.inr hvector)
    · exact .inr (.inl htable)
  · intro off ha hoff
    refine exec_registerWrite_of v hp ha (writeWord_ignored v fullMask ?_)
    omega

end Sys2Proof.Machine

/-! PROOFS. HostAccess, the aperture: what homes may change as they serve accesses (R209, R219), what a home reads back after a write
(R33, R199), and a W2 access within a sector (R30, R31, R128). -/

namespace Sys2Proof.Machine
open Sys2Proof

/-! ## Changes confined to traffic, and the work of homes -/

/-- `t` is `s` but for cores, columns, edge controllers, launches and messages: no byte, tag, key or register of the host is touched. -/
def OnlyTraffic (s t : State) : Prop :=
  t = { s with cores := t.cores, columns := t.columns, edges := t.edges, launches := t.launches, net := t.net, sent := t.sent, ports := t.ports }

namespace OnlyTraffic

theorem refl (s : State) : OnlyTraffic s s := rfl

theorem trans {s t u : State} (h : OnlyTraffic s t) (k : OnlyTraffic t u) : OnlyTraffic s u := by
  unfold OnlyTraffic at *
  rw [k]
  simp only
  rw [h]

/-- A fold of steps confined to traffic is confined to traffic. -/
theorem foldl {α : Type} {f : State → α → State} (h : ∀ s x, OnlyTraffic s (f s x)) (l : List α) (s : State) :
    OnlyTraffic s (l.foldl f s) := by
  induction l generalizing s with
  | nil => exact refl s
  | cons x r ih => exact (h s x).trans (ih (f s x))

variable {s t : State} (h : OnlyTraffic s t)
include h

theorem mem : t.mem = s.mem := by rw [h]
theorem lineKeys : t.lineKeys = s.lineKeys := by rw [h]

end OnlyTraffic

/-- What the homes' service of accesses may change: traffic, memory, tags and the keys of second-tier lines. Memory stays canonical. -/
structure HomeWork (s t : State) : Prop where
  same : t = { s with
    cores := t.cores, columns := t.columns, edges := t.edges, launches := t.launches, net := t.net, sent := t.sent, ports := t.ports
    mem := t.mem, tags := t.tags, lineKeys := t.lineKeys }
  wf : Memory.wf s.mem = true → Memory.wf t.mem = true

namespace HomeWork

theorem refl (s : State) : HomeWork s s := ⟨rfl, id⟩

theorem trans {s t u : State} (h : HomeWork s t) (k : HomeWork t u) : HomeWork s u := by
  refine ⟨?_, k.wf ∘ h.wf⟩
  have h' := h.same
  have k' := k.same
  rw [k']
  simp only
  rw [h']

theorem of_traffic {s t : State} (h : OnlyTraffic s t) : HomeWork s t := by
  refine ⟨?_, fun hw => h.mem ▸ hw⟩
  have h' := h
  unfold OnlyTraffic at h'
  rw [h']

/-- Bytes, tags and keys put in place, the memory canonical if it was. -/
theorem of_bytes (s : State) (m : List Host.Cell) (g : List Nat) (k : List (Nat × Nat)) (h : Memory.wf s.mem = true → Memory.wf m = true) :
    HomeWork s { s with mem := m, tags := g, lineKeys := k } := ⟨rfl, h⟩

theorem foldl {α : Type} {f : State → α → State} (h : ∀ s x, HomeWork s (f s x)) (l : List α) (s : State) :
    HomeWork s (l.foldl f s) := by
  induction l generalizing s with
  | nil => exact refl s
  | cons x r ih => exact (h s x).trans (ih (f s x))

variable {s t : State} (h : HomeWork s t)
include h

theorem out : t.out = s.out := by rw [h.same]
theorem w2Err : t.w2Err = s.w2Err := by rw [h.same]

end HomeWork

section
variable (s : State)

theorem traffic_faultAsync (lid : Nat) (cls : BitVec 8) (l place : Nat) (d : W64) : OnlyTraffic s (s.faultAsync lid cls l place d) := by
  unfold State.faultAsync State.recordFault State.modLaunch
  split <;> rfl

theorem traffic_sendFrom (pa : Nat) (p : Packet) : OnlyTraffic s (s.sendFrom pa p) := by
  unfold State.sendFrom
  split <;> rfl

theorem traffic_sendEvent (pa dest lid : Nat) (c : Option Nat) : OnlyTraffic s (s.sendEvent pa dest lid c) := by
  unfold State.sendEvent
  simp only
  split
  · rfl
  · exact traffic_sendFrom ..

theorem traffic_setWatches (pa : Nat) (ws : List Watch) : OnlyTraffic s (s.setWatches pa ws) := by
  unfold State.setWatches
  split <;> rfl

theorem traffic_fireAt (pa n : Nat) : OnlyTraffic s (s.fireAt pa n) := by
  unfold State.fireAt
  simp only
  split
  · exact .refl s
  · exact (traffic_setWatches s _ _).trans (.foldl (fun t w => traffic_sendEvent t _ _ _ _) _ _)

theorem traffic_noteWrite (pa n : Nat) : OnlyTraffic s (s.noteWrite pa n) := by
  unfold State.noteWrite
  split <;> rfl

theorem traffic_addWatch (r : Req) : OnlyTraffic s (s.addWatch r) := by
  unfold State.addWatch
  simp only
  split
  · exact (traffic_setWatches s _ _).trans (traffic_sendEvent _ _ _ _ _)
  · exact traffic_setWatches ..

theorem traffic_homeRelease (pa lid : Nat) (g : Sig) : OnlyTraffic s (s.homeRelease pa lid g) := by
  unfold State.homeRelease
  split <;> rfl

/-! ## Bytes written at a home (R33, R199, R201) -/

/-- The state in which a home writes: a line of the second tier is taken over first. -/
def State.lineReady (s : State) (pa key : Nat) : State := if paRegion pa = 2 then s.tierClaim (pa / 128) key else s

theorem homeWork_tierClaim (la key : Nat) : HomeWork s (s.tierClaim la key) := by
  unfold State.tierClaim
  simp only
  split
  · exact .refl s
  · exact .of_bytes s _ _ _ (wf_writeN _ _)

theorem homeWork_lineReady (pa key : Nat) : HomeWork s (s.lineReady pa key) := by
  unfold State.lineReady
  split
  · exact homeWork_tierClaim ..
  · exact .refl s

/-- A line taken over is listed under the key in effect. -/
theorem findAt_tierClaim (la key : Nat) : findAt la (s.tierClaim la key).lineKeys = some (s.keyUsed key) := by
  unfold State.tierClaim
  simp only
  split
  · assumption
  · exact findAt_putAt_self ..

theorem homeWork_storeTagged (pa : Nat) (bs : List Byte) (mask : List (BitVec 2)) (set : List Nat) :
    HomeWork s (s.storeTagged pa bs mask set) := .of_bytes s _ _ _ (wf_writeMasked pa bs mask)

theorem mem_storeTagged (pa : Nat) (bs : List Byte) (mask : List (BitVec 2)) (set : List Nat) :
    (s.storeTagged pa bs mask set).mem = Memory.writeMasked s.mem pa bs mask := rfl

variable (pa key : Nat) (bs : List Byte) (mask : List (BitVec 2)) (set : List Nat)

theorem writeHome_eq : s.writeHome pa key bs mask set =
    (((s.lineReady pa key).noteWrite pa bs.length).storeTagged pa bs mask set).fireAt pa bs.length := rfl

theorem homeWork_writeHome : HomeWork s (s.writeHome pa key bs mask set) := by
  rw [writeHome_eq]
  exact (((homeWork_lineReady s pa key).trans (.of_traffic (traffic_noteWrite ..))).trans (homeWork_storeTagged ..)).trans
    (.of_traffic (traffic_fireAt ..))

theorem mem_writeHome : (s.writeHome pa key bs mask set).mem = Memory.writeMasked (s.lineReady pa key).mem pa bs mask := by
  rw [writeHome_eq, (traffic_fireAt ..).mem, mem_storeTagged, (traffic_noteWrite ..).mem]

theorem lineKeys_writeHome : (s.writeHome pa key bs mask set).lineKeys = (s.lineReady pa key).lineKeys := by
  rw [writeHome_eq, (traffic_fireAt ..).lineKeys, storeTagged_lineKeys, (traffic_noteWrite ..).lineKeys]

end

/-! ## Bytes read at a home -/

/-- Part of a run of bytes is a run of bytes. -/
theorem take_drop_readN (m : List Host.Cell) (a : Nat) {n i k : Nat} (h : i + k ≤ n) :
    ((Memory.readN m a n).drop i).take k = Memory.readN m (a + i) k := by
  apply List.ext_getElem
  · simp only [List.length_take, List.length_drop, length_readN]
    omega
  · intro j _ _
    simp only [List.getElem_take, List.getElem_drop, getElem_readN, Nat.add_assoc]

/-- As many bits as the bytes take hold their number. -/
theorem toNat_ofNat_bytesNat (bs : List Byte) {w : Nat} (hw : w = 8 * bs.length) : (BitVec.ofNat w (bytesNat bs)).toNat = bytesNat bs := by
  have hlt : bytesNat bs < 2 ^ w := by
    rw [hw, Nat.pow_mul]
    exact bytesNat_lt bs
  rw [BitVec.toNat_ofNat, Nat.mod_eq_of_lt hlt]

/-- A line's 1,024 bits, written out as bytes, are the 128 bytes of the line. -/
theorem natBytes_lineBits (s : State) (la : Nat) : natBytes 128 (s.lineBits la).toNat = Memory.readN s.mem (la * 128) 128 := by
  have hlen : (Memory.readN s.mem (la * 128) 128).length = 128 := length_readN ..
  have hbits : (s.lineBits la).toNat = bytesNat (Memory.readN s.mem (la * 128) 128) := toNat_ofNat_bytesNat _ (by rw [hlen])
  have hbytes := natBytes_bytesNat (Memory.readN s.mem (la * 128) 128)
  rw [hlen] at hbytes
  rw [hbits, hbytes]

/-- Outside the second tier a home reads the bytes of memory. -/
theorem readHome_plain (s : State) {pa : Nat} (n key : Nat) (h : paRegion pa ≠ 2) : s.readHome pa n key = Memory.readN s.mem pa n := if_neg h

/-- A second-tier line listed under the key in effect reads as the bytes of memory. -/
theorem readHome_ownKey (s : State) {pa n key : Nat} (hline : pa % 128 + n ≤ 128) (hkey : findAt (pa / 128) s.lineKeys = some (s.keyUsed key)) :
    s.readHome pa n key = Memory.readN s.mem pa n := by
  by_cases h : paRegion pa = 2
  · have hread : s.tierLine (pa / 128) key = s.lineBits (pa / 128) := by
      rw [State.tierLine, hkey]
      exact if_pos rfl
    have hplace : pa / 128 * 128 + pa % 128 = pa := by omega
    rw [State.readHome, if_pos h, hread]
    show ((natBytes 128 (s.lineBits (pa / 128)).toNat).drop (pa % 128)).take n = _
    rw [natBytes_lineBits, take_drop_readN _ _ hline, hplace]
  · exact readHome_plain s n key h

/-- What is written at a home within a line reads back there under the same key. -/
theorem readHome_writeHome {s : State} {pa : Nat} {bs : List Byte} (key : Nat) (set : List Nat) (hw : Memory.wf s.mem = true)
    (hline : pa % 128 + bs.length ≤ 128) : (s.writeHome pa key bs [] set).readHome pa bs.length key = bs := by
  have hbytes : Memory.readN (s.writeHome pa key bs [] set).mem pa bs.length = bs := by
    rw [mem_writeHome, writeMasked_nil]
    exact readN_writeN pa bs ((homeWork_lineReady s pa key).wf hw)
  by_cases h : paRegion pa = 2
  · have hkey : findAt (pa / 128) (s.writeHome pa key bs [] set).lineKeys = some ((s.writeHome pa key bs [] set).keyUsed key) := by
      rw [State.keyUsed, (homeWork_writeHome s pa key bs [] set).out, lineKeys_writeHome, State.lineReady, if_pos h]
      exact findAt_tierClaim s (pa / 128) key
    rw [readHome_ownKey _ hline hkey, hbytes]
  · rw [readHome_plain _ _ _ h, hbytes]

/-! ## Accesses that take effect ahead of the host's (R67, R218) -/

/-- What an access that its home serves makes of the state, its release apart. -/
def State.served (s : State) (r : Req) : State :=
  match r.op with
  | .load => s
  | .lineFill => s
  | .store => s.writeHome r.pa r.key r.data r.mask r.keptTags
  | .writeBack => s.writeHome r.pa r.key r.data r.mask r.keptTags
  | .amo op ty v cmp => s.writeHome r.pa r.key (amoBytes op ty v cmp (s.readHome r.pa r.len r.key)).2 [] []
  | .watch => s.addWatch r

/-- The release that an access brings to its home, if it brings one. -/
def State.releasedBy (s : State) (r : Req) : State :=
  match r.rel with
  | some g => s.homeRelease r.pa r.lid g
  | none => s

/-- An access that finds no code and no damage is served at its home, with its release. -/
theorem perform_served {s : State} {r : Req} (hdone : r.done = none) (hcode : (r.op.writes && s.isCode r.pa) = false)
    (hdamage : (decide (paRegion r.pa ≤ 2) && s.damaged r.pa && r.op != .watch) = false) :
    (s.perform r).1 = (s.served r).releasedBy r := by
  unfold State.perform
  simp only [hdone, hcode, hdamage, if_false, Bool.false_eq_true]
  unfold State.served State.releasedBy
  cases hop : r.op <;> rfl

/-- What performing an access can do to the state, said once: nothing, a fault of its launch, or its service at its home. -/
theorem perform_cases (s : State) (r : Req) : (s.perform r).1 = s ∨
    (∃ cls, (s.perform r).1 = s.faultAsync r.lid cls r.l r.core (BitVec.ofNat 64 r.pa)) ∨ (s.perform r).1 = (s.served r).releasedBy r := by
  cases hdone : r.done with
  | some a =>
    left
    unfold State.perform
    simp only [hdone]
  | none =>
    cases hcode : r.op.writes && s.isCode r.pa with
    | true =>
      right; left
      refine ⟨clsCodeWrite, ?_⟩
      unfold State.perform
      simp only [hdone, hcode, if_true]
    | false =>
      cases hdamage : decide (paRegion r.pa ≤ 2) && s.damaged r.pa && r.op != .watch with
      | true =>
        cases hraise : r.op.writes && r.ticket.isNone with
        | true =>
          right; left
          refine ⟨clsMemory, ?_⟩
          unfold State.perform
          simp only [hdone, hcode, hdamage, hraise, if_true, if_false, Bool.false_eq_true]
        | false =>
          left
          unfold State.perform
          simp only [hdone, hcode, hdamage, hraise, if_true, if_false, Bool.false_eq_true]
      | false => exact .inr (.inr (perform_served hdone hcode hdamage))

theorem homeWork_served (s : State) (r : Req) : HomeWork s (s.served r) := by
  unfold State.served
  split
  · exact .refl s
  · exact .refl s
  · exact homeWork_writeHome ..
  · exact homeWork_writeHome ..
  · exact homeWork_writeHome ..
  · exact .of_traffic (traffic_addWatch s r)

theorem traffic_releasedBy (s : State) (r : Req) : OnlyTraffic s (s.releasedBy r) := by
  unfold State.releasedBy
  split
  · exact traffic_homeRelease ..
  · exact .refl s

theorem homeWork_perform (s : State) (r : Req) : HomeWork s (s.perform r).1 := by
  rcases perform_cases s r with h | ⟨cls, h⟩ | h <;> rw [h]
  · exact .refl s
  · exact .of_traffic (traffic_faultAsync ..)
  · exact (homeWork_served s r).trans (.of_traffic (traffic_releasedBy ..))

/-- A request that takes effect in its table only leaves its answer there besides. -/
theorem traffic_settleNow (s : State) (r : Req) : OnlyTraffic (s.perform r).1 (s.settleNow r) := by
  unfold State.settleNow
  simp only
  split <;> rfl

theorem homeWork_settleNow (s : State) (r : Req) : HomeWork s (s.settleNow r) :=
  (homeWork_perform s r).trans (.of_traffic (traffic_settleNow s r))

theorem homeWork_settleAhead (s : State) (pa n : Nat) : HomeWork s (s.settleAhead pa n) := .foldl homeWork_settleNow _ _

/-- A core's SRAM and the host's memory hold no access back, so none is ahead of the host's. -/
theorem settleAhead_direct (s : State) {pa : Nat} (n : Nat) (h : paRegion pa = 0 ∨ paRegion pa = 3) : s.settleAhead pa n = s := by
  unfold State.settleAhead
  rcases h with h | h <;> rw [h] <;> rfl

/-- One store to the very bytes, waiting in its column's table, takes effect ahead of the host's access. -/
theorem settleAhead_store {s : State} {r : Req} {n : Nat} (hregion : paRegion r.pa = 1)
    (htable : (s.column (paCol r.pa)).table.map (fun x => x.req) = [r]) (hdone : r.done = none) (hmeet : overlaps r.pa r.len r.pa n = true) :
    s.settleAhead r.pa n = s.settleNow r := by
  unfold State.settleAhead
  rw [hregion]
  simp [htable, aheadOf, hdone, hmeet]

/-- The memory that such a store leaves. -/
theorem mem_settleNow_store {s : State} {r : Req} (hop : r.op = .store) (hdone : r.done = none) (hcode : s.isCode r.pa = false)
    (hdamage : s.damaged r.pa = false) (hregion : paRegion r.pa ≠ 2) :
    (s.settleNow r).mem = Memory.writeMasked s.mem r.pa r.data r.mask := by
  have hserved : s.served r = s.writeHome r.pa r.key r.data r.mask r.keptTags := by
    rw [State.served, hop]
  rw [(traffic_settleNow s r).mem, perform_served hdone (by simp [hcode]) (by simp [hdamage]), (traffic_releasedBy _ r).mem, hserved,
    mem_writeHome, State.lineReady, if_neg hregion]

/-- The memory once such a store has taken effect ahead of the host's access. -/
theorem mem_settleAhead_store {s : State} {r : Req} {n : Nat} (hregion : paRegion r.pa = 1)
    (htable : (s.column (paCol r.pa)).table.map (fun x => x.req) = [r]) (hop : r.op = .store) (hdone : r.done = none)
    (hcode : s.isCode r.pa = false) (hdamage : s.damaged r.pa = false) (hmeet : overlaps r.pa r.len r.pa n = true) :
    (s.settleAhead r.pa n).mem = Memory.writeMasked s.mem r.pa r.data r.mask := by
  rw [settleAhead_store hregion htable hdone hmeet, mem_settleNow_store hop hdone hcode hdamage (by omega)]

/-! ## W2 (R30, R31, R128) -/

/-- An access within a sector is one piece. -/
theorem w2Pieces_within {pa n : Nat} (hn : 0 < n) (h : pa % 64 + n ≤ 64) : w2Pieces pa n (n + 1) = [(pa, n)] := by
  have hmin : Nat.min n (64 - pa % 64) = n := Nat.min_eq_left (by omega)
  have hrest : w2Pieces (pa + n) 0 n = [] := by
    cases n <;> rfl
  have hne : n ≠ 0 := by omega
  simp only [w2Pieces, hne, if_false, hmin, Nat.sub_self, hrest]

theorem w2Pa_mod (s : State) (off : Nat) : s.w2Pa off % 64 = off % 64 := by
  unfold State.w2Pa
  omega

theorem w2Ok_iff (s : State) (pa : Nat) : s.w2Ok pa = true ↔ s.mb.state = .ready ∧ s.paOk pa = true ∧
    ¬((paRegion pa = 1 ∨ paRegion pa = 4 ∧ pa / 2 ^ 42 % 2 = 0) ∧ 0x360000 ≤ pa % 2 ^ 22) := by
  simp only [State.w2Ok, reserved, Bool.and_eq_true, Bool.not_eq_true', Bool.and_eq_false_iff, Bool.or_eq_false_iff, beq_iff_eq,
    decide_eq_false_iff_not, and_assoc]
  have hedge : 0x35FFFF < pa % 2 ^ 22 ↔ 0x360000 ≤ pa % 2 ^ 22 := Iff.rfl
  rw [hedge, Decidable.not_and_iff_not_or_not, not_or, Decidable.not_and_iff_not_or_not]

/-- W2 reaches the same addresses after homes have served accesses. -/
theorem w2Ok_of_homeWork {s t : State} (h : HomeWork s t) (pa : Nat) : t.w2Ok pa = s.w2Ok pa := by
  rw [h.same]
  rfl

/-- The endpoint's port takes a host access's flits inward; memory, cores, columns, edge controllers and packets are as before (R131). -/
theorem hostPass_takes (s : State) (vc i o : Nat) :
    ((s.hostPass vc i o).mem = s.mem ∧ (s.hostPass vc i o).cores = s.cores ∧ (s.hostPass vc i o).columns = s.columns ∧
      (s.hostPass vc i o).edges = s.edges ∧ (s.hostPass vc i o).net = s.net) ∧
    getAt 0 s.hostPlace (s.hostPass vc i o).ports = s.clk * s.galleryRate s.hostPlace + i :=
  ⟨⟨rfl, rfl, rfl, rfl, rfl⟩, getAt_putAt_self ..⟩

theorem w2Ok_hostPass (s : State) (vc i o pa : Nat) : (s.hostPass vc i o).w2Ok pa = s.w2Ok pa := rfl

theorem readHome_hostPass (s : State) (vc i o : Nat) {pa : Nat} (n key : Nat) (h : paRegion pa ≠ 2) :
    (s.hostPass vc i o).readHome pa n key = s.readHome pa n key := by
  rw [readHome_plain _ _ _ h, readHome_plain _ _ _ h]
  rfl

theorem isCode_hostPass (s : State) (vc i o pa : Nat) : (s.hostPass vc i o).isCode pa = s.isCode pa := rfl

section
variable {s : State} {off pa n : Nat} (hpa : s.w2Pa off = pa) (hn : 0 < n) (hs : off % 64 + n ≤ 64)
include hpa hn hs

/-- A W2 access within a sector is one piece at its address. -/
theorem w2Pieces_access : w2Pieces (s.w2Pa off) n (n + 1) = [(pa, n)] := by
  rw [w2Pieces_within hn (by rw [w2Pa_mod]; exact hs), hpa]

/-- W2_READ of a range within a sector while the port is taken. -/
theorem exec_w2Read_busy (hok : s.w2Ok pa = true) (hf : s.hostFree 2 = false) : exec (.w2Read off n) s = .next s := by
  show execW2Read off n s = _
  rw [execW2Read, w2Pieces_access hpa hn hs]
  simp [State.w2Waits, hok, hf, happens]

/-- W2_READ of a range within a sector that W2 reaches. -/
theorem exec_w2Read_reached (hok : s.w2Ok pa = true) (hf : s.hostFree 2 = true) : exec (.w2Read off n) s =
    .next { (s.hostPass 2 1 (flitsOf (entriesFor n))).settleAhead pa n with
      hostData := ((s.hostPass 2 1 (flitsOf (entriesFor n))).settleAhead pa n).readHome pa n 0 } := by
  have hpass : s.w2Pass [(pa, n)] false = s.hostPass 2 1 (flitsOf (entriesFor n)) := by
    simp [State.w2Pass, hok, w2Flits]
  have hsettled : ((s.hostPass 2 1 (flitsOf (entriesFor n))).settleAhead pa n).w2Ok pa = true := by
    rw [w2Ok_of_homeWork (homeWork_settleAhead ..), w2Ok_hostPass, hok]
  show execW2Read off n s = _
  rw [execW2Read, w2Pieces_access hpa hn hs]
  simp [State.w2Waits, hf, hpass, w2Ok_hostPass, hok, hsettled, happens]

/-- What such a read gives: the bytes at their home once what came ahead has taken effect, and ERR as it was. -/
theorem w2Read_reached {v : State} (hv : s.hostPass 2 1 (flitsOf (entriesFor n)) = v) (hok : s.w2Ok pa = true) (hf : s.hostFree 2 = true) :
    ∃ t, exec (.w2Read off n) s = .next t ∧ t.hostData = (v.settleAhead pa n).readHome pa n 0 ∧ t.w2Err = s.w2Err ∧
      t.mem = (v.settleAhead pa n).mem := by
  have hexec := exec_w2Read_reached hpa hn hs hok hf
  have herr : (v.settleAhead pa n).w2Err = s.w2Err := by
    rw [(homeWork_settleAhead v pa n).w2Err, ← hv]
    rfl
  rw [hv] at hexec
  generalize v.settleAhead pa n = u at *
  exact ⟨_, hexec, rfl, herr, rfl⟩

/-- W2_READ of a range within a sector that W2 does not reach: all ones, and ERR. -/
theorem exec_w2Read_unreached (hok : s.w2Ok pa = false) :
    exec (.w2Read off n) s = .next { s with hostData := List.replicate n 0xFF, w2Err := true } := by
  show execW2Read off n s = _
  rw [execW2Read, w2Pieces_access hpa hn hs]
  simp [State.w2Waits, State.w2Pass, hok, happens]

end

/-- One piece that W2 reaches, of no code, is written at its home. -/
theorem w2Put_reached {s : State} {pa : Nat} (data : List Byte) (hok : s.w2Ok pa = true) (hcode : s.isCode pa = false) :
    s.w2Put [(pa, data.length)] data = (s.settleAhead pa data.length).writeHome pa 0 data [] [] := by
  have htest : (s.w2Ok pa && !s.isCode pa) = true := by rw [hok, hcode]; rfl
  unfold State.w2Put State.w2Put
  simp only [htest, if_true, List.take_length]

section
variable {s : State} {off pa : Nat} {data : List Byte} (hpa : s.w2Pa off = pa) (hn : 0 < data.length) (hs : off % 64 + data.length ≤ 64)
include hpa hn hs

theorem exec_w2Write_busy (hok : s.w2Ok pa = true) (hf : s.hostFree 2 = false) : exec (.w2Write off data) s = .next s := by
  show execW2Write off data s = _
  rw [execW2Write, w2Pieces_access hpa hn hs]
  simp [State.w2Waits, hok, hf, happens]

/-- W2_WRITE within a sector that W2 reaches, of no code. -/
theorem exec_w2Write_reached (hok : s.w2Ok pa = true) (hf : s.hostFree 2 = true) (hcode : s.isCode pa = false) :
    exec (.w2Write off data) s =
      .next (((s.hostPass 2 (flitsOf (entriesFor data.length)) 1).settleAhead pa data.length).writeHome pa 0 data [] []) := by
  have hpass : s.w2Pass [(pa, data.length)] true = s.hostPass 2 (flitsOf (entriesFor data.length)) 1 := by
    simp [State.w2Pass, hok, w2Flits]
  have hput := w2Put_reached data ((w2Ok_hostPass s 2 (flitsOf (entriesFor data.length)) 1 pa).trans hok)
    ((isCode_hostPass s 2 (flitsOf (entriesFor data.length)) 1 pa).trans hcode)
  show execW2Write off data s = _
  rw [execW2Write, w2Pieces_access hpa hn hs]
  simp only [State.w2Waits, hf, hpass, hput, Bool.not_true, Bool.and_false, Bool.false_eq_true, if_false]
  rfl

/-- W2_WRITE within a sector that W2 does not reach: discarded, and ERR. -/
theorem exec_w2Write_unreached (hok : s.w2Ok pa = false) : exec (.w2Write off data) s = .next { s with w2Err := true } := by
  show execW2Write off data s = _
  rw [execW2Write, w2Pieces_access hpa hn hs]
  simp [State.w2Waits, State.w2Pass, State.w2Put, hok, happens]

/-- W2_WRITE within a sector of a code unit: it passes the port and is discarded, and ERR. -/
theorem exec_w2Write_code (hok : s.w2Ok pa = true) (hf : s.hostFree 2 = true) (hcode : s.isCode pa = true) :
    exec (.w2Write off data) s = .next { s.hostPass 2 (flitsOf (entriesFor data.length)) 1 with w2Err := true } := by
  have hpass : s.w2Pass [(pa, data.length)] true = s.hostPass 2 (flitsOf (entriesFor data.length)) 1 := by
    simp [State.w2Pass, hok, w2Flits]
  show execW2Write off data s = _
  rw [execW2Write, w2Pieces_access hpa hn hs]
  simp [State.w2Waits, State.w2Put, hf, hpass, isCode_hostPass, hcode, happens]

end

/-- W2 of a range within a sector, as HostAperture has it (R30, R31, R128). -/
theorem hostAperture : Clause.HostAperture := by
  intro off s pa reach passed taken
  have hpa : s.w2Pa off = pa := rfl
  have hmod : pa % 64 = off % 64 := (congrArg (· % 64) hpa.symm).trans (w2Pa_mod s off)
  have hreach : reach ↔ s.w2Ok pa = true := (w2Ok_iff s pa).symm
  have hunreached : ¬reach ↔ s.w2Ok pa = false := by rw [hreach, Bool.not_eq_true]
  clear_value pa reach
  refine ⟨?_, ?_, ?_, ?_, ?_⟩
  · intro hr hf len data hlen hls hdata hds
    have hok := hreach.mp hr
    exact ⟨exec_w2Read_busy hpa hlen hls hok hf, exec_w2Write_busy hpa (List.length_pos_iff.mpr hdata) hds hok hf⟩
  · intro len hlen hls
    constructor
    · intro hr hf
      obtain ⟨t, hexec, hread, herr, hmem⟩ := w2Read_reached hpa hlen hls rfl (hreach.mp hr) hf
      refine ⟨t, s.hostPass 2 1 (flitsOf (entriesFor len)), hexec, hostPass_takes .., hread, herr, hmem, fun hdirect => ?_⟩
      have hsettled := settleAhead_direct (s.hostPass 2 1 (flitsOf (entriesFor len))) len hdirect
      refine ⟨hsettled, ?_⟩
      rw [hread, hsettled, readHome_hostPass _ _ _ _ _ _ (by omega)]
    · intro hr
      exact ⟨_, exec_w2Read_unreached hpa hlen hls (hunreached.mp hr), rfl, rfl, rfl⟩
  · intro data hdata hds hw
    have hn := List.length_pos_iff.mpr hdata
    constructor
    · intro hdiscard
      cases hok : s.w2Ok pa with
      | false => exact ⟨_, exec_w2Write_unreached hpa hn hds hok, rfl, rfl, rfl⟩
      | true =>
        rcases hdiscard with hr | ⟨hf, hcode⟩
        · exact absurd (hreach.mpr hok) hr
        · exact ⟨_, exec_w2Write_code hpa hn hds hok hf hcode, rfl, rfl, rfl⟩
    · intro hr hf hcode
      have hsettle := homeWork_settleAhead (s.hostPass 2 (flitsOf (entriesFor data.length)) 1) pa data.length
      refine ⟨_, s.hostPass 2 (flitsOf (entriesFor data.length)) 1, exec_w2Write_reached hpa hn hds (hreach.mp hr) hf hcode,
        hostPass_takes .., ?_, ?_, settleAhead_direct _ _, ?_⟩
      · exact (hsettle.trans (homeWork_writeHome ..)).w2Err
      · exact readHome_writeHome 0 [] (hsettle.wf hw) (by omega)
      · intro hregion x hx
        rw [mem_writeHome, State.lineReady, if_neg hregion]
        exact read_writeMasked_outside pa x data [] (hsettle.wf hw) hx
  · intro c r v hregion htable hop hdone hrpa hrlen hdata hv hmask hcode hdamage hc hr hds hf hw
    subst hc hrpa hdata
    have hplain : paRegion r.pa ≠ 2 := by omega
    have hmeet : overlaps r.pa r.len r.pa 8 = true := by
      simp [overlaps, hrlen]
    have hmem := mem_settleAhead_store (s := s.hostPass 2 1 (flitsOf (entriesFor 8))) hregion htable hop hdone hcode hdamage hmeet
    obtain ⟨t, hexec, hread, -, -⟩ := w2Read_reached hpa (by decide) hds rfl (hreach.mp hr) hf
    refine ⟨t, hexec, ?_⟩
    rw [hread, readHome_plain _ _ _ hplain, hmem, hmask, writeMasked_nil, ← hv]
    exact readN_writeN r.pa r.data hw
  · intro v
    exact ⟨_, congrArg Host.Outcome.next (writeW2Ctl_fullMask s v), rfl, rfl, rfl⟩

end Sys2Proof.Machine

section
open Sys2Proof Sys2Proof.Machine

/-- Settles O49: the aperture by the frame of the homes' service of accesses and by what a home reads back after a write, the registers by the
meaning of one aligned 64-bit write of each block of W0. -/
theorem hostAccess : Obligations.HostAccess := ⟨hostAperture, hostRegisters⟩

end

/-! PROOFS. Routing: what ROUTER_FORWARD does with a packet, where its router sends one on, and how a detour begins and goes on (R131, R132,
R135, R137, R139–R141, R472). -/

namespace Sys2Proof.Machine
open Sys2Proof

/-! ## Where a router sends a packet (R135, R138, R139) -/

@[simp] theorem stepFrom_north (a : Nat) : stepFrom a 0 = a + 2 := rfl
@[simp] theorem stepFrom_south (a : Nat) : stepFrom a 1 = a - 2 := rfl
@[simp] theorem stepFrom_east (a : Nat) : stepFrom a 2 = a + 1024 := rfl
@[simp] theorem stepFrom_west (a : Nat) : stepFrom a 3 = a - 1024 := rfl
@[simp] theorem stepFrom_twin (a : Nat) : stepFrom a 4 = twinOf a := rfl

/-- A router in no rectangle works. -/
theorem routerDead_of_rectOf_none {s : State} {a : Nat} (h : s.rectOf a = none) : s.routerDead a = false :=
  List.any_eq_false.mpr (List.find?_eq_none.mp h)

theorem routeDir_twin {a b : Nat} (h : placeZ a ≠ placeZ b) : routeDir a b = 4 := if_pos h

theorem routeDir_alongX {a b : Nat} (hz : placeZ a = placeZ b) (hx : placeX a ≠ placeX b) :
    routeDir a b = if placeX a < placeX b then 2 else 3 := by
  rw [routeDir, if_neg (not_not_intro hz), planarDir]
  split
  · rfl
  · rw [if_pos (by omega)]

theorem routeDir_alongY {a b : Nat} (hz : placeZ a = placeZ b) (hx : placeX a = placeX b) :
    routeDir a b = if placeY a < placeY b then 0 else 1 := by
  rw [routeDir, if_neg (not_not_intro hz), planarDir, hx, if_neg (Nat.lt_irrefl _), if_neg (Nat.lt_irrefl _)]

/-- The code of a direction's code is the direction again (Table 7-1). -/
theorem dtdCode_dtdCode {d : Nat} (h : d < 4) : dtdCode (dtdCode d) = d := by
  unfold dtdCode
  omega

theorem dtdCode_lt (d : Nat) : dtdCode d < 4 := Nat.mod_lt _ (by decide)

namespace Packet
variable {p : Packet}

theorem dir_undetoured (h : p.dta = false) : p.dir = routeDir p.pos p.dest := by
  simp [Packet.dir, h]

theorem dir_offLine (hdta : p.dta = true) (h : coordOn p.pos p.side ≠ p.line) : p.dir = p.side := by
  simp [Packet.dir, hdta, h]

theorem dir_onLine (hdta : p.dta = true) (h : coordOn p.pos p.side = p.line) : p.dir = dtdCode p.dtd := by
  simp [Packet.dir, hdta, h]

end Packet

/-- Towards a working router a packet goes as it would; over the twin bond too, since that router is alive. -/
theorem aimAt_clear {s : State} {p : Packet} {d : Nat} (hw : p.waits = false) (hd : p.dir = d) (h : s.rectOf (stepFrom p.pos d) = none) :
    s.aimAt p = (p, d) := by
  have hlive : (decide (d = 4) && s.routerDead (twinOf p.pos)) = false := by
    by_cases hd4 : d = 4
    · subst hd4
      exact Bool.and_eq_false_imp.mpr fun _ => routerDead_of_rectOf_none h
    · simp [hd4]
  simp [State.aimAt, hw, hd, hlive, h]

/-- A hop on its layer into a rectangle starts a detour (R139). -/
theorem aimAt_blocked {s : State} {p : Packet} {d : Nat} {r : Nat × Nat × Nat × Nat × Nat} (hw : p.waits = false) (hd : p.dir = d) (hd4 : d < 4)
    (h : s.rectOf (stepFrom p.pos d) = some r) : s.aimAt p = (detour p d r, (detour p d r).dir) := by
  have hplanar : d ≠ 4 := by omega
  simp [State.aimAt, hw, hd, hplanar, h]

/-- Aiming keeps the destination. -/
theorem aimAt_dest (s : State) (p : Packet) : (s.aimAt p).1.dest = p.dest := by
  simp only [State.aimAt]
  split
  · rfl
  · split
    · rw [apply_ite Prod.fst, apply_ite Packet.dest]
      exact ite_self _
    · rfl

/-! ## A hop (R132, R140) -/

/-- A hop takes 2 clk or more (R140). -/
theorem two_le_hopClk (s : State) (a b : Nat) : 2 ≤ s.hopClk a b := by
  unfold State.hopClk
  split <;> decide

/-- A hop keeps the destination. -/
theorem hop_dest (s : State) (p : Packet) : (s.hop p).dest = p.dest := by
  rw [State.hop]
  split
  · rfl
  · exact aimAt_dest s p

/-- Passing out of its last router by the port there, a packet stays at that router. -/
theorem hop_waiting {s : State} {p : Packet} (hw : p.waits = true) : (s.hop p).waits = false ∧ (s.hop p).pos = p.pos := by
  simp [State.hop, hw]

section
variable {s : State} {p a : Packet} {d : Nat} (hw : p.waits = false) (ha : s.aimAt p = (a, d))
include hw ha

theorem hop_pos : (s.hop p).pos = stepFrom a.pos d := by
  simp [State.hop, hw, ha, Packet.settled]

theorem hop_hops : (s.hop p).hops = Nat.min 255 (a.hops + 1) := by
  simp [State.hop, hw, ha, Packet.settled]

theorem hop_ready : (s.hop p).ready = Nat.max a.ready s.clk + s.hopClk a.pos (stepFrom a.pos d) := by
  simp [State.hop, hw, ha, Packet.settled]

theorem hop_vc1 : (s.hop p).vc1 = a.vc1 := by
  simp [State.hop, hw, ha, Packet.settled]

theorem hop_line : (s.hop p).line = a.line := by
  simp [State.hop, hw, ha, Packet.settled]

theorem hop_dte : (s.hop p).dte = a.dte := by
  simp [State.hop, hw, ha, Packet.settled]

/-- A detour lasts until a hop along the packet's way comes to DTE (R139). -/
theorem hop_dta : (s.hop p).dta = (a.dta && !(d = dtdCode a.dtd && coordOn (stepFrom a.pos d) d = a.dte)) := by
  simp [State.hop, hw, ha, Packet.settled]

end

/-! ## ROUTER_FORWARD -/

@[simp] theorem passLink_net (s : State) (p : Packet) : (s.passLink p).net = s.net := rfl

theorem getElem?_setPacket {s : State} {k : Nat} {p : Packet} (hk : s.net[k]? = some p) (t : State) (ht : t.net = s.net) (q : Packet) :
    (t.setPacket k q).net[k]? = some q := by
  obtain ⟨hlt, -⟩ := List.getElem?_eq_some_iff.mp hk
  exact List.getElem?_set_self (ht ▸ hlt)

section
variable {k : Nat} {s : State} {p : Packet} (hk : s.net[k]? = some p) (hr : p.ready ≤ s.clk) (hp : p.plain = true)
include hk hr hp

/-- A packet that may hop does so, and its link has passed it. -/
theorem exec_routerForward_hop (hgo : p.pos ≠ p.dest ∨ p.waits = true) (hm : s.mayHop p = true) :
    exec (.routerForward k) s = .next ((s.passLink p).setPacket k (s.hop p)) := by
  show execRouterForward k s = _
  simp [execRouterForward, hk, Nat.not_lt.mpr hr, hp, hgo, hm, happens]

/-- One on its way that may not hop goes into the overflow buffer, where it is taken there. -/
theorem exec_routerForward_held (hgo : p.pos ≠ p.dest) (hm : s.mayHop p = false) : exec (.routerForward k) s =
    .next (if s.overflows p then s.setPacket k { p with spilt := true } else s) := by
  show execRouterForward k s = _
  simp only [execRouterForward, hk]
  cases h : s.overflows p <;> simp [Nat.not_lt.mpr hr, hp, hgo, hm, happens]

/-- At a waypoint that its router hosts a packet takes the next (R141). -/
theorem exec_routerForward_waypoint (hat : p.pos = p.dest) (hw : p.waits = false) (hway : p.onWay = true) (hhost : s.atWaypoint p = true) :
    exec (.routerForward k) s = .next (s.setPacket k p.waypoint) := by
  show execRouterForward k s = _
  simp [execRouterForward, hk, Nat.not_lt.mpr hr, hp, hat, hw, hway, hhost, happens]

/-- After its hop the packet has the place in the network that it had before. -/
theorem routerForward_hops (hgo : p.pos ≠ p.dest ∨ p.waits = true) (hm : s.mayHop p = true) :
    ∃ t, exec (.routerForward k) s = .next t ∧ t.net[k]? = some (s.hop p) :=
  ⟨_, exec_routerForward_hop hk hr hp hgo hm, getElem?_setPacket hk _ (passLink_net s p) _⟩

end

/-- R131, R132, R135, R137, R140, R472: the undetoured hop, the overflow buffer, the waypoint and the last router. -/
theorem routerHops : Clause.RouterHops := by
  intro k s p hk hr hp hdta
  refine ⟨fun hw hm => ?_, fun hw => ⟨fun hgo hm hclear => ?_, fun hgo hm ho => ?_, fun hgo hm ho => ?_, fun hat hstat hstep hhost => ?_⟩⟩
  · obtain ⟨t, hexec, hnet⟩ := routerForward_hops hk hr hp (.inr hw) hm
    exact ⟨t, _, hexec, hnet, hop_waiting hw⟩
  · obtain ⟨t, hexec, hnet⟩ := routerForward_hops hk hr hp (.inl hgo) hm
    have haim := aimAt_clear hw (Packet.dir_undetoured hdta) hclear
    have hpos := hop_pos hw haim
    refine ⟨t, _, hexec, hnet, hop_dest s p, hop_hops hw haim, fun hz => ?_, fun hz hx => ?_, fun hz hx => ?_, fun hz hx hy => ?_, fun hz hx hy => ?_, ?_⟩
    · rw [hpos, routeDir_twin hz, stepFrom_twin]
    · rw [hpos, routeDir_alongX hz (Nat.ne_of_lt hx), if_pos hx, stepFrom_east]
    · rw [hpos, routeDir_alongX hz (Nat.ne_of_gt hx), if_neg (Nat.lt_asymm hx), stepFrom_west]
    · rw [hpos, routeDir_alongY hz hx, if_pos hy, stepFrom_north]
    · rw [hpos, routeDir_alongY hz hx, if_neg (Nat.lt_asymm hy), stepFrom_south]
    · rw [hop_ready hw haim]
      exact Nat.add_le_add (Nat.le_max_right ..) (two_le_hopClk ..)
  · rw [exec_routerForward_held hk hr hp hgo hm, ho]
    rfl
  · rw [exec_routerForward_held hk hr hp hgo hm, ho]
    rfl
  · have hway : p.onWay = true := by simp [Packet.onWay, hstat, hstep]
    exact ⟨_, p.waypoint, exec_routerForward_waypoint hk hr hp hat hw hway hhost, getElem?_setPacket hk s rfl _, rfl, rfl⟩

/-! ## The side of a detour (R139) -/

section
variable {p : Packet} {d z x0 y0 x1 y1 : Nat}

/-- In travel along x the packet goes south where its destination lies south. -/
theorem detour_southward (hd : d = 2 ∨ d = 3) (h : placeY p.dest < placeY p.pos) (hedge : 0 < y0) :
    (detour p d (z, x0, y0, x1, y1)).side = 1 ∧ (detour p d (z, x0, y0, x1, y1)).line = y0 - 1 := by
  simp [detour, hd, h, Nat.ne_of_gt hedge]

/-- In travel along x it goes north otherwise, with room beside the rectangle there. -/
theorem detour_northward (hd : d = 2 ∨ d = 3) (h : placeY p.pos ≤ placeY p.dest) (hedge : y1 < 511) :
    (detour p d (z, x0, y0, x1, y1)).side = 0 ∧ (detour p d (z, x0, y0, x1, y1)).line = y1 + 1 := by
  simp [detour, hd, Nat.not_lt.mpr h, Nat.ne_of_lt hedge]

/-- In travel along x it goes south of a rectangle that touches the north edge. -/
theorem detour_northEdge (hd : d = 2 ∨ d = 3) (h : placeY p.pos ≤ placeY p.dest) :
    (detour p d (z, x0, y0, x1, 511)).side = 1 ∧ (detour p d (z, x0, y0, x1, 511)).line = y0 - 1 := by
  simp [detour, hd, Nat.not_lt.mpr h, faceOf]

/-- In travel along y it goes east. -/
theorem detour_eastward (hd : d = 0 ∨ d = 1) (hedge : x1 < 511) :
    (detour p d (z, x0, y0, x1, y1)).side = 2 ∧ (detour p d (z, x0, y0, x1, y1)).line = x1 + 1 := by
  rcases hd with rfl | rfl <;> simp [detour, Nat.ne_of_lt hedge]

/-- In travel along y it goes west of a rectangle that touches the east edge. -/
theorem detour_eastEdge (hd : d = 0 ∨ d = 1) :
    (detour p d (z, x0, y0, 511, y1)).side = 3 ∧ (detour p d (z, x0, y0, 511, y1)).line = x0 - 1 := by
  rcases hd with rfl | rfl <;> simp [detour, faceOf]

theorem detour_dte_alongX {c : Prop} [Decidable c] :
    (detour p (if c then 2 else 3) (z, x0, y0, x1, y1)).dte = if c then Nat.min (x1 + 1) 511 else x0 - 1 := by
  split <;> rfl

theorem detour_dte_alongY {c : Prop} [Decidable c] :
    (detour p (if c then 0 else 1) (z, x0, y0, x1, y1)).dte = if c then Nat.min (y1 + 1) 511 else y0 - 1 := by
  split <;> rfl

end

/-! ## Hops of a detour -/

section
variable {s : State} {p : Packet} (hw : p.waits = false)
include hw

/-- The first hop of a detour, to a side that is not the packet's way and whose line it does not stand on. -/
theorem hop_blocked {d e l : Nat} {r : Nat × Nat × Nat × Nat × Nat} (hd : p.dir = d) (hd4 : d < 4) (hr : s.rectOf (stepFrom p.pos d) = some r)
    (hside : (detour p d r).side = e ∧ (detour p d r).line = l) (hoff : coordOn p.pos e ≠ l) (hturn : e ≠ d) :
    (s.hop p).pos = stepFrom p.pos e ∧ (s.hop p).vc1 = true ∧ (s.hop p).dta = true ∧ (s.hop p).dte = (detour p d r).dte := by
  obtain ⟨rfl, rfl⟩ := hside
  have hdir : (detour p d r).dir = (detour p d r).side := Packet.dir_offLine rfl hoff
  have haim : s.aimAt p = (detour p d r, (detour p d r).side) := hdir ▸ aimAt_blocked hw hd hd4 hr
  have hway : (detour p d r).side ≠ dtdCode (detour p d r).dtd := (dtdCode_dtdCode hd4).symm ▸ hturn
  have hpos := hop_pos hw haim
  refine ⟨hpos, hop_vc1 hw haim, ?_, hop_dte hw haim⟩
  rw [hop_dta hw haim, decide_eq_false hway, Bool.false_and, Bool.not_false, Bool.and_true]
  rfl

/-- Off its line a detour goes on toward its side. -/
theorem hop_offLine (hdta : p.dta = true) (hside : p.side ≠ dtdCode p.dtd) (hoff : coordOn p.pos p.side ≠ p.line)
    (hclear : s.rectOf (stepFrom p.pos p.side) = none) :
    (s.hop p).pos = stepFrom p.pos p.side ∧ (s.hop p).vc1 = p.vc1 ∧ (s.hop p).dta = true ∧ (s.hop p).line = p.line := by
  have haim := aimAt_clear hw (Packet.dir_offLine hdta hoff) hclear
  refine ⟨hop_pos hw haim, hop_vc1 hw haim, ?_, hop_line hw haim⟩
  simp [hop_dta hw haim, hdta, hside]

/-- On its line a detour goes its packet's way, and ends at DTE. -/
theorem hop_onLine (hdta : p.dta = true) (hon : coordOn p.pos p.side = p.line) (hclear : s.rectOf (stepFrom p.pos (dtdCode p.dtd)) = none) :
    (s.hop p).pos = stepFrom p.pos (dtdCode p.dtd) ∧ (s.hop p).vc1 = p.vc1 ∧
      (s.hop p).dta = !decide (coordOn (stepFrom p.pos (dtdCode p.dtd)) (dtdCode p.dtd) = p.dte) := by
  have haim := aimAt_clear hw (Packet.dir_onLine hdta hon) hclear
  refine ⟨hop_pos hw haim, hop_vc1 hw haim, ?_⟩
  simp [hop_dta hw haim, hdta]

end

section
variable {s : State} {p : Packet} {z x0 y0 x1 y1 : Nat} (hw : p.waits = false) (hdta : p.dta = false) (hz : placeZ p.pos = placeZ p.dest)
  (hr : s.rectOf (stepFrom p.pos (routeDir p.pos p.dest)) = some (z, x0, y0, x1, y1))
include hw hdta hz hr

/-- A blocked hop along x to a side, north or south. -/
theorem hop_blocked_alongX {e l : Nat} (hx : placeX p.pos ≠ placeX p.dest) (he : e < 2) (hoff : placeY p.pos ≠ l)
    (hside : ∀ d, d = 2 ∨ d = 3 → (detour p d (z, x0, y0, x1, y1)).side = e ∧ (detour p d (z, x0, y0, x1, y1)).line = l) :
    (s.hop p).pos = stepFrom p.pos e ∧ (s.hop p).vc1 = true ∧ (s.hop p).dta = true ∧
      (s.hop p).dte = if placeX p.pos < placeX p.dest then Nat.min (x1 + 1) 511 else x0 - 1 := by
  have hdir := routeDir_alongX hz hx
  have hcases : routeDir p.pos p.dest = 2 ∨ routeDir p.pos p.dest = 3 := by rw [hdir]; split <;> simp
  have hcoord : coordOn p.pos e = placeY p.pos := by simp [coordOn, show e ≠ 2 ∧ e ≠ 3 by omega]
  have hhop := hop_blocked hw (Packet.dir_undetoured hdta) (by omega) hr (hside _ hcases) (hcoord ▸ hoff) (by omega)
  rwa [hdir, detour_dte_alongX] at hhop

/-- A blocked hop along y to a side, east or west. -/
theorem hop_blocked_alongY {e l : Nat} (hx : placeX p.pos = placeX p.dest) (he : e = 2 ∨ e = 3) (hoff : placeX p.pos ≠ l)
    (hside : ∀ d, d = 0 ∨ d = 1 → (detour p d (z, x0, y0, x1, y1)).side = e ∧ (detour p d (z, x0, y0, x1, y1)).line = l) :
    (s.hop p).pos = stepFrom p.pos e ∧ (s.hop p).vc1 = true ∧ (s.hop p).dta = true ∧
      (s.hop p).dte = if placeY p.pos < placeY p.dest then Nat.min (y1 + 1) 511 else y0 - 1 := by
  have hdir := routeDir_alongY hz hx
  have hcases : routeDir p.pos p.dest = 0 ∨ routeDir p.pos p.dest = 1 := by rw [hdir]; split <;> simp
  have hcoord : coordOn p.pos e = placeX p.pos := by simp [coordOn, he]
  have hhop := hop_blocked hw (Packet.dir_undetoured hdta) (by omega) hr (hside _ hcases) (hcoord ▸ hoff) (by omega)
  rwa [hdir, detour_dte_alongY] at hhop

end

/-- R139: how a detour starts, its steps toward its side and along the packet's way, and its end at DTE. -/
theorem detours : Clause.Detours := by
  intro k s p hk hr hp hw hgo hm
  obtain ⟨t, hexec, hnet⟩ := routerForward_hops hk hr hp (.inl hgo) hm
  intro moves
  have hmoves {f : Packet → Prop} (h : f (s.hop p)) : moves f := ⟨t, _, hexec, hnet, hop_dest s p, h⟩
  refine ⟨fun z x0 y0 x1 y1 hdta hz hrect => ⟨fun hx hlow hhigh => ⟨fun hsouth hedge => ?_, fun hnorth hedge => ?_, fun hnorth hedge hroom => ?_⟩,
    fun hx _ hlow hhigh => ⟨fun hedge => ?_, fun hedge hroom => ?_⟩⟩, fun hdta _ _ hside => ⟨fun hoff hclear => ?_, fun hon hclear => ?_⟩⟩
  · exact hmoves (hop_blocked_alongX hw hdta hz hrect hx (by decide) (by omega) fun _ hd => detour_southward hd hsouth hedge)
  · exact hmoves (hop_blocked_alongX hw hdta hz hrect hx (by decide) (by omega) fun _ hd => detour_northward hd hnorth hedge)
  · subst hedge
    exact hmoves (hop_blocked_alongX hw hdta hz hrect hx (by decide) (by omega) fun _ hd => detour_northEdge hd hnorth)
  · exact hmoves (hop_blocked_alongY hw hdta hz hrect hx (.inl rfl) (by omega) fun _ hd => detour_eastward hd hedge)
  · subst hedge
    have hhop := hop_blocked_alongY hw hdta hz hrect hx (.inr rfl) (by omega) fun _ hd => detour_eastEdge hd
    rw [stepFrom_west] at hhop
    exact hmoves hhop
  · exact hmoves (hop_offLine hw hdta hside hoff hclear)
  · exact hmoves (hop_onLine hw hdta hon hclear)

end Sys2Proof.Machine

section
open Sys2Proof Sys2Proof.Machine

/-- Settles O28: the outcomes of ROUTER_FORWARD, each with where its router aims the packet and what the hop leaves of it. -/
theorem routing : Obligations.Routing := ⟨routerHops, detours⟩

end
